-- ==== Sys2Proof/Word.lean ====
section
/-! DEFINITION. The words of the Rholyn module: bytes, registers, device addresses. -/

namespace Sys2Proof

/-- A byte; every structure is little-endian (R5). -/
abbrev Byte := BitVec 8

/-- A 32-bit lane of the vector engine, and a binary32 bit pattern (R131). -/
abbrev Lane := BitVec 32

/-- A 64-bit register (R7). -/
abbrev Reg64 := BitVec 64

/-- A 40-bit address or step register (R45). -/
abbrev AReg := BitVec 40

/-- A device address (R19). -/
abbrev DevAddr := BitVec 56

end Sys2Proof
end

