-- ==== Sys2Proof/Syntax.lean ====
section
/-! DEFINITION. The commands of the module: one constructor per row of spec/opcode_table.json, with the operand
types they use. A command is one agent's whole step; `dt` counts the cycles of that agent's own clock that pass before it
(R34: there is no shared time base). -/

namespace Sys2Proof

/-- The two streams of a tile (R39). -/
inductive Stream where
  | A
  | E
deriving DecidableEq, Repr

/-- Where and when a bundle issues: the logical tile, the stream that fetched it, its header granule (R49), and the tile
cycles that pass before it issues. The other slots of a bundle follow as commands with the same header. -/
structure Issue where
  tile : Nat
  stream : Stream
  hdr : BitVec 64
  dt : Nat
deriving DecidableEq, Repr

/-- An event at a tile, and the tile cycles that pass before it. -/
structure TileAt where
  tile : Nat
  dt : Nat
deriving DecidableEq, Repr

/-- An event at a stack controller, and the stack cycles that pass before it. -/
structure StkAt where
  stack : Nat
  dt : Nat
deriving DecidableEq, Repr

/-- Scalar operations 0x01 to 0x08 (R58). -/
inductive AluOp where
  | add | sub | band | bor | bxor | shl | shr | sar
deriving DecidableEq, Repr

/-- Minimum and maximum, signed and unsigned (R58, R133). -/
inductive MinMaxOp where
  | min | max | minu | maxu
deriving DecidableEq, Repr

/-- Scalar comparisons 0x0E to 0x10 (R58). -/
inductive SetOp where
  | slt | sltu | seq
deriving DecidableEq, Repr

/-- Branch relations 0x21 to 0x26 (R58). -/
inductive BranchOp where
  | beq | bne | blt | bge | bltu | bgeu
deriving DecidableEq, Repr

/-- The second source of a scalar slot: s[RB], or IMM if I is 1 (R53, R58). -/
structure Src2 where
  i : Bool
  rb : Fin 32
  imm : BitVec 40
deriving DecidableEq, Repr

/-- The widths of ld.s and st.s (R55). -/
inductive Width where
  | b1 | b2 | b4 | b8
deriving DecidableEq, Repr

/-- The long form of a load or store slot (R83). -/
structure LongForm where
  areg : Fin 16
  queue : Fin 4
  spaddr : BitVec 23
  rowbytes : BitVec 14
  rowstride : BitVec 24
  rows : BitVec 16
deriving DecidableEq, Repr

/-- The fields of a vector slot besides its opcode (R56). -/
structure VSlot where
  dst : BitVec 7
  src1 : BitVec 7
  src2 : BitVec 7
  src3 : BitVec 7
  count : BitVec 16
  handle : Fin 1024
  md : BitVec 2
deriving DecidableEq, Repr

/-- The fields of a matrix slot besides its opcode (R57). -/
structure MSlot where
  ha : Fin 1024
  bsel : BitVec 7
  hb : BitVec 10
  acc : BitVec 11
  accmode : BitVec 2
  dsel : BitVec 7
deriving DecidableEq, Repr

inductive FArithOp where
  | add | sub | mul
deriving DecidableEq, Repr

inductive FMinMaxOp where
  | min | max
deriving DecidableEq, Repr

inductive SignOp where
  | abs | neg
deriving DecidableEq, Repr

/-- Saturating integer operations (R133). -/
inductive SatOp where
  | addS | subS | addU
deriving DecidableEq, Repr

inductive BitOp where
  | band | bor | bxor
deriving DecidableEq, Repr

inductive ShiftOp where
  | shl | shr | sar
deriving DecidableEq, Repr

inductive RedFOp where
  | sum | max | min
deriving DecidableEq, Repr

inductive RedSOp where
  | sum | max
deriving DecidableEq, Repr

/-- The engine of a tile whose waiting operation starts (R87, R128). -/
inductive EngineSel where
  | vector
  | matrixLoad
  | matrixMul
deriving DecidableEq, Repr

/-- What the stack interface or the logic die reports for one attempt of an access (R205, R236), or that it found the page's word
of the valid map uncorrectable (R249). -/
inductive AccEvent where
  | ok
  | timingViolation
  | parityError
  | mapUncorrectable
deriving DecidableEq, Repr

/-- A request record as read from a request ring (R335). Fields a kind does not use are ignored. -/
structure ReqRec where
  cls : BitVec 2
  onLate : Bool
  hostSamp : Bool
  notify : Bool
  switchNow : Bool
  vector : BitVec 11
  rid : BitVec 32
  tokAddr : BitVec 64
  nTok : BitVec 21
  maxNew : BitVec 21
  adapter : BitVec 16
  version : BitVec 16
  ftd : BitVec 32
  budget : BitVec 32
  ttl : BitVec 17
  outAddr : BitVec 64
  outLog2 : BitVec 5
  stopN : BitVec 4
  sampAddr : BitVec 64
  handle : BitVec 48
  stops : List (BitVec 32)
deriving DecidableEq, Repr

/-- An adapter image as the ringmaster reads it: its header's 64 bytes (R357), and whether the host has answered the reads. -/
structure AdapterImage where
  header : List Byte
  readOk : Bool
deriving DecidableEq, Repr

/-- What one receive lane observes in LOCK (R424, R425): whether it has signal, and the blocks it received one after another at one block
position, each as 128 PAM4 levels of two bits, the first symbol lowest; `pairGood` says the far side's receiver finds the lane good too. -/
structure LaneObs where
  signal : Bool
  blocks : List (BitVec 256)
  pairGood : Bool
deriving DecidableEq, Repr

/-- A flit as the lanes deliver it: its bytes after the correction of R435, and the symbols corrected. -/
structure FlitIn where
  bits : BitVec 2048
  fecCorr : Nat
deriving DecidableEq, Repr

/-- The fields of a NEG flit (R430). -/
structure NegFlit where
  node : BitVec 12
  supp : BitVec 16
  creq : BitVec 16
  crsp : BitVec 16
  ccoll : BitVec 16
  width : BitVec 2
  seen : Bool
deriving DecidableEq, Repr

/-- A packet header and its data bytes (R440). For a SIGNAL the data slot is `data`; for the first COLL packet of a command the
command's eight bytes stand in front of the data (R453). `origLink`, by the receiver's number, and `origSeq` are the extra header
slot of a RESENT packet (R442). -/
structure Packet where
  type : BitVec 4
  resent : Bool
  hops : BitVec 3
  dst : BitVec 12
  src : BitVec 12
  bytes : BitVec 8
  acid : BitVec 6
  ac : Bool
  tag : BitVec 20
  addr : BitVec 56
  code : BitVec 4
  origLink : BitVec 5
  origSeq : BitVec 12
  data : List Byte
deriving DecidableEq, Repr

/-- Why a link leaves ACTIVE (R442). -/
inductive LeaveCause where
  | retrain
  | failed
  | fenced
  | disabled
deriving DecidableEq, Repr

/-- The status of a completion of a module read of host memory (R475). -/
inductive CplStatus where
  | success
  | unsupported
  | abort
deriving DecidableEq, Repr

/-- Who fires an interrupt source (R501). -/
inductive IntOrigin where
  | lodge
  | tile
  | host
  | steward (k : Fin 4)
deriving DecidableEq, Repr

/-- Who issues a live-service command: the physical function, or a manager with an instance byte (R510, R512). -/
inductive LiveSrc where
  | host
  | manager (m : Nat) (inst : Byte)
deriving DecidableEq, Repr

/-- The transports that carry SPDM (R569). -/
inductive Transport where
  | smbus
  | vdm
  | doe
deriving DecidableEq, Repr

/-- Rail and input faults (R526). -/
inductive RailFaultKind where
  | inputLow
  | inputHigh
  | regulator (rail : Nat)
  | channel (rail : Nat)
  | guardExhausted
deriving DecidableEq, Repr

/-- Causes of an orderly shutdown (R544). -/
inductive ShutdownCause where
  | temperature
  | railFault
  | guardExhausted
  | inputVoltage
  | coolantFlow
deriving DecidableEq, Repr

/-- A firmware image's header and what the verifier finds of its key digest and signature (R562, R563). -/
structure FwImage where
  magic : BitVec 32
  component : BitVec 16
  svn : BitVec 6
  keyIdx : BitVec 2
  commit : Bool
  revoke : BitVec 4
  version : BitVec 32
  len : BitVec 32
  dutyVer : BitVec 16
  keyDigestOk : Bool
  sigOk : Bool
deriving DecidableEq, Repr

/-- A firmware image that a manager sends (R508, R515). -/
structure FwOffer where
  manager : Nat
  image : FwImage
deriving DecidableEq, Repr

/-- ActivateFirmware by a manager: whether each steward joins with the new image (R515). -/
structure FwActivation where
  manager : Nat
  joinOk : List Bool
deriving DecidableEq, Repr

/-- A part of a step boundary: the last action to run, and the Lodge cycles that this takes (R36, R345). -/
structure BoundaryRun where
  last : Nat
  cycles : Nat
deriving DecidableEq, Repr

/-- The pages of a sequence as host memory answers them, each with its poison flag (R283). -/
structure SwapIn where
  seq : Nat
  data : List (List Byte × Bool)
deriving DecidableEq, Repr

/-- A heartbeat: COUNT, and the copies of duty states that the steward finds uncorrectable (R495, R497). -/
structure Beat where
  count : BitVec 32
  lost : BitVec 16
deriving DecidableEq, Repr

/-- What start-up's tests find (R556 to R558): the stacks trained, the physical tiles and the bank engines that fail
their self-test, the links that fail calibration, and the stack temperature bands. -/
structure StartupObs where
  fslGood : Bool × Bool
  fwGood : Bool × Bool
  cfgGood : Bool × Bool
  stacksOk : BitVec 8
  badTiles : List Nat
  badEngines : List Nat
  badUnits : List Nat
  badLinks : List Nat
  bands : List (BitVec 2)
  voltsOk : Bool
  flowOk : Bool
  coolOk : Bool
  causePresent : Bool
  strap : BitVec 2
deriving DecidableEq, Repr

/-- Who writes a register (R7, R459, R466, R518): a PCIe function in one of its windows 0, 2 and 4, a steward in register space, the physical
function in the LNK_ and BND_ blocks of register space, the management path in a table entry of stack memory (R281); and who reads one, for which the table has no row:
a function in its window 0, or 2 (`bells`), or a steward in register space. -/
inductive RegWriter where
  | host (fn : Nat) (window : Fin 3)
  | steward (k : Fin 4)
  | physical
  | management
  | hostRead (fn : Nat) (bells : Bool)
  | stewardRead (k : Fin 4)
deriving DecidableEq, Repr

/-- The commands of the module, one constructor per row of spec/opcode_table.json, in the table's order. -/
inductive Instr where
  -- bundle slots of a tile
  | bundleNop (u : Issue)
  | aluOp (u : Issue) (op : AluOp) (rd ra : Fin 32) (src : Src2)
  | mul (u : Issue) (rd ra : Fin 32) (src : Src2)
  | minMax (u : Issue) (op : MinMaxOp) (rd ra : Fin 32) (src : Src2)
  | setCompare (u : Issue) (op : SetOp) (rd ra : Fin 32) (src : Src2)
  | li (u : Issue) (rd : Fin 32) (imm : BitVec 40)
  | seta (u : Issue) (n : Fin 16) (src : Src2)
  | sett (u : Issue) (n : Fin 16) (src : Src2)
  | rda (u : Issue) (rd : Fin 32) (n : Fin 16)
  | rdt (u : Issue) (rd : Fin 32) (n : Fin 16)
  | bind (u : Issue) (n : Fin 16) (imm : BitVec 40)
  | rdlc (u : Issue) (rd : Fin 32) (k : Fin 4)
  | rdreg (u : Issue) (rd : Fin 32) (imm : BitVec 40)
  | jmp (u : Issue) (imm : BitVec 40)
  | condBranch (u : Issue) (op : BranchOp) (ra rb : Fin 32) (i : Bool) (imm : BitVec 40)
  | loop (u : Issue) (k : Fin 4) (ra : Fin 32) (i : Bool) (imm : BitVec 40)
  | lexit (u : Issue)
  | qput (u : Issue) (q : Fin 4) (ra : Fin 32)
  | qget (u : Issue) (rd : Fin 32) (q : Fin 4)
  | qcnt (u : Issue) (rd : Fin 32) (q : Fin 4)
  | sig (u : Issue) (ra rb : Fin 32) (imm : BitVec 14)
  | sigT (u : Issue) (ra rb : Fin 32) (imm : BitVec 14)
  | wait (u : Issue) (ra rb : Fin 32) (imm : BitVec 14)
  | obs (u : Issue) (ra rb : Fin 32) (imm : BitVec 14)
  | await (u : Issue) (rb : Fin 32) (imm : BitVec 14)
  | acset (u : Issue) (rb : Fin 32) (imm : BitVec 14)
  | fence (u : Issue) (imm : BitVec 14)
  | bell (u : Issue) (ra : Fin 32) (imm : BitVec 14)
  | qwait (u : Issue) (imm : BitVec 14)
  | endOp (u : Issue)
  | ldQ (u : Issue) (h : Fin 1024) (areg : Fin 16) (q : Fin 4) (count : BitVec 8) (vol : Bool) (imm : BitVec 24)
  | ldS (u : Issue) (h : Fin 1024) (areg : Fin 16) (sreg : Fin 32) (w : Width) (vol : Bool) (imm : BitVec 24)
  | ldQL (u : Issue) (f : LongForm)
  | stQ (u : Issue) (h : Fin 1024) (areg : Fin 16) (q : Fin 4) (count : BitVec 8) (acid : Fin 64) (imm : BitVec 24)
  | stS (u : Issue) (h : Fin 1024) (areg : Fin 16) (sreg : Fin 32) (w : Width) (acid : Fin 64) (imm : BitVec 24)
  | stQL (u : Issue) (f : LongForm)
  | stCp (u : Issue) (hs hd : Fin 1024) (as ad : Fin 16) (count : BitVec 8) (acid : Fin 64)
  | vaddF32 (u : Issue) (op : FArithOp) (v : VSlot)
  | vfma (u : Issue) (v : VSlot)
  | vminVmaxF32 (u : Issue) (op : FMinMaxOp) (v : VSlot)
  | vabsVneg (u : Issue) (op : SignOp) (v : VSlot)
  | vmov (u : Issue) (v : VSlot)
  | vcmp (u : Issue) (v : VSlot)
  | vsel (u : Issue) (v : VSlot)
  | vintArith (u : Issue) (op : FArithOp) (v : VSlot)
  | vsatArith (u : Issue) (op : SatOp) (v : VSlot)
  | vintMinMax (u : Issue) (op : MinMaxOp) (v : VSlot)
  | vbitwise (u : Issue) (op : BitOp) (v : VSlot)
  | vshift (u : Issue) (op : ShiftOp) (v : VSlot)
  | vcvtF32S32 (u : Issue) (v : VSlot)
  | vcvtS32F32 (u : Issue) (v : VSlot)
  | viota (u : Issue) (v : VSlot)
  | vcurve (u : Issue) (slot : Fin 8) (v : VSlot)
  | vcload (u : Issue) (v : VSlot)
  | vredF32 (u : Issue) (op : RedFOp) (v : VSlot)
  | vredS32 (u : Issue) (op : RedSOp) (v : VSlot)
  | vredcnt (u : Issue) (v : VSlot)
  | vredmaxi (u : Issue) (v : VSlot)
  | vunpk (u : Issue) (f : Fin 16) (v : VSlot)
  | vpack (u : Issue) (f : Fin 16) (v : VSlot)
  | mld (u : Issue) (b : Bool) (m : MSlot)
  | mmul (u : Issue) (b : Bool) (f : Fin 16) (m : MSlot)
  | mdrain (u : Issue) (wide : Bool) (m : MSlot)
  -- events of a tile
  | engineOpStart (t : TileAt) (e : EngineSel)
  | loadItemPush (t : TileAt) (q : Fin 4)
  | replayResume (t : TileAt)
  | windowIdleClose (t : TileAt)
  | windowConfirm (t : TileAt)
  | effectRelease (t : TileAt)
  | replayDeadlock (t : TileAt)
  | deferredHalt (t : TileAt)
  | remoteWriteArrive (t : TileAt) (idx : Nat)
  | sigTArrive (t : TileAt) (idx : Nat)
  | releaseNotice (t : TileAt)
  | fenceComplete (t : TileAt)
  | unitWakeComplete (unit : BitVec 16)
  | unitSleep (unit : BitVec 16)
  | bankEngineSleep (k : StkAt) (pc : Fin 64)
  -- region engines and atomics
  | copyCmdAccept (region : Fin 8)
  | copyCmdStart (region : Fin 8) (dt : Nat)
  | copyCmdComplete (region : Fin 8) (dt : Nat)
  | atomBatch (region : Fin 8)
  | atomicPerform (region : Fin 8) (idx : Nat)
  -- command programmes
  | startCmdAccept (k : StkAt)
  | prgStart (k : StkAt)
  | prgMemWrite (k : StkAt)
  | vstageWrite (k : StkAt)
  | rowNop (k : StkAt)
  | act (k : StkAt)
  | pre (k : StkAt)
  | wake (k : StkAt)
  | vload (k : StkAt)
  | sload (k : StkAt)
  | mac (k : StkAt)
  | aclr (k : StkAt)
  | drain (k : StkAt)
  | cmove (k : StkAt)
  | rowSig (k : StkAt)
  | rowLoop (k : StkAt)
  | rowEnd (k : StkAt)
  | prgComplete (k : StkAt)
  | acfg (k : StkAt)
  | awalk (k : StkAt)
  | walkerTableFetch (k : StkAt)
  | rowReissue (k : StkAt)
  -- stack memory
  | ordinaryAccess (k : StkAt) (idx : Nat) (ev : AccEvent)
  | accessTvRetry (k : StkAt) (idx : Nat) (ev : AccEvent)
  | preempt (k : StkAt)
  | preemptResume (k : StkAt)
  | refreshDue (k : StkAt) (pc : Fin 64)
  | refreshBoundary (k : StkAt)
  | bandSwapRequest (k : StkAt) (bits : BitVec 4)
  | throttleLevelApply (k : StkAt)
  | engAvailRestore (k : StkAt) (pc : Fin 64)
  | pageFillDone (k : StkAt) (pc : Fin 64) (page : Nat)
  | validClear (k : StkAt) (page : BitVec 19) (npage : BitVec 20) (pcmask : BitVec 64)
  | validClearDone (k : StkAt)
  | scrubVisit (k : StkAt)
  | pageRepair (k : StkAt) (pc : Fin 64) (page : Nat)
  | parityRetry (k : StkAt) (idx : Nat) (ev : AccEvent)
  | interfaceRecal (k : StkAt) (idx : Nat) (passed : Bool)
  | odeccPoll (counts : List Nat)
  | kvcopy (k : StkAt) (src dst : BitVec 25)
  | kvcopyDone (k : StkAt)
  -- semaphore unit
  | semSignalApply (idx : Nat)
  | semWaitArrive (idx : Nat)
  | semObsArrive (idx : Nat)
  | ntfArm (fn : Nat) (slot : Nat) (a : BitVec 64)
  -- serving
  | newReq (fn : Nat) (r : ReqRec) (samp : List Byte) (toks : List (BitVec 32))
  | cancel (fn : Nat) (rid : BitVec 32)
  | pause (fn : Nat) (rid : BitVec 32) (ttl : BitVec 17)
  | resume (fn : Nat) (r : ReqRec) (samp : List Byte) (toks : List (BitVec 32))
  | adapterLoad (fn : Nat) (r : ReqRec)
  | adapterRetire (fn : Nat) (r : ReqRec)
  | hostChoice (fn : Nat) (rid : BitVec 32) (choice lstep : BitVec 32)
  | stepBoundary (run : BoundaryRun) (cons : List (Nat × BitVec 32 × BitVec 32))
  | adapterReady (slot : Nat) (img : AdapterImage) (payload : List Byte)
  | parkCopyDone (seq : Nat)
  | swapOutDone (seq : Nat)
  | swapInDone (copy : SwapIn)
  | ttlExpire (handle : BitVec 48)
  | reqIfneg (fn : Nat) (offer : BitVec 16)
  | ringEnable (fn : Nat) (value : BitVec 64)
  | functionDisable (fn : Nat)
  -- tombola
  | verify (d : Fin 2) (dt : Nat)
  | propose (d : Fin 2) (dt : Nat)
  | exportLogits (d : Fin 2) (dt : Nat)
  | tmbCmdComplete (d : Fin 2) (dt : Nat)
  -- jobs
  | jobGo (image model : List Byte) (hostReadOk : Bool)
  | jobEnd
  | jobAbort
  | jobRelease
  | jobFinish
  | jobTeardown
  | checkpointSave
  | checkpointRestore
  | jobPreempt
  | jobResume
  | quiescePoint
  | ifnegWrite (iface : BitVec 3) (offer : BitVec 16)
  | quotaWrite (f : Nat) (a b : BitVec 64)
  -- Chakar links
  | linkEnable (n : Fin 24)
  | linkDetectDone (n : Fin 24) (signal : BitVec 5)
  | linkLockDone (n : Fin 24) (lanes : List LaneObs)
  | negFlitRx (n : Fin 24) (bits : BitVec 2048) (fecCorr : Nat)
  | linkTrainTimeout (n : Fin 24)
  | linkRetrain (n : Fin 24)
  | spareNow (n : Fin 24) (lane : BitVec 3)
  | laneRetire (n : Fin 24) (lane : Fin 5)
  | flitRx (n : Fin 24) (f : FlitIn)
  | nullFlitTx (n : Fin 24)
  | linkLeaveActive (n : Fin 24) (cause : LeaveCause)
  | heldPacketTimeout (n : Fin 24)
  | resentWindowExpire (n : Fin 24)
  | writePktRx (n : Fin 24) (p : Packet)
  | signalPktRx (n : Fin 24) (p : Packet)
  | ackPktRx (n : Fin 24) (p : Packet)
  | refusePktRx (n : Fin 24) (p : Packet)
  | collPktRx (n : Fin 24) (p : Packet)
  -- bandstand
  | allreduce (d : Fin 2)
  | reducescatter (d : Fin 2)
  | allgather (d : Fin 2)
  | broadcast (d : Fin 2)
  | bndCmdComplete (d : Fin 2)
  -- host interface
  | hstDbRing (fn : Nat) (tail : BitVec 16)
  | hstDbSem (fn : Nat) (sem : BitVec 16) (amount : BitVec 32)
  | hstDbInt (fn : Nat) (source : BitVec 11)
  | apertureRead (fn : Nat) (off len : Nat)
  | apertureWrite (fn : Nat) (off : Nat) (data : List Byte) (ep : Bool)
  | atsInvalidate (fn : Nat) (addr : BitVec 64) (size : Nat)
  | hostReadCompletion (id : Nat) (status : CplStatus) (data : List Byte) (ep : Bool)
  | hostReadTimeout (id : Nat)
  | hdmaCmdAccept (region : Fin 8)
  | hdmaCmdComplete (region : Fin 8) (data : List Byte) (ep : Bool)
  | vfFlr (fn : Nat)
  | pfFlr
  -- the Lodge
  | heartbeat (k : Fin 4) (beat : Beat)
  | heartbeatTimeout (k victim : Fin 4)
  | failoverClaim (k victim : Fin 4)
  | stewardSelftestDone (k : Fin 4) (passed : Bool)
  | lodgeWatchdog (o : StartupObs)
  | intFire (source : BitVec 11) (origin : IntOrigin)
  | intOffer (source : BitVec 11) (dt : Nat)
  | intClaim (k : Fin 4)
  | intEoi (k : Fin 4) (source : BitVec 11)
  | statusEvent (unit : BitVec 16) (report : BitVec 3) (kind : BitVec 4)
  | evqPop (k : Fin 4)
  | housekeepingRound (samples : List Lane) (dt : Nat)
  | fenceReadback (unit : BitVec 16) (passed : Bool)
  | thermalCalibrate (k : Fin 4)
  | setEndpointId (binding : Transport) (eid : Byte)
  | profileOffer (m : Nat) (inst : Byte) (offer : BitVec 16)
  | liveData (m : Nat) (inst : Byte) (off : BitVec 32) (data : List Byte)
  | liveStatus (m : Nat) (inst : Byte)
  | liveCurve (src : LiveSrc) (payload : List Byte) (readOk : Bool)
  | liveTiming (src : LiveSrc) (payload : List Byte) (readOk : Bool)
  | liveThermcoef (src : LiveSrc) (payload : List Byte) (readOk : Bool)
  | liveRetire (src : LiveSrc) (unit : BitVec 16)
  | livePerturb (src : LiveSrc) (payload : List Byte) (readOk : Bool)
  | pldmUnsupportedCmd (binding : Transport) (type cmd : Byte)
  | getSensorReading (binding : Transport) (sensor : BitVec 16)
  | setPowerCapEffecter (value : BitVec 16)
  | pldmFwUpdate (offer : FwOffer) (slotWritten : Bool)
  | activateFirmware (a : FwActivation)
  | fwCommit (component : BitVec 16)
  | challenge (t : Transport)
  | getMeasurements (t : Transport) (index : Byte) (signed : Bool)
  | respondIfReady (t : Transport)
  | setCertificate (t : Transport)
  | spdmSignatureDone (dt : Nat)
  -- power, clocks and heat
  | guardSample (milliwatts : Nat)
  | levelChangeDone
  | railFault (kind : RailFaultKind)
  | orderlyShutdown (cause : ShutdownCause)
  | shutdownRailsOff
  | hardwareTrip
  | flowLost
  | flowRestored
  | flowLostLimit
  | feedLoss (feedB : Bool) (otherGood : Bool)
  -- resets and start-up
  | powerOn (o : StartupObs)
  | mrst (ns : Nat) (o : StartupObs)
  | perstAssert (o : StartupObs)
  | perstDeassert
  | holdRelease (o : StartupObs)
  | dlActive (speed : BitVec 4) (width : BitVec 5) (flit : Bool) (ms : BitVec 16)
  -- bring-up access, boundary scan, trace
  | spareQuery (stack : Fin 8) (die : BitVec 5) (arg : BitVec 64)
  | softRepair (stack : Fin 8) (die : BitVec 5) (arg : BitVec 64)
  | odeccRead (stack : Fin 8) (die : BitVec 5) (count : BitVec 32)
  | bu1500Shift (cmd : BitVec 64) (captured : BitVec 64)
  | idcode
  | samplePreload
  | extest
  | extestPulse
  | extestTrain
  | clamp
  | highz
  | bypass (code : Byte)
  | bscanExitReset (o : StartupObs)
  | traceMarker
  -- register space from the host, translation, functions
  | registerWrite (who : RegWriter) (off : Nat) (width : Nat) (value : BitVec 64)
  | atsTranslationCompletion (fn : Nat) (addr : BitVec 64) (granted : Option (BitVec 64)) (write : Bool)
  | functionEnable (fn : Nat)
  | spareLaneLosesLock (n : Fin 24)
  | getCertificate (t : Transport) (slot : BitVec 4) (off len : BitVec 16)
deriving DecidableEq, Repr

end Sys2Proof
end

