-- ==== Sys2Proof/WellFormed.lean ====
section
/-! DEFINITION. Which commands name existing units: operand ranges that the operand types do not already bound. -/

namespace Sys2Proof

/-- A logical tile is 0 to 95 (R15). -/
def Issue.wf (u : Issue) : Bool := decide (u.tile < 96)
def TileAt.wf (t : TileAt) : Bool := decide (t.tile < 96)

/-- A stack is 0 to 7 (R1). -/
def StkAt.wf (k : StkAt) : Bool := decide (k.stack < 8)

/-- A PCIe function is 0 to 4096 (R291, R464). -/
def fnWf (f : Nat) : Bool := decide (f < 4097)

/-- A unit identifier names a unit of the module (R24). -/
def unitWf (u : BitVec 16) : Bool :=
  let i := u.toNat % 4096
  match u.toNat / 4096 with
  | 0 => decide (i < 104) | 1 => decide (i < 512) | 2 => decide (i < 8) | 3 => decide (i < 8) | 4 => decide (i < 8)
  | 5 => decide (i < 24) | 6 => decide (i < 2) | 7 => decide (i < 2) | 8 => decide (i < 4) | _ => false

/-- A die of a stack is the base die or one of sixteen (R220, R607). -/
def dieWf (d : BitVec 5) : Bool := decide (d.toNat < 17)

/-- What the training of the host link can agree: rate, width, and flit mode, always at 64 GT/s and never below 16 GT/s (R464, R487). -/
def linkWf (speed width : Nat) (flit : Bool) : Bool :=
  decide (1 ≤ speed) && decide (speed ≤ 6) && [1, 4, 8, 16].contains width && (flit || decide (speed ≠ 6)) && (!flit || decide (4 ≤ speed))

/-- A command in which every operand names something the module has. -/
def Instr.wellFormed : Instr → Bool
  | .bundleNop u => u.wf
  | .aluOp u _ _ _ _ => u.wf
  | .mul u _ _ _ => u.wf
  | .minMax u _ _ _ _ => u.wf
  | .setCompare u _ _ _ _ => u.wf
  | .li u _ _ => u.wf
  | .seta u _ _ => u.wf
  | .sett u _ _ => u.wf
  | .rda u _ _ => u.wf
  | .rdt u _ _ => u.wf
  | .bind u _ _ => u.wf
  | .rdlc u _ _ => u.wf
  | .rdreg u _ _ => u.wf
  | .jmp u _ => u.wf
  | .condBranch u _ _ _ _ _ => u.wf
  | .loop u _ _ _ _ => u.wf
  | .lexit u => u.wf
  | .qput u _ _ => u.wf
  | .qget u _ _ => u.wf
  | .qcnt u _ _ => u.wf
  | .sig u _ _ _ => u.wf
  | .sigT u _ _ _ => u.wf
  | .wait u _ _ _ => u.wf
  | .obs u _ _ _ => u.wf
  | .await u _ _ => u.wf
  | .acset u _ _ => u.wf
  | .fence u _ => u.wf
  | .bell u _ _ => u.wf
  | .qwait u _ => u.wf
  | .endOp u => u.wf
  | .ldQ u _ _ _ _ _ _ => u.wf
  | .ldS u _ _ _ _ _ _ => u.wf
  | .ldQL u _ => u.wf
  | .stQ u _ _ _ _ _ _ => u.wf
  | .stS u _ _ _ _ _ _ => u.wf
  | .stQL u _ => u.wf
  | .stCp u _ _ _ _ _ _ => u.wf
  | .vaddF32 u _ _ => u.wf
  | .vfma u _ => u.wf
  | .vminVmaxF32 u _ _ => u.wf
  | .vabsVneg u _ _ => u.wf
  | .vmov u _ => u.wf
  | .vcmp u _ => u.wf
  | .vsel u _ => u.wf
  | .vintArith u _ _ => u.wf
  | .vsatArith u _ _ => u.wf
  | .vintMinMax u _ _ => u.wf
  | .vbitwise u _ _ => u.wf
  | .vshift u _ _ => u.wf
  | .vcvtF32S32 u _ => u.wf
  | .vcvtS32F32 u _ => u.wf
  | .viota u _ => u.wf
  | .vcurve u _ _ => u.wf
  | .vcload u _ => u.wf
  | .vredF32 u _ _ => u.wf
  | .vredS32 u _ _ => u.wf
  | .vredcnt u _ => u.wf
  | .vredmaxi u _ => u.wf
  | .vunpk u _ _ => u.wf
  | .vpack u _ _ => u.wf
  | .mld u _ _ => u.wf
  | .mmul u _ _ _ => u.wf
  | .mdrain u _ _ => u.wf
  | .engineOpStart t _ => t.wf
  | .loadItemPush t _ => t.wf
  | .replayResume t => t.wf
  | .windowIdleClose t => t.wf
  | .windowConfirm t => t.wf
  | .effectRelease t => t.wf
  | .replayDeadlock t => t.wf
  | .deferredHalt t => t.wf
  | .remoteWriteArrive t _ => t.wf
  | .sigTArrive t _ => t.wf
  | .releaseNotice t => t.wf
  | .fenceComplete t => t.wf
  | .unitWakeComplete u => unitWf u
  | .unitSleep u => unitWf u
  | .bankEngineSleep k _ => k.wf
  | .copyCmdAccept _ => true
  | .copyCmdStart _ _ => true
  | .copyCmdComplete _ _ => true
  | .atomBatch _ => true
  | .atomicPerform _ _ => true
  | .startCmdAccept k => k.wf
  | .prgStart k => k.wf
  | .prgMemWrite k => k.wf
  | .vstageWrite k => k.wf
  | .rowNop k => k.wf
  | .act k => k.wf
  | .pre k => k.wf
  | .wake k => k.wf
  | .vload k => k.wf
  | .sload k => k.wf
  | .mac k => k.wf
  | .aclr k => k.wf
  | .drain k => k.wf
  | .cmove k => k.wf
  | .rowSig k => k.wf
  | .rowLoop k => k.wf
  | .rowEnd k => k.wf
  | .prgComplete k => k.wf
  | .acfg k => k.wf
  | .awalk k => k.wf
  | .walkerTableFetch k => k.wf
  | .rowReissue k => k.wf
  | .ordinaryAccess k _ _ => k.wf
  | .accessTvRetry k _ _ => k.wf
  | .preempt k => k.wf
  | .preemptResume k => k.wf
  | .refreshDue k _ => k.wf
  | .refreshBoundary k => k.wf
  | .bandSwapRequest k _ => k.wf
  | .throttleLevelApply k => k.wf
  | .engAvailRestore k _ => k.wf
  | .pageFillDone k _ page => k.wf && decide (page < 524288)
  | .validClear k _ _ _ => k.wf
  | .validClearDone k => k.wf
  | .scrubVisit k => k.wf
  | .pageRepair k _ page => k.wf && decide (page < 524288)
  | .parityRetry k _ _ => k.wf
  | .interfaceRecal k _ _ => k.wf
  | .odeccPoll counts => decide (counts.length ≤ 8)
  | .kvcopy k _ _ => k.wf
  | .kvcopyDone k => k.wf
  | .semSignalApply _ => true
  | .semWaitArrive _ => true
  | .semObsArrive _ => true
  | .ntfArm f slot _ => fnWf f && decide (slot < 4096)
  | .newReq f _ samp _ => fnWf f && decide (samp.length = 256 ∨ samp.length = 0)
  | .cancel f _ => fnWf f
  | .pause f _ _ => fnWf f
  | .resume f _ samp _ => fnWf f && decide (samp.length = 256 ∨ samp.length = 0)
  | .adapterLoad f _ => fnWf f
  | .adapterRetire f _ => fnWf f
  | .hostChoice f _ _ _ => fnWf f
  | .stepBoundary run _ => decide (1 ≤ run.last) && decide (run.last ≤ 8)
  | .adapterReady slot _ _ => decide (slot < 1024)
  | .parkCopyDone seq => decide (seq < 8192)
  | .swapOutDone seq => decide (seq < 8192)
  | .swapInDone copy => decide (copy.seq < 8192)
  | .ttlExpire _ => true
  | .reqIfneg f _ => fnWf f
  | .ringEnable f _ => fnWf f
  | .functionDisable f => fnWf f
  | .verify _ _ => true
  | .propose _ _ => true
  | .exportLogits _ _ => true
  | .tmbCmdComplete _ _ => true
  | .jobGo _ _ _ => true
  | .jobEnd => true
  | .jobAbort => true
  | .jobRelease => true
  | .jobFinish => true
  | .jobTeardown => true
  | .checkpointSave => true
  | .checkpointRestore => true
  | .jobPreempt => true
  | .jobResume => true
  | .quiescePoint => true
  | .ifnegWrite n _ => decide (n.toNat < 5)
  | .quotaWrite f _ _ => fnWf f
  | .linkEnable _ => true
  | .linkDetectDone _ _ => true
  | .linkLockDone _ lanes => decide (lanes.length = 5)
  | .negFlitRx _ _ _ => true
  | .linkTrainTimeout _ => true
  | .linkRetrain _ => true
  | .spareNow _ lane => decide (lane.toNat < 5)
  | .laneRetire _ lane => decide (lane.val < 5)
  | .flitRx _ _ => true
  | .nullFlitTx _ => true
  | .linkLeaveActive _ _ => true
  | .heldPacketTimeout _ => true
  | .resentWindowExpire _ => true
  | .writePktRx _ p => decide (p.data.length ≤ 256)
  | .signalPktRx _ p => decide (p.data.length ≤ 256)
  | .ackPktRx _ p => decide (p.data.length ≤ 256)
  | .refusePktRx _ p => decide (p.data.length ≤ 256)
  | .collPktRx _ p => decide (p.data.length ≤ 264)
  | .allreduce _ => true
  | .reducescatter _ => true
  | .allgather _ => true
  | .broadcast _ => true
  | .bndCmdComplete _ => true
  | .hstDbRing f _ => fnWf f
  | .hstDbSem f _ _ => fnWf f
  | .hstDbInt f _ => fnWf f
  | .apertureRead f _ _ => fnWf f
  | .apertureWrite f _ _ _ => fnWf f
  | .atsInvalidate f _ _ => fnWf f
  | .hostReadCompletion _ _ _ _ => true
  | .hostReadTimeout _ => true
  | .hdmaCmdAccept _ => true
  | .hdmaCmdComplete _ _ _ => true
  | .vfFlr f => fnWf f && decide (f ≠ 0)
  | .pfFlr => true
  | .heartbeat _ _ => true
  | .heartbeatTimeout _ _ => true
  | .failoverClaim _ _ => true
  | .stewardSelftestDone _ _ => true
  | .lodgeWatchdog _ => true
  | .intFire _ _ => true
  | .intOffer _ _ => true
  | .intClaim _ => true
  | .intEoi _ _ => true
  | .statusEvent u _ _ => unitWf u
  | .evqPop _ => true
  | .housekeepingRound _ _ => true
  | .fenceReadback u _ => unitWf u
  | .thermalCalibrate _ => true
  | .setEndpointId _ _ => true
  | .profileOffer _ _ _ => true
  | .liveData _ _ _ _ => true
  | .liveStatus _ _ => true
  | .liveCurve _ _ _ => true
  | .liveTiming _ _ _ => true
  | .liveThermcoef _ _ _ => true
  | .liveRetire _ _ => true
  | .livePerturb _ _ _ => true
  | .pldmUnsupportedCmd _ _ _ => true
  | .getSensorReading _ _ => true
  | .setPowerCapEffecter _ => true
  | .pldmFwUpdate _ _ => true
  | .activateFirmware _ => true
  | .fwCommit _ => true
  | .challenge _ => true
  | .getMeasurements _ _ _ => true
  | .respondIfReady _ => true
  | .setCertificate _ => true
  | .spdmSignatureDone _ => true
  | .guardSample _ => true
  | .levelChangeDone => true
  | .railFault _ => true
  | .orderlyShutdown _ => true
  | .shutdownRailsOff => true
  | .hardwareTrip => true
  | .flowLost => true
  | .flowRestored => true
  | .flowLostLimit => true
  | .feedLoss _ _ => true
  | .powerOn _ => true
  | .mrst _ _ => true
  | .perstAssert _ => true
  | .perstDeassert => true
  | .holdRelease _ => true
  | .dlActive speed width flit _ => linkWf speed.toNat width.toNat flit
  | .spareQuery _ die _ => dieWf die
  | .softRepair _ die _ => dieWf die
  | .odeccRead _ die _ => dieWf die
  | .bu1500Shift _ _ => true
  | .idcode => true
  | .samplePreload => true
  | .extest => true
  | .extestPulse => true
  | .extestTrain => true
  | .clamp => true
  | .highz => true
  | .bypass _ => true
  | .bscanExitReset _ => true
  | .traceMarker => true
  | .registerWrite who _ width _ => (match who with | .host f _ => fnWf f | .hostRead f _ => fnWf f | _ => true) && [1, 2, 4, 8].contains width
  | .atsTranslationCompletion f _ _ _ => fnWf f
  | .functionEnable f => fnWf f && decide (f ≠ 0)
  | .spareLaneLosesLock _ => true
  | .getCertificate _ _ _ _ => true

end Sys2Proof
end

