-- ==== Sys2Proof/Config.lean ====
section
/-! DEFINITION. What an implementation fixes and what the manual leaves open: free values, as constants without a body. -/

namespace Sys2Proof

/-- A fresh free byte for each count (log entry 2). -/
opaque Config.freeByte : Nat → Byte

/-- A fresh free 64-bit value for each count (log entry 2). -/
opaque Config.free64 : Nat → BitVec 64

/-- Which of the binary32 values within R273's relative error of 2^-20 the exp2 of a bank engine gives for an operand (log entry 3). -/
opaque Config.exp2Pick : Lane → Nat

/-- Byte `i` of codeword `w` of a page that was never written, which an uncorrectable valid-map word exposes (R249; log entry 78). -/
opaque Config.unwritten : Nat → Nat → Byte

/-- Which of several colliding writes to one stack element survives (R156): of `n` candidates the one with this number,
taken modulo `n` (log entry 4). -/
opaque Config.survivor : Nat → Nat

/-- SHA3-384 of the Lodge hash engine (R571; log entry 5). -/
opaque Config.sha3 : List Byte → List Byte

/-- The SLH-DSA-SHAKE-256s signature of the identity key, whose private half the manual does not give (R567; log entry 5). -/
opaque Config.signature : List Byte → List Byte

/-- The bytes of the SPDM certificate chain of slot 0, which the manual names but does not list (R568; log entry 5). -/
opaque Config.certChain : List Byte

/-- The block size B of the block-scaled weights of a MAC, as 16, 32 or 64, by format code: no field of the row names it
(R186, R187, R193; log entry 6). -/
opaque Config.macBlock : Nat → Fin 3

/-- Bytes of the boot ROM (R571; log entry 5). -/
opaque Config.bootRom : List Byte

/-- Header and payload of a firmware image, by what its header lists and its component and slot; `none` is the image that the module leaves
the factory with (R561, R571; log entry 5). -/
opaque Config.fwBytes : Option FwImage → Nat → List Byte

/-- The DUTYVER of the factory's steward firmware, and the versions that the loader supports (R515, R563; log entry 5). -/
opaque Config.factoryDutyVer : BitVec 16
opaque Config.dutyVerOk : BitVec 16 → Bool

/-- VERSION's low bits and SVN of a component's factory image (R573; log entry 5). -/
opaque Config.factoryVersion : Nat → BitVec 16
opaque Config.factorySvn : Nat → BitVec 6

/-- The thermal coefficient set of the configuration data (R537, R561; log entry 46). -/
opaque Config.coefficients : List Byte

end Sys2Proof
end

