-- ==== Sys2Proof/Machine/State.lean ====
section
/-! DEFINITION. The state of the Rholyn module as plain data, the ways a step can stop, and the state after reset.
Maps are lists of (key, value) pairs with rising keys in which an unlisted key holds the default that its accessor names. -/

namespace Sys2Proof.Machine

/-- A sparse map: keys strictly rising, no entry equal to the map's default. -/
abbrev SMap (α : Type) := List (Nat × α)

/-- A memory: (address, byte) cells in canonical form; an unlisted address reads as zero (R33, R246). -/
abbrev Memory := List Host.Cell

/-- Reasons a step stops with a fault. No command of this module stops: the one constructor is raised by nobody (safe). -/
inductive Fault where
  /-- Raised by no command; the module's errors are recorded in its state (safe). -/
  | unreachable
deriving DecidableEq, Repr

/-- Reasons a step refuses a command. -/
inductive Refusal where
  /-- Raised only by an arm of `exec` whose meaning is not written yet (safe). -/
  | notModelled (mnemonic : String)
deriving DecidableEq, Repr

/-! ### Tiles -/

/-- An item of a load or store queue (R73, R77, R598): 256 bytes, the poison flag, the cycle from which it can be
popped, and the number of flipped bits its word 0 carries against its check bits. -/
structure QItem where
  payload : BitVec 2048
  poison : Bool
  readyAt : Nat
  flips : Nat
deriving DecidableEq, Repr

/-- An active hardware loop (R65 to R72): its counter, first body address, latched end address, trips left with the
current one, and the mark of lexit. -/
structure LoopRec where
  k : Nat
  first : Nat
  endAddr : Nat
  remaining : Nat
  exit : Bool
deriving DecidableEq, Repr

/-- What a stream waits for (R42, R43); `off` before a job has started it (R78). -/
inductive Stall where
  | off
  | run
  | semWait
  | await (ac : Nat) (n : Nat)
  | qwait (q : Nat) (k : Nat)
  | ended
deriving DecidableEq, Repr

/-- The value of a register write that is still pending (R48). -/
inductive PendVal where
  | sreg (v : Reg64)
  | areg (v : AReg)
  | lanes (vals : List (Nat × Lane))
  | bytes (addr : Nat) (bs : List Byte) (mask : Byte)
  | table (addr : Nat) (bs : List Byte) (mask : Byte)
  | mark
deriving DecidableEq, Repr

/-- A write that becomes readable at cycle `due` (R48, R86): the register key, the window and the bundle that made it,
its value. `epoch` is the newest window when the write was made: a rollback to a later window leaves the write alone. -/
structure PendWrite where
  key : Nat
  due : Nat
  win : Nat
  epoch : Nat
  seq : Nat
  poison : Bool
  val : PendVal
deriving DecidableEq, Repr

/-- A vector operation (R133). -/
inductive VOp where
  | fadd | fsub | fmul | ffma | fmin | fmax | fabs | fneg | mov | cmp | sel
  | iadd | isub | imul | saddS | ssubS | saddU | imin | imax | uminI | umaxI
  | andB | orB | xorB | shl | shr | sar | cvtF | cvtI | iota
  | curve (slot : Nat)
  | cload
  | redF (op : RedFOp)
  | redS (op : RedSOp)
  | redCnt
  | redMaxI
  | unpk (f : Nat)
  | pack (f : Nat)
deriving DecidableEq, Repr

/-- A matrix operation (R125). -/
inductive MOp where
  | mld (b : Bool)
  | mmul (b : Bool) (f : Nat)
  | mdrain (wide : Bool)
deriving DecidableEq, Repr

/-- A vector operation that waits for its engine, with the lanes of its register and scalar operands as it read them at
issue, each with its poison flag, and the descriptor it names (R48, R87, R132). -/
structure VWait where
  op : VOp
  slot : VSlot
  srcs : List (List (Lane × Bool))
  desc : List Byte
  win : Nat
  seq : Nat
  pc : Nat
deriving DecidableEq, Repr

/-- A matrix operation that waits for its pipeline, with the descriptor it names (R87, R128). -/
structure MWait where
  op : MOp
  slot : MSlot
  desc : List Byte
  win : Nat
  seq : Nat
  pc : Nat
deriving DecidableEq, Repr

/-- The destination of a store through a descriptor: the descriptor as it stood at issue, its handle, the element index,
and the arrival counter it names. -/
structure CopyDest where
  desc : List Byte
  h : Nat
  index : Int
  acid : Nat
deriving DecidableEq, Repr

/-- Where the items popped by a store slot go. -/
inductive StoreDest where
  | desc (d : CopyDest)
  | long (f : LongForm) (base : Int)
deriving DecidableEq, Repr

/-- What an operation that runs over several cycles is doing (R75, R612): the items or lanes taken so far. -/
inductive ActKind where
  | popStore (q left : Nat) (got : List QItem) (dest : StoreDest)
  | copy (src : List Byte) (hs : Nat) (index : Int) (dest : CopyDest) (count k : Nat) (got : List QItem) (load : Option Nat)
  | popReg (q sreg : Nat)
  | pushItem (q : Nat) (item : QItem)
  | vector (op : VOp) (slot : VSlot) (desc : List Byte) (srcs : List (List (Lane × Bool))) (outs : List (Lane × Bool))
  | matmul (b : Bool) (f : Nat) (slot : MSlot) (desc : List Byte) (rows row buf bits : Nat) (poison : Bool)
  | drain (wide : Bool) (slot : MSlot) (desc : List Byte) (rows step : Nat) (outs : List (Lane × Bool))
deriving DecidableEq, Repr

/-- A running operation: the cycle it starts, its window, and the bundle and stream it is charged to. -/
structure Act where
  start : Nat
  win : Nat
  seq : Nat
  pc : Nat
  stream : Stream
  kind : ActKind
deriving DecidableEq, Repr

/-- The part of a tile that a checkpoint holds (R91). -/
structure TileCore where
  sA : SMap Reg64
  sE : SMap Reg64
  aReg : SMap AReg
  tReg : SMap AReg
  binds : SMap Nat
  pcA : Nat
  pcE : Nat
  lastA : Nat
  lastE : Nat
  stallA : Stall
  stallE : Stall
  loopsA : List LoopRec
  loopsE : List LoopRec
  writes : List PendWrite
  poisoned : List Nat
  ready : SMap Nat
  vreg : SMap Lane
  queues : SMap (List QItem)
  desc : Memory
  vwait : List VWait
  mwait : List MWait
  acts : List Act
  vbusy : Nat
  mlbusy : Nat
  mmbusy : Nat
  nextA : Nat
  nextE : Nat
  oobRead : BitVec 32
  oobWrite : BitVec 32
  oobLast : Reg64
deriving DecidableEq, Repr

/-- A stationary buffer as its mld loaded it (R125, R126): handle, format code, K, N, block size, element codes with k
fastest, scale codes, table entries, poison. -/
structure StatBuf where
  loaded : Bool
  handle : Nat
  fmt : Nat
  k : Nat
  n : Nat
  block : Nat
  codes : List Nat
  scales : List Nat
  table : List Nat
  poison : Bool
deriving DecidableEq, Repr

/-- The places whose old contents the undo log keeps (R91). -/
inductive UndoRec where
  | spad (addr : Nat) (old : Byte)
  | spadPoison (granule : Nat) (was : Bool)
  | acc (lane : Nat) (old : Lane)
  | accPoison (lane : Nat) (was : Bool)
  | buf (b : Bool) (old : StatBuf)
  | curve (slot : Nat) (old : Memory)
  | cache (old : SMap (BitVec 512)) (order : List Nat)
deriving DecidableEq, Repr

/-- A record of the undo log: the bytes that it counts, the window whose write it undoes, the place with its old contents
(R91). -/
structure UndoEnt where
  bytes : Nat
  owner : Nat
  what : UndoRec
deriving DecidableEq, Repr

/-- The bundle that an operation comes from: its stream and its address (R109). -/
structure Origin where
  stream : Stream
  pc : Nat
deriving DecidableEq, Repr

/-- An effect that the turnstile holds (R93). -/
inductive Effect where
  | write (addr : Nat) (bs : List Byte) (mask : Byte) (poison : Bool) (acid : Nat)
  | sig (ra : Reg64) (n : Int)
  | sigT (ra : Reg64) (n : Int) (thr : BitVec 32)
  | wait (stream : Stream) (ra : Reg64) (n : Int)
  | obs (stream : Stream) (ra : Reg64) (n : Int)
  | acset (ac : Nat) (v : BitVec 32)
  | bell (source : BitVec 11)
deriving DecidableEq, Repr

/-- A held effect with the bundle it comes from. -/
structure Held where
  origin : Origin
  eff : Effect
deriving DecidableEq, Repr

/-- A window of bundles (R89 to R91, R599, R613). `undo` lists, newest first, the writes made while it was the newest window,
by its own bundles and by those of older windows that were still running. -/
structure Window where
  id : Nat
  bundles : Nat
  closing : Bool
  closed : Bool
  opened : Nat
  lastIssue : Nat
  ckpt : TileCore
  undo : List UndoEnt
  items : List (Nat × Nat × QItem)
  held : List (Nat × Held)
  solo : Bool
  halting : Bool
  lastPc : Nat
  lastStream : Stream
deriving DecidableEq, Repr

/-- A load whose items are not all pushed (R90, R92, R615): its window and bundle, the cycle from which its next item
can be pushed, the figure of its path class and the cycles between items, how many items are pushed of how many, the items of
memory sampled at issue, and for stack and host memory the descriptor and index, the bytes that have returned and the granules
still missing. -/
structure LoadIP where
  id : Nat
  win : Nat
  seq : Nat
  q : Nat
  pc : Nat
  nextAt : Nat
  cls : Nat
  rate : Nat
  pushed : Nat
  count : Nat
  items : List QItem
  desc : List Byte
  index : Int
  data : Memory
  poison : List Nat
  missing : List Nat
deriving DecidableEq, Repr

/-- A scalar load that waits for memory or a register outside the tile (R86, R90): the bytes that have returned, the granules
that are poisoned and those still missing. -/
structure ScalarLoad where
  id : Nat
  win : Nat
  seq : Nat
  pc : Nat
  sreg : Nat
  due : Nat
  fill : Bool
  addr : Nat
  width : Nat
  data : Memory
  poison : List Nat
  missing : List Nat
deriving DecidableEq, Repr

/-- A read of register space on its way to the unit that holds the block (R7, R610): the cycle at which it reaches it. -/
structure RegRead where
  at_ : Nat
  id : Nat
  addr : Nat
  width : Nat
deriving DecidableEq, Repr

/-- TIL_HALT (R109). -/
structure HaltRec where
  reason : BitVec 8
  streamE : Bool
  pc : BitVec 23
  detail : BitVec 32
deriving DecidableEq, Repr

/-- A slip detected in the current cycle (R88): its kind, and the bundle and window it is charged to. -/
structure SlipRec where
  kind : Nat
  stream : Stream
  pc : Nat
  win : Nat
deriving DecidableEq, Repr

/-- A bundle whose slots are being taken (R48, R52, R106): the state it issued in, and the destinations and queues named. -/
structure BundleIP where
  stream : Stream
  hdr : BitVec 64
  pc : Nat
  win : Nat
  seq : Nat
  start : TileCore
  undoMark : Nat
  halt : Option HaltRec
  done : Nat
  dests : List Nat
  pops : List Nat
  pushes : List Nat
  loads : List Nat
  branch : Option Nat
  skip : Option Nat
  closes : Bool
  solo : Bool
  bytes : Nat
deriving DecidableEq, Repr

/-- TIL_SLIP_CNT_n (R103). -/
structure SlipCnt where
  count : BitVec 32
  lastKind : BitVec 2
  lastStream : Bool
  lastPc : BitVec 23
deriving DecidableEq, Repr

/-- An arrival counter (R308). -/
structure ArrCnt where
  count : BitVec 32
  wrap : Bool
deriving DecidableEq, Repr

/-- Where a signal came from, for its refusal (R317). -/
inductive SigSrc where
  | tile (t : Nat) (o : Origin)
  | copy (t : Nat) (o : Origin)
  | programme (stack row : Nat) (tag : BitVec 32)
  | tombola (d : Nat) (tag : BitVec 32)
  | bandstand (d : Nat) (tag : BitVec 32)
  | doorbell (fn : Nat)
  | peer (node : Nat) (tag : BitVec 20)
  | lodge
deriving DecidableEq, Repr

/-- A threshold signal at its destination tile (R306): counter, threshold, and the signal to pass on. -/
structure ThrSig where
  ac : Nat
  thr : BitVec 32
  sem : Nat
  amount : Int
  scope : Nat
  party : Nat
  src : SigSrc
  effId : Nat
deriving DecidableEq, Repr

/-- An outstanding fence (R297): its scope and the released effects it waits for. -/
structure FenceRec where
  stream : Stream
  scope : Nat
  win : Nat
  issued : Nat
deriving DecidableEq, Repr

/-- A released effect that has not been performed: its number, the scope class of its point of coherence
(1 this module, 2 host or another module), the tile and counter of a counted remote write, the cycle at which its
acknowledgement returns at the nominal figure, and whether it has been performed (R297, R298, R300). -/
structure Flying where
  id : Nat
  cls : Nat
  tile : Nat
  ac : Nat
  ack : Nat
  performed : Bool
  origin : Origin
deriving DecidableEq, Repr

/-- A granule write on its way to a tile's scratchpad (R96, R304): the mask of the bits it writes in each byte, the
counter it adds to, and the tile and effect it comes from. -/
structure InMsg where
  addr : Nat
  bs : List Byte
  mask : Byte
  poison : Bool
  acid : Option Nat
  tile : Nat
  effId : Nat
deriving DecidableEq, Repr

/-- The power state of a unit that wakes on demand (R32). -/
inductive Sleep where
  | asleep
  | waking
  | awake
deriving DecidableEq, Repr

/-- What runs a tile's issue: normal, rolling back, or conservative replay (R97, R98). -/
inductive TileMode where
  | normal
  | rollback (until_ : Nat)
  | conservative
deriving DecidableEq, Repr

/-- A logical tile; `slipSeen` lists the slips of the cycle that has just ended, for their trace records; `ueSeen`
the uncorrectable words that it popped; `pathReq` the queues
into which the load return path is to push in the current cycle; `ghosts` the queue accesses that the halting bundle would
make (R106); `tsSnap` TIL_TS_STAT as it stood at the start of the cycle (R105). -/
structure Tile where
  active : Bool
  sleep : Sleep
  cycle : Nat
  core : TileCore
  cur : Option BundleIP
  mode : TileMode
  consWin : Nat
  windows : List Window
  nextWin : Nat
  slipNow : List SlipRec
  slipSeen : List SlipRec
  ueSeen : Nat
  classFree : SMap Nat
  pathFree : SMap Nat
  pathReq : List Nat
  loads : List LoadIP
  sloads : List ScalarLoad
  regReads : List RegRead
  nextLoad : Nat
  releaseQ : List Held
  flying : List Flying
  nextEff : Nat
  fences : List FenceRec
  notices : List (Stream × Nat × Nat × Int)
  refusals : List HaltRec
  blockA : Option Nat
  blockE : Option Nat
  haltPend : Option HaltRec
  haltSeq : Nat
  ghosts : List Act
  halt : HaltRec
  tsSnap : BitVec 64
  spad : Memory
  spadPoison : List Nat
  acc : SMap Lane
  accPoison : List Nat
  buf0 : StatBuf
  buf1 : StatBuf
  curve : SMap Memory
  cache : SMap (BitVec 512)
  cacheOrder : List Nat
  ac : SMap ArrCnt
  thr : List ThrSig
  thrPort : List ThrSig
  inbox : List InMsg
  krange : SMap Reg64
  slips : SMap SlipCnt
  slipKind : BitVec 64
  replayCyc : Reg64
  lqCe : BitVec 64
  sqCe : BitVec 64
  qUe : BitVec 64
  pert : BitVec 64
  pertSlips : BitVec 32
  pertFlips : BitVec 32
  pertWins : Nat
deriving DecidableEq, Repr

/-! ### Regions -/

/-- A command waiting at, or held by, a region engine: the tile that issued it, the handle and effect it came by, the
256-byte item, and whether it was found to be staged. -/
structure RegCmd where
  tile : Nat
  handle : Nat
  item : BitVec 2048
  staged : Bool
  effId : Nat
  origin : Origin
deriving DecidableEq, Repr

/-- An atomic record on its way to its point of coherence (R321 to R325). -/
structure AtomRec where
  tile : Nat
  addr : Nat
  op : Nat
  width : Nat
  ret : Bool
  operand : Reg64
  raddr : Nat
  racid : Nat
  effId : Nat
deriving DecidableEq, Repr

/-- A region: memory, ports, copy engine, host-DMA engine, atomics and perturbation (R169 to R180, R321, R332, R492, R600). -/
structure Region where
  mem : Memory
  poison : List Nat
  cpyPort : List RegCmd
  cpyQ : List RegCmd
  cpyRun : Option (RegCmd × Nat)
  cpyStop : Option RegCmd
  cpySleep : Sleep
  cpyTag : BitVec 32
  cpyDone : Reg64
  cpyStaged : BitVec 32
  cpyRefused : BitVec 32
  cpyBytes : Reg64
  atomPort : List RegCmd
  atoms : List AtomRec
  atomDone : BitVec 32
  atomRefused : BitVec 32
  hdmaPort : List RegCmd
  hdmaQ : List RegCmd
  hdmaRun : Bool
  hdmaAsked : Bool
  hdmaDenied : Option Nat
  hdmaCut : Option RegCmd
  hdmaSleep : Sleep
  hdmaTag : BitVec 32
  hdmaDone : BitVec 32
  hdmaStopped : BitVec 32
  pert : Reg64
deriving DecidableEq, Repr

/-! ### Stacks -/

/-- A programme loop (R196). -/
structure PrgLoop where
  l : Nat
  first : Nat
  endRow : Nat
  remaining : Nat
  trip : Nat
deriving DecidableEq, Repr

/-- A start command (R191), with the tile and the effect it came by. -/
structure StartCmd where
  tile : Nat
  entry : Nat
  mask : BitVec 64
  p0 : BitVec 64
  p1 : BitVec 64
  p2 : BitVec 64
  p3 : BitVec 64
  tag : BitVec 32
  effId : Nat
deriving DecidableEq, Repr

/-- An attention walk under way in one pseudo-channel, or a page copy on one of its two (R275, R276, R282, R284): the first codeword of its records and their number, the
cycle of its first column, the cycle after its last streamed column, and its parts in order, each with the cycle at which it ends (a row
boundary) and the DRAM pages it uses. -/
structure WalkRun where
  pc : Nat
  cw : Nat
  ncw : Nat
  start : Nat
  cols : Nat
  parts : List (Nat × List Nat)
deriving DecidableEq, Repr

/-- The share of one engine in a DRAIN (R194, R208): where it goes, its bytes, and the cycle at which it is delivered. -/
structure DrainRun where
  pc : Nat
  addr : Nat
  len : Nat
  until_ : Nat
deriving DecidableEq, Repr

/-- The running programme (R189 to R198), with the walks and the DRAIN shares that it has under way. -/
structure Programme where
  cmd : StartCmd
  row : Nat
  loops : List PrgLoop
  lastIssue : Nat
  doneAt : Nat
  ended : Bool
  failedEng : BitVec 64
  fetched : Nat
  configured : BitVec 64
  walks : List WalkRun
  drains : List DrainRun
deriving DecidableEq, Repr

/-- A bank of a pseudo-channel (R192, R227, R228): the open page, when it was opened and used, when it was closed, and until when its
last refresh keeps it busy. -/
structure Bank where
  page : Option Nat
  actAt : Nat
  rdAt : Nat
  wrAt : Nat
  preAt : Nat
  refUntil : Nat
  used : Bool
deriving DecidableEq, Repr

/-- The kinds of ordinary access to a stack (R203). -/
inductive AccKind where
  | write (bs : List Byte) (mask : Byte) (poison : Bool)
  | read (len : Nat)
  | atomic (rec : AtomRec)
deriving DecidableEq, Repr

/-- Who made an ordinary access, for its completion. -/
inductive AccSrc where
  | effect (tile : Nat) (effId : Nat)
  | load (tile : Nat) (id : Nat) (item : Nat) (pos : Nat)
  | scalar (tile id addr : Nat)
  | host (fn : Nat)
  | engine (unit : Nat)
  | peer (node tag : Nat)
deriving DecidableEq, Repr

/-- An ordinary access on its way to, or held at, a controller; `reached` is the stack cycle it reached it, `cause` what it
waits for (0 its turn, 1 a retry after a timing violation, 2 after a parity error, 3 a recalibration), `tries` the attempts
that failed, `retryAt` the cycle from which it may be reissued (R203 to R205, R236). -/
structure StkAcc where
  addr : Nat
  kind : AccKind
  src : AccSrc
  reached : Option Nat
  tries : Nat
  cause : Nat
  retryAt : Nat
deriving DecidableEq, Repr

/-- A range of an engine part that is occupied until a stack cycle (R199): part 0 and 1 the vector banks (bytes), 2 the
scale buffer (bytes), 3 accumulator rows being accumulated, 4 accumulator rows being cleared or drained. -/
structure Occ where
  part : Nat
  lo : Nat
  hi : Nat
  until_ : Nat
  write : Bool
deriving DecidableEq, Repr

/-- A bank engine (R182, R271): `busyUntil` and `accFinal` are the pipeline's own times (R206), `occ` the controller's record. -/
structure Engine where
  sleep : Sleep
  lastUse : Nat
  vb0 : Memory
  vb1 : Memory
  scale : Memory
  acc : SMap Lane
  accPoison : List Nat
  posO : Nat
  posK : Nat
  busyUntil : Nat
  accFinal : Nat
  lastOp : Nat
  occ : List Occ
  cfgA : BitVec 32
  cfgB : BitVec 64
deriving DecidableEq, Repr

/-- A stack controller with its stack (R189, R203, R212 to R218, R226 to R260, R287 to R290, R601). -/
structure Stack where
  cycle : Nat
  prgMem : Memory
  vstage : Memory
  startPort : List StartCmd
  startQ : List StartCmd
  aperPort : List (Nat × Bool × Nat × BitVec 2048 × Nat)
  prg : Option Programme
  lastTag : BitVec 32
  preempt : Bool
  preemptAt : Nat
  preemptPages : List (Nat × Nat)
  errCode : BitVec 8
  errRow : BitVec 13
  errTag : BitVec 32
  engAvail : BitVec 64
  holdMax : BitVec 12
  holdLock : Bool
  heldCnt : BitVec 32
  preemptCnt : BitVec 32
  tvAccess : BitVec 32
  tvRow : BitVec 32
  tvLast : Reg64
  prgDone : Reg64
  throttle : BitVec 2
  throttleReq : BitVec 2
  banks : SMap Bank
  dpFree : SMap Nat
  ordFree : SMap Nat
  lastRd : SMap Nat
  lastWr : SMap Nat
  treeFree : Nat
  ringFree : Nat
  refusedRow : Option (Nat × BitVec 64)
  band : BitVec 2
  bandReq : BitVec 2
  swap : BitVec 4
  tables : SMap Nat
  shadows : SMap Nat
  refBank : SMap Nat
  refOwed : SMap Nat
  refAt : SMap Nat
  roundAt : Nat
  oldTab : List Nat
  swapAt : Nat
  inflight : List StkAcc
  held : List StkAcc
  valid : List Nat
  filling : List (Nat × Nat)
  mapBad : List Nat
  mapWrote : List Nat
  clrLate : List Nat
  clrPage : BitVec 19
  clrNpage : BitVec 20
  clrGo : Bool
  clrPos : Nat
  clrMask : BitVec 64
  scrubInt : BitVec 24
  scrubPage : Nat
  scrubPc : Nat
  scrubPasses : BitVec 32
  scrubQ : List Nat
  scrubAt : Nat
  scrubLate : List Nat
  corrSeen : SMap Nat
  eccCorr : BitVec 32
  eccUncorr : BitVec 16
  eccPoison : BitVec 16
  parRetry : BitVec 32
  parExhaust : BitVec 32
  odecc : Reg64
  errLast : Reg64
  remap : SMap Nat
  spareUsed : SMap Nat
  spareNext : SMap Nat
  repairSoft : BitVec 32
  repairWant : List Nat
  mem : Memory
  poisonCw : List Nat
  cwErr : SMap (BitVec 288)
  attCfg : Reg64
  attTbase : Reg64
  attSnap : Reg64
  kvSrc : BitVec 25
  kvDst : BitVec 25
  kvErr : Bool
  kvGo : Bool
  kvUntil : Nat
  kvFirst : Nat × Nat
  kvRuns : List WalkRun
  attPages : BitVec 32
  attMiss : BitVec 16
  attSkip : BitVec 16
  pert : Reg64
  margin : BitVec 8
  injOpen : Bool
deriving DecidableEq, Repr

/-! ### Semaphores -/

/-- An operation on its way to the semaphore unit (R310). -/
inductive SemMsg where
  | signal (src : SigSrc) (party scope sem : Nat) (amount : Int) (effId : Nat)
  | wait (tile : Nat) (stream : Stream) (scope sem : Nat) (n : Int)
  | obs (tile : Nat) (stream : Stream) (scope sem : Nat) (n : Int)
deriving DecidableEq, Repr

/-- A waiter or an observer of a semaphore (R313, R314). -/
structure Waiter where
  tile : Nat
  stream : Stream
  scope : Nat
  n : Nat
deriving DecidableEq, Repr

/-- A semaphore (R310 to R316, R328). -/
structure Sem where
  value : Nat
  lastScope : Nat
  lastSrc : Nat
  queue : List Waiter
  observers : List Waiter
deriving DecidableEq, Repr

/-- A notification slot (R327, R330). -/
structure NtfSlot where
  sem : Nat
  kind : Bool
  armed : Bool
  func : Nat
  thresh : Nat
  fired : BitVec 8
  b : Reg64
deriving DecidableEq, Repr

/-- The semaphore unit (R310 to R332). -/
structure SemUnit where
  sems : SMap Sem
  quota : SMap (Nat × Nat)
  ntf : SMap NtfSlot
  net : List SemMsg
  mismatchCnt : BitVec 32
  mismatchLast : Reg64
  signals : BitVec 32
  releases : BitVec 32
deriving DecidableEq, Repr

/-! ### PCIe functions -/

/-- A PCIe function's registers and host-visible state (R334, R364 to R367, R412, R464, R474, R480, R487 to R491). -/
structure Fn where
  enabled : Bool
  busMaster : Bool
  ats : Bool
  rqBase : Reg64
  rqLog2n : BitVec 5
  rqEn : Bool
  rqHead : BitVec 16
  rqTail : BitVec 16
  ifActive : BitVec 8
  rejRing : BitVec 32
  rejUnknown : BitVec 32
  disabledPending : Bool
  sapValid : Bool
  sapRonly : Bool
  sapLog2 : BitVec 6
  sapBase : BitVec 32
  ntfFirst : Nat
  ntfCount : Nat
  errStat : BitVec 6
  errVec : BitVec 11
  errMask : BitVec 6
  errLast : Reg64
  errCnt : BitVec 32
  quotaA : Reg64
  quotaB : Reg64
  quotaPendA : Option Reg64
  quotaPendB : Option Reg64
  msixTable : SMap (BitVec 128)
  msixPend : List Nat
deriving DecidableEq, Repr

/-- What the module sends out (R480, R473, R507): host writes, MSI-X messages, MCTP responses, DOE responses, flits on links. -/
inductive Output where
  | hostWrite (fn : Nat) (addr : Nat) (bs : List Byte) (ep : Bool)
  | msix (fn vector : Nat)
  | mgmt (m : Nat) (bs : List Byte)
  | pldm (t : Transport) (bs : List Byte)
  | spdm (t : Transport) (bs : List Byte)
  | aperture (fn : Nat) (bs : List Byte) (ep : List Bool)
  | atsDone (fn : Nat) (addr : BitVec 64)
  | flit (link : Nat) (bits : BitVec 2048)
  | claim (k : Nat) (value : Reg64)
  | evq (value : Reg64)
  | wrapper (value : Reg64)
  | tdo (value : BitVec 32)
  | aer (unit : BitVec 16)
  | regData (who : RegWriter) (off : Nat) (value : Reg64)
deriving DecidableEq, Repr

/-- A read of host memory that has not completed (R475): the tile and load item it feeds. -/
structure HostReq where
  id : Nat
  fn : Nat
  addr : Nat
  len : Nat
  src : AccSrc
  translated : Bool
deriving DecidableEq, Repr

/-- A host-side access that waits for a translation, or behind one (R474); a write without bytes is the MSI-X message of vector
`addr`; `req` names a tile's access, or with source `engine` the host-DMA engine of region `id`. -/
structure AtsWait where
  fn : Nat
  addr : Nat
  write : Bool
  bs : List Byte
  ep : Bool
  req : Option HostReq
deriving DecidableEq, Repr

/-! ### Serving -/

/-- The states of a sequence-table entry (R350). -/
inductive SeqState where
  | prefill
  | decode
  | sitout
  | swapped
  | parking
deriving DecidableEq, Repr

/-- A live request, queued or holding a sequence-table entry (R335, R346 to R355). -/
structure Request where
  fn : Nat
  r : ReqRec
  resumeOf : Option Nat
  recordedAt : Nat
  samp : List Byte
  toks : List (BitVec 32)
  emitted : Nat
  deadline : Option Nat
  lateNext : Bool
  cancelled : Option Nat
  disabled : Bool
  pauseAt : Option (Nat × Nat)
  endStatus : Option Nat
  prod : BitVec 32
  cons : BitVec 32
  heldOut : List (BitVec 128)
  pendOut : List (BitVec 32 × Nat × Bool)
deriving DecidableEq, Repr

/-- A sequence-table entry (R342, R350, R351, R355): `pages` lists layer, logical page and page identifier, `saved` layer, logical page and
host address of the pages copied to host memory (R283), `noPage` that its stack had no free page at this boundary (R282), `block` the address
of its last exported logits (R387). -/
structure SeqEntry where
  req : Request
  state : SeqState
  len : Nat
  prefillPos : Nat
  promptLen : Nat
  satOut : Nat
  admitted : Nat
  slot : Option Nat
  pages : List (Nat × Nat × Nat)
  saved : List (Nat × Nat × Nat)
  noPage : Bool
  block : Option Nat
  returned : Bool
  parkDone : Bool
  lstep : Nat
  choice : Option (BitVec 32)
  waiting : Bool
  inPlan : Bool
  cstart : Nat
  clen : Nat
deriving DecidableEq, Repr

/-- A conversation parked in the orangery (R353, R354). -/
structure Parked where
  handle : Nat
  fn : Nat
  len : Nat
  saved : List (Nat × Nat × Nat)
  taken : Bool
  expires : Nat
deriving DecidableEq, Repr

/-- An adapter slot's record (R355): state 0 FREE, 1 LOADING, 2 READY, 3 RETIRING, and the request that loads it. -/
structure AdSlot where
  tenant : Nat
  adapter : Nat
  version : Nat
  rank : Nat
  state : Nat
  switchNow : Bool
  refcnt : Nat
  readyAt : Option Nat
  retireAt : Option Nat
  loader : Option (ReqRec × Nat)
  answer : Option Nat
deriving DecidableEq, Repr

/-- A step boundary under way (R36, R37): the action that comes next, whether END was recorded before action 3, the sequences of the step
that has ended, the pages that action 6 releases, whether action 5 has asked for its page copies, and its length so far with the sequences that
it has changed (R345). -/
structure Boundary where
  next : Nat
  ending : Bool
  inStep : List Nat
  release : List Nat
  asked : Bool
  cycles : Nat
  changed : List Nat
deriving DecidableEq, Repr

/-- The ringmaster (R333 to R370) with its page bookkeeping (R263 to R283): `staged` holds leaf edits not yet written, `leafs`
the use of the leaf tables, `tails` ended requests whose
last records have found no room, `stepOpen` that a step runs, `stepDone` that its step-complete bell has arrived, `stepEnd` when it arrived
(R38), `bnd` the boundary under way, and `kvTodo` the page copies that it still has to ask for: stack, source and destination (R282). -/
structure Serving where
  queue : List Request
  answers : List (Nat × ReqRec × Nat)
  seqs : SMap SeqEntry
  parked : List Parked
  expired : List (Nat × Nat)
  tails : List Request
  retires : List (Nat × ReqRec)
  nextHandle : Nat
  nextAdmit : Nat
  slots : SMap AdSlot
  refs : SMap Nat
  quarantine : List Nat
  freeing : List Nat
  staged : List (Nat × Nat × Nat × Option Nat)
  leafs : SMap Nat
  stepArea : Reg64
  step : Reg64
  reruns : BitVec 32
  withdrawn : BitVec 32
  bndMax : BitVec 32
  orgBase : Reg64
  orgSize : Reg64
  endPend : Bool
  stepOpen : Bool
  stepDone : Bool
  stepEnd : Nat
  bnd : Option Boundary
  kvTodo : List (Nat × Nat × Nat)
deriving DecidableEq, Repr

/-! ### Tombola -/

/-- The running command of a tombola (R379 to R387): its tile and item, the cycle from which it can complete, and what it delivers then:
bytes to write by address, the block of an EXPORT by sequence, the choices with every logit −∞, and whether a logit row was poisoned. -/
structure TmbRun where
  tile : Nat
  item : BitVec 2048
  due : Nat
  writes : List (Nat × List Byte)
  block : Option (Nat × Nat)
  empties : Nat
  poison : Bool
deriving DecidableEq, Repr

/-- A tombola (R376 to R392): its queue and the running command. -/
structure Tombola where
  q : List (Nat × BitVec 2048)
  running : Option TmbRun
  cycle : Nat
  vocab : Nat
  ntree : Nat
  parBase : Reg64
  penBase : Reg64
  tree : SMap (BitVec 13)
  tag : BitVec 32
  err : BitVec 8
  errTag : BitVec 32
  commands : BitVec 32
  empty : BitVec 16
  poisonCnt : BitVec 16
deriving DecidableEq, Repr

/-! ### Jobs -/

/-- A window of the running job (R225, R397). -/
structure WinRec where
  valid : Bool
  kind : Nat
  rmostly : Bool
  base : Nat
  pbase : Nat
  npage : Nat
  stack : Nat
  scount : Nat
  isModel : Bool
  keep : Bool
  save : Bool
deriving DecidableEq, Repr

/-- A section of a container: type, index, payload bytes (R397). -/
structure Section where
  type : Nat
  index : Nat
  payload : List Byte
deriving DecidableEq, Repr

/-- The image of a job as the container gives it (R396 to R398), with the digest of its TOTAL bytes (R571). -/
structure Image where
  serving : Bool
  owner : Nat
  modelId : BitVec 64
  modelBytes : Nat
  preempt : Bool
  digest : List Byte
  sections : List Section
deriving DecidableEq, Repr

/-- The parameters of the checkpoint protocol (R397, R406). -/
structure CkptCfg where
  ckarr : Nat
  ckgo : Nat
  w : Nat
deriving DecidableEq, Repr

/-- The live state that a checkpoint or a suspension saves (R403, R406). -/
structure Saved where
  tiles : SMap Tile
  sems : List (Nat × Nat)
  ranges : List (Nat × List Byte)
deriving DecidableEq, Repr

/-- An operation that a fenced unit without a turnstile had not finished: marked as not done to its issuer (R27). -/
structure LostOp where
  unit : Nat
  tile : Nat
  tag : Nat
deriving DecidableEq, Repr

/-- Job control (R393 to R419). -/
structure Job where
  state : Nat
  susp : Bool
  cause : BitVec 4
  refuse : BitVec 8
  owner : Nat
  jobNo : BitVec 32
  imgAddr : Reg64
  jobVec : BitVec 11
  fault : Reg64
  switchCycles : BitVec 48
  switchKind : BitVec 3
  ckTaken : BitVec 32
  ckResumed : BitVec 16
  ckHalf : Bool
  ckpt0 : Option Saved
  ckpt1 : Option Saved
  image : Option Image
  resident : BitVec 64
  suspended : Option (Image × Saved)
  waiting : Option Image
  windows : List WinRec
  tearing : Option (BitVec 4)
  lost : List LostOp
  haltTile : Option Nat
deriving DecidableEq, Repr

/-! ### Chakar links and the bandstand -/

/-- A Chakar link (R422 to R444, R462, R603). `phase` is the training state within STATE 1 to 4 and RETRAIN, begun at
`trainFrom`; `buffer` the replay buffer with the number of each packet's last flit and the times it was resent; `freed` the slots
to return by virtual channel; `replays` the times of the replays of the last millisecond; `held` the packets of R443. -/
structure Link where
  en : Bool
  lane : BitVec 3
  serthr : BitVec 5
  state : Nat
  phase : Nat
  trainFrom : Nat
  lanes : BitVec 5
  spare : Nat
  width : BitVec 2
  inv : BitVec 5
  ver : BitVec 8
  peer : Nat
  fail : Nat
  fecCorr : BitVec 32
  crcErr : BitVec 16
  replayCnt : BitVec 16
  retrains : BitVec 16
  swaps : BitVec 16
  resent : BitVec 16
  dropped : BitVec 16
  signalSeen : BitVec 5
  txSeq : BitVec 12
  lastAck : BitVec 12
  rxSeq : BitVec 12
  buffer : List (BitVec 12 × Packet × Nat)
  nakSent : Bool
  credits : List Nat
  freed : List Nat
  txq : List Packet
  nullGap : Nat
  replays : List Nat
  negSeen : Bool
  negSent : Nat
  peerNeg : Option NegFlit
  held : List Packet
  heldAt : Nat
  leftSeq : Option (BitVec 12)
  leftAt : Nat
  pert : Reg64
  pertCount : Nat
  ssc : Bool
deriving DecidableEq, Repr

/-- The link block's shared registers (R431, R432, R445, R448, R459 to R461), with ACTIVE of interface 3 (R10,
R11); `remote` holds, by TAG, the tile, the effect and the
semaphore of remote effects in flight, `wait` the packets that no link has taken, `lastSet` the links last used for a node (R433). -/
structure LinkBlock where
  node : BitVec 12
  lock : Bool
  inbound : BitVec 32
  outbound : BitVec 32
  route : SMap (BitVec 33)
  allow : SMap Reg64
  rwinA : SMap Reg64
  rwinB : SMap Reg64
  remote : SMap (Nat × Nat × Nat)
  nextTag : Nat
  wait : List Packet
  lastSet : SMap Nat
deriving DecidableEq, Repr

/-- The running collective (R454): tile, item, two rings; SRC and DST as bytes; the steps received on the two rings; whether the
first COLL packet has left; whether SRC carried the poison flag. -/
structure BndRun where
  tile : Nat
  item : BitVec 2048
  two : Bool
  own : List Byte
  result : List Byte
  fwd : Nat
  rev : Nat
  sentFirst : Bool
  poison : Bool
deriving DecidableEq, Repr

/-- A bandstand (R451 to R458, R463): queue, groups, the running collective, received COLL packets, and by link the slots whose
credits it withholds. -/
structure Bandstand where
  q : List (Nat × BitVec 2048)
  running : Option BndRun
  coll : List Packet
  grp : SMap (BitVec 17)
  gmem : SMap (BitVec 12)
  tag : BitVec 32
  err : BitVec 8
  errTag : BitVec 32
  commands : BitVec 32
  credits : SMap Nat
deriving DecidableEq, Repr

/-! ### The Lodge -/

/-- An interrupt source (R502, R518). -/
structure IntSrc where
  prio : BitVec 4
  target : BitVec 2
  en : Bool
  tileOk : Bool
  hostOk : Bool
  inSvc : Bool
  owner : BitVec 2
  offered : Bool
  sat : Bool
  count : BitVec 8
deriving DecidableEq, Repr

/-- A steward core (R493 to R500, R504, R520, R522): `stack` holds the running priorities under services and their sources, `twice`
that it was fenced again within 86,400 s. -/
structure Steward where
  hb : BitVec 32
  lastTime : BitVec 32
  running : Nat
  stack : List (Nat × Nat)
  eoiErr : BitVec 16
  inReset : Bool
  fencedAt : Option Nat
  twice : Bool
deriving DecidableEq, Repr

/-- A manager's session (R509, R510). -/
structure Manager where
  version : BitVec 8
  buffer : Memory
deriving DecidableEq, Repr

/-- A live-service command in progress (R512). -/
structure LiveRun where
  op : Nat
  unit : BitVec 16
  payload : List Byte
deriving DecidableEq, Repr

/-- The Lodge's interrupt controller, events, live service, management, firmware and test access. `boot` keeps what start-up last found, for the
reset that the module makes itself after an update in RECOVERY; `nvRetired`, `nvSdCause` and `nvRepairs` are the non-volatile storage. -/
structure Lodge where
  stewards : SMap Steward
  stwEn : BitVec 4
  claimVictim : BitVec 2
  claimant : BitVec 2
  duty : BitVec 16
  ints : SMap IntSrc
  rr : Bool
  rrLast : Nat
  drops : BitVec 16
  evq : List (BitVec 16 × BitVec 4 × BitVec 32)
  evLost : BitVec 16
  liveOp : BitVec 4
  liveUnit : BitVec 16
  liveGo : Bool
  liveAddr : Reg64
  liveResult : BitVec 8
  liveDone : BitVec 32
  liveRun : Option LiveRun
  hostevt : BitVec 6
  hostevtVec : BitVec 11
  eidSmbus : Byte
  eidVdm : Byte
  managers : SMap Manager
  ifActive2 : BitVec 8
  ifActive0 : BitVec 8
  ifActive4 : BitVec 8
  phase : Nat
  slotFsl : Bool
  slotFw : Bool
  slotCfg : Bool
  fallback : Bool
  stacksOk : BitVec 8
  bootCause : BitVec 4
  readyMs : BitVec 16
  fwSlots : SMap FwImage
  prefer : SMap Nat
  fuses : SMap Nat
  revoked : BitVec 4
  activatedAt : Option Nat
  readyAt : Nat
  recoveryFsl : Bool
  nvRetired : List Nat
  nvSdCause : BitVec 8
  nvRepairs : List (Nat × Nat)
  dlSeen : Bool
  perst : Bool
  signing : Option (Transport × List Byte)
  signed : List (Transport × List Byte)
  testEn : Bool
  testLock : Bool
  jtagRef : Bool
  tap : BitVec 8
  testInForce : Bool
  buCmd : Reg64
  buData : Reg64
  traceCtl : Reg64
  traceBase : Reg64
  traceW : BitVec 32
  traceLost : BitVec 32
  markers : BitVec 32
  rounds : Nat
  dutyMem : SMap (Nat × Nat)
  sensors : SMap Int
  boot : Option StartupObs
deriving DecidableEq, Repr

/-- An entry of the unit state table (R25), with the allowed state before the Lodge last changed it (R28). -/
structure UstEntry where
  allowed : Nat
  reported : Nat
  mismatch : Bool
  logical : Nat
  unavailable : Bool
  fences : BitVec 16
  oldAllowed : Nat
  changedAt : Nat
  reportedAt : Nat
  draining : Bool
deriving DecidableEq, Repr

/-! ### Power, clocks and heat -/

/-- The thermal coefficient set and the model's state (R536 to R539); a set, or recalibrated OFF values, that come into force at the next
round. -/
structure Thermal where
  a : List Lane
  diodeHs : List Nat
  off : List (BitVec 16)
  g : List (BitVec 16)
  x : List (List Lane)
  pending : Option (List Byte)
  pendOff : Option (List (BitVec 16))
deriving DecidableEq, Repr

/-- Power and thermal control (R524 to R553, R592): `target` is the level commanded, `cspot` the demand of the hot spots alone, `chMax` by
channel the readings of the last 10,000 rounds that no later one exceeds, `powers` the input power of the last rounds in mW,
`coolRounds`, `floorRounds` and `errRounds` count rounds of R539, R541 and R543; `feedLost` marks the feeds A and B that are lost. -/
structure Power where
  clevel : Nat
  target : Nat
  cspot : Nat
  ctherm : Nat
  ccap : Nat
  cguard : Nat
  scap : Nat
  slevel : SMap Nat
  sfloor : SMap Nat
  band : SMap Nat
  distrust : BitVec 10
  ch : SMap Lane
  chFail : List Nat
  chGood : SMap Nat
  chMax : SMap (List (Nat × Lane))
  hs : SMap (BitVec 16)
  thermal : Thermal
  coolRounds : SMap Nat
  floorRounds : SMap Nat
  guardCnt : BitVec 16
  capCnt : BitVec 16
  bandCnt : BitVec 16
  failCnt : BitVec 16
  guardSamples : List Nat
  guardHold : Nat
  guardLow : Nat
  guardOver : Nat
  cap : BitVec 12
  capWin : BitVec 10
  capLow : Nat
  powers : List Nat
  capMiss : Bool
  flowLost : Bool
  sdCause : BitVec 8
  shutdown : Bool
  shutAt : Nat
  railsOn : Bool
  thermTrip : Bool
  pwrgd : Bool
  lnkSsc : Bool
  emcLock : Bool
  board : BitVec 24
  feedLost : BitVec 2
  errRounds : SMap Nat
  errSum : SMap Int
  errCount : SMap Nat
deriving DecidableEq, Repr

/-- The whole module, and the commands that wait. `atsCache` lists translations as
function, address, size and write permission, `atsInval` invalidations not completed; `frees` counts the free values taken (the model's own field);
`out` lists what the module has sent, newest first (the model's own field). -/
structure State where
  pending : List Instr
  time : BitVec 64
  frees : Nat
  tiles : SMap Tile
  regions : SMap Region
  stk : SMap Stack
  engines : SMap Engine
  sem : SemUnit
  fns : SMap Fn
  serving : Serving
  tomb : SMap Tombola
  job : Job
  links : SMap Link
  lnk : LinkBlock
  bands : SMap Bandstand
  lodge : Lodge
  ust : SMap UstEntry
  power : Power
  hostReqs : List HostReq
  atsCache : List (Nat × Nat × Nat × Bool)
  atsWaits : List AtsWait
  atsInval : List (Nat × Nat × Nat)
  nextReq : Nat
  hstLink : BitVec 10
  out : List Output
deriving DecidableEq, Repr

/-! ### The state after reset -/

/-- A tile's checkpointed part at job start (R46, R58 and R33: every register zero, every address register unbound). -/
def TileCore.zero : TileCore :=
  { sA := [], sE := [], aReg := [], tReg := [], binds := [], pcA := 0, pcE := 0, lastA := 0, lastE := 0
    stallA := .off, stallE := .off, loopsA := [], loopsE := [], writes := [], poisoned := [], ready := [], vreg := []
    queues := [], desc := [], vwait := [], mwait := [], acts := [], vbusy := 0, mlbusy := 0, mmbusy := 0
    nextA := 0, nextE := 0, oobRead := 0, oobWrite := 0, oobLast := 0 }

/-- An empty stationary buffer (R137). -/
def StatBuf.zero : StatBuf :=
  { loaded := false, handle := 0, fmt := 0, k := 0, n := 0, block := 0, codes := [], scales := [], table := []
    poison := false }

/-- A tile after module reset: no job, asleep, every state part zero (R33, R78 to R82, R101 to R109). -/
def Tile.zero : Tile :=
  { active := false, sleep := .asleep, cycle := 0, core := TileCore.zero, cur := none, mode := .normal
    consWin := 0
    windows := [], nextWin := 0, slipNow := [], slipSeen := [], ueSeen := 0, classFree := [], pathFree := [], pathReq := [], loads := [], sloads := []
    regReads := [], nextLoad := 0, releaseQ := []
    flying := [], nextEff := 0, fences := [], notices := [], refusals := [], blockA := none, blockE := none, haltPend := none, haltSeq := 0, ghosts := []
    tsSnap := 0, halt := { reason := 0, streamE := false, pc := 0, detail := 0 }
    spad := [], spadPoison := [], acc := [], accPoison := [], buf0 := StatBuf.zero, buf1 := StatBuf.zero
    curve := [], cache := [], cacheOrder := [], ac := [], thr := [], thrPort := [], inbox := [], krange := []
    slips := [], slipKind := 0, replayCyc := 0, lqCe := 0, sqCe := 0, qUe := 0, pert := 0, pertSlips := 0
    pertFlips := 0, pertWins := 0 }

/-- A region after module reset (R179, R180, R332, R492, R600). -/
def Region.zero : Region :=
  { mem := [], poison := [], cpyPort := [], cpyQ := [], cpyRun := none, cpyStop := none, cpySleep := .asleep, cpyTag := 0
    cpyDone := 0, cpyStaged := 0, cpyRefused := 0, cpyBytes := 0, atomPort := [], atoms := [], atomDone := 0
    atomRefused := 0, hdmaPort := [], hdmaQ := [], hdmaRun := false, hdmaAsked := false, hdmaDenied := none, hdmaCut := none, hdmaSleep := .asleep, hdmaTag := 0
    hdmaDone := 0, hdmaStopped := 0, pert := 0 }

/-- A stack and its controller after module reset: every valid bit clear (R246), the reset values of R212 to R218,
R234, R250, R254, R259, R260 and R287 to R290. -/
def Stack.zero : Stack :=
  { cycle := 0, prgMem := [], vstage := [], startPort := [], startQ := [], aperPort := [], prg := none
    lastTag := 0, preempt := false, preemptAt := 0, preemptPages := [], errCode := 0, errRow := 0, errTag := 0
    engAvail := 0xFFFFFFFFFFFFFFFF#64, holdMax := 0x960#12, holdLock := false, heldCnt := 0, preemptCnt := 0
    tvAccess := 0, tvRow := 0, tvLast := 0, prgDone := 0, throttle := 0, throttleReq := 0, banks := []
    dpFree := [], ordFree := [], lastRd := [], lastWr := [], treeFree := 0, ringFree := 0, refusedRow := none, band := 0, bandReq := 0, swap := 0
    tables := [], shadows := [], refBank := [], refOwed := [], refAt := [], roundAt := 0, oldTab := [], swapAt := 0, inflight := [], held := [], valid := []
    filling := [], mapBad := [], mapWrote := [], clrLate := [], clrPage := 0, clrNpage := 0, clrGo := false, clrPos := 0, clrMask := 0, scrubInt := 0
    scrubPage := 0, scrubPc := 0, scrubPasses := 0, scrubQ := [], scrubAt := 0, scrubLate := [], corrSeen := [], eccCorr := 0, eccUncorr := 0
    eccPoison := 0, parRetry := 0, parExhaust := 0, odecc := 0, errLast := 0, remap := [], spareUsed := [], spareNext := []
    repairSoft := 0, repairWant := [], mem := [], poisonCw := [], cwErr := [], attCfg := 0, attTbase := 0
    attSnap := 0, kvSrc := 0, kvDst := 0, kvErr := false, kvGo := false, kvUntil := 0, kvFirst := (0, 0), kvRuns := [], attPages := 0
    attMiss := 0, attSkip := 0, pert := 0, margin := 0, injOpen := false }

/-- A sleeping bank engine, whose state parts hold zeros (R182). -/
def Engine.zero : Engine :=
  { sleep := .asleep, lastUse := 0, vb0 := [], vb1 := [], scale := [], acc := [], accPoison := []
    posO := 0, posK := 0, busyUntil := 0, accFinal := 0, lastOp := 0, occ := []
    cfgA := 0, cfgB := 0 }

/-- A semaphore after module reset (R328). -/
def Sem.zero : Sem := { value := 0, lastScope := 3, lastSrc := 0, queue := [], observers := [] }

/-- A notification slot after module reset (R330). -/
def NtfSlot.zero : NtfSlot :=
  { sem := 0, kind := false, armed := false, func := 0, thresh := 0, fired := 0, b := 0 }

/-- A PCIe function after module reset (R365, R421, R488, R490): the physical function is present, a virtual function
waits to be enabled. -/
def Fn.zero (f : Nat) : Fn :=
  { enabled := f == 0, busMaster := true, ats := false, rqBase := 0, rqLog2n := 4, rqEn := false, rqHead := 0
    rqTail := 0, ifActive := 0, rejRing := 0, rejUnknown := 0, disabledPending := false, sapValid := false
    sapRonly := false, sapLog2 := 0x14#6, sapBase := 0, ntfFirst := 0, ntfCount := 0, errStat := 0, errVec := 0
    errMask := 0x3F#6, errLast := 0, errCnt := 0, quotaA := 0, quotaB := 0, quotaPendA := none
    quotaPendB := none, msixTable := [], msixPend := [] }

/-- A free adapter slot (R355). -/
def AdSlot.zero : AdSlot :=
  { tenant := 0, adapter := 0, version := 0, rank := 0, state := 0, switchNow := false, refcnt := 0
    readyAt := none, retireAt := none, loader := none, answer := none }

/-- A boundary as it begins. -/
def Boundary.zero : Boundary := { next := 1, ending := false, inStep := [], release := [], asked := false, cycles := 0, changed := [] }

/-- The ringmaster after module reset (R368 to R370). -/
def Serving.zero : Serving :=
  { queue := [], answers := [], seqs := [], parked := [], expired := [], tails := [], retires := [], nextHandle := 1, nextAdmit := 0
    slots := [], refs := [], quarantine := [], freeing := [], staged := [], leafs := [], stepArea := 0, step := 0, reruns := 0
    withdrawn := 0, bndMax := 0, orgBase := 0, orgSize := 0, endPend := false, stepOpen := false, stepDone := false
    stepEnd := 0, bnd := none, kvTodo := [] }

/-- A tombola after module reset (R389 to R392). -/
def Tombola.zero : Tombola :=
  { q := [], running := none, cycle := 0, vocab := 0, ntree := 0, parBase := 0, penBase := 0, tree := []
    tag := 0, err := 0, errTag := 0, commands := 0, empty := 0, poisonCnt := 0 }

/-- Job control after module reset: STATE NONE (R395, R415 to R419). -/
def Job.zero : Job :=
  { state := 0, susp := false, cause := 0, refuse := 0, owner := 0, jobNo := 0, imgAddr := 0, jobVec := 0
    fault := 0, switchCycles := 0, switchKind := 0, ckTaken := 0, ckResumed := 0, ckHalf := false
    ckpt0 := none, ckpt1 := none, image := none, resident := 0, suspended := none, waiting := none
    windows := [], tearing := none, lost := [], haltTile := none }

/-- A link after module reset: DISABLED, SERTHR 0x10, no spare (R462). -/
def Link.zero : Link :=
  { en := false, lane := 0, serthr := 0x10#5, state := 0, phase := 0, trainFrom := 0, lanes := 0, spare := 7, width := 0, inv := 0
    ver := 0, peer := 0, fail := 0, fecCorr := 0, crcErr := 0, replayCnt := 0, retrains := 0, swaps := 0
    resent := 0, dropped := 0, signalSeen := 0, txSeq := 0, lastAck := 0xFFF#12, rxSeq := 0, buffer := [], nakSent := false
    credits := [0, 0, 0], freed := [0, 0, 0], txq := [], nullGap := 0, replays := [], negSeen := false, negSent := 0
    peerNeg := none, held := [], heldAt := 0, leftSeq := none, leftAt := 0, pert := 0, pertCount := 0, ssc := true }

/-- The link block after module reset (R459 to R461). -/
def LinkBlock.zero : LinkBlock :=
  { node := 0, lock := false, inbound := 0, outbound := 0, route := [], allow := [], rwinA := []
    rwinB := [], remote := [], nextTag := 0, wait := [], lastSet := [] }

/-- A bandstand after module reset (R463). -/
def Bandstand.zero : Bandstand :=
  { q := [], running := none, coll := [], grp := [], gmem := [], tag := 0, err := 0
    errTag := 0, commands := 0, credits := [] }

/-- An interrupt source after module reset (R518). -/
def IntSrc.zero : IntSrc :=
  { prio := 0xF#4, target := 0, en := false, tileOk := false, hostOk := false, inSvc := false, owner := 0
    offered := false, sat := false, count := 0 }

/-- A steward after Lodge reset (R520, R522). -/
def Steward.zero : Steward :=
  { hb := 0, lastTime := 0, running := 16, stack := [], eoiErr := 0, inReset := false, fencedAt := none
    twice := false }

/-- A manager that has chosen no version (R510). -/
def Manager.zero : Manager := { version := 0, buffer := [] }

/-- The Lodge after reset (R494, R503, R519 to R523, R572, R594, R604, R606, R607). -/
def Lodge.zero : Lodge :=
  { stewards := [], stwEn := 0xF#4, claimVictim := 0, claimant := 0, duty := 0xF0A9#16, ints := [], rr := true
    rrLast := 3, drops := 0, evq := [], evLost := 0, liveOp := 0, liveUnit := 0, liveGo := false
    liveAddr := 0, liveResult := 0, liveDone := 0, liveRun := none, hostevt := 0, hostevtVec := 0
    eidSmbus := 0, eidVdm := 0, managers := [], ifActive2 := 0, ifActive0 := 0, ifActive4 := 0, phase := 0
    slotFsl := false, slotFw := false, slotCfg := false, fallback := false, stacksOk := 0, bootCause := 0
    readyMs := 0, fwSlots := [], prefer := [], fuses := [], revoked := 0, activatedAt := none, readyAt := 0
    recoveryFsl := false, nvRetired := [], nvSdCause := 0, nvRepairs := [], dlSeen := false, perst := true
    signing := none, signed := [], testEn := false, testLock := false, jtagRef := false
    tap := 0xFF#8, testInForce := false, buCmd := 0, buData := 0
    traceCtl := 0x0000000000645000#64, traceBase := 0, traceW := 0, traceLost := 0, markers := 0
    rounds := 0, dutyMem := [], sensors := [], boot := none }

/-- The thermal model at Lodge reset: every x starts at 0 (R536). -/
def Thermal.zero : Thermal :=
  { a := [], diodeHs := [], off := [], g := [], x := [], pending := none, pendOff := none }

/-- Power and thermal control after Lodge reset (R549 to R553, R592). -/
def Power.zero : Power :=
  { clevel := 0, target := 0, cspot := 0, ctherm := 0, ccap := 0, cguard := 0, scap := 0, slevel := [], sfloor := []
    band := [], distrust := 0, ch := [], chFail := [], chGood := [], chMax := [], hs := []
    thermal := Thermal.zero, coolRounds := [], floorRounds := [], guardCnt := 0, capCnt := 0, bandCnt := 0
    failCnt := 0, guardSamples := [], guardHold := 0, guardLow := 0, guardOver := 0, cap := 0
    capWin := 0x64#10, capLow := 0, powers := [], capMiss := false, flowLost := false, sdCause := 0
    shutdown := false, shutAt := 0, railsOn := false, thermTrip := false, pwrgd := false, lnkSsc := true, emcLock := false
    board := 0, feedLost := 0, errRounds := [], errSum := [], errCount := [] }

/-- The semaphore unit after module reset (R328 to R332). -/
def SemUnit.zero : SemUnit :=
  { sems := [], quota := [], ntf := [], net := [], mismatchCnt := 0, mismatchLast := 0, signals := 0
    releases := 0 }

/-- The module right after a module reset (R8, R555): every register at its Reset value, nothing listed in any memory,
no command waiting. -/
def State.reset : State :=
  { pending := [], time := 0, frees := 0, tiles := [], regions := [], stk := [], engines := []
    sem := SemUnit.zero, fns := [], serving := Serving.zero, tomb := [], job := Job.zero, links := []
    lnk := LinkBlock.zero, bands := [], lodge := Lodge.zero, ust := [], power := Power.zero, hostReqs := []
    atsCache := [], atsWaits := [], atsInval := [], nextReq := 0, hstLink := 0, out := [] }

end Sys2Proof.Machine
end

