-- ==== Sys2Proof/Machine/Numbers.lean ====
section
/-! DEFINITION. Number formats and exact arithmetic (R112 to R122): every value is NaN, an infinity or a signed dyadic
number; each operation is computed exactly and rounded once. -/

namespace Sys2Proof.Machine

/-- A value: NaN, an infinity, or (-1)^neg × m × 2^e; a zero keeps its sign. -/
inductive Num where
  | nan
  | inf (neg : Bool)
  | fin (neg : Bool) (m : Nat) (e : Int)
deriving DecidableEq, Repr

/-- A floating-point layout (R113): exponent and mantissa widths, bias, whether it has infinities, and the code of its
largest finite magnitude. -/
structure FloatFmt where
  exp : Nat
  man : Nat
  bias : Int
  hasInf : Bool
  nan : Option Nat
  maxCode : Nat
deriving DecidableEq, Repr

/-- binary32 (R113, R116). -/
def fmtF32 : FloatFmt := { exp := 8, man := 23, bias := 127, hasInf := true, nan := some 0x7FC00000, maxCode := 0x7F7FFFFF }

/-- binary16 (R113, R116). -/
def fmtF16 : FloatFmt := { exp := 5, man := 10, bias := 15, hasInf := true, nan := some 0x7E00, maxCode := 0x7BFF }

/-- bfloat16 (R113, R116). -/
def fmtBF16 : FloatFmt := { exp := 8, man := 7, bias := 127, hasInf := true, nan := some 0x7FC0, maxCode := 0x7F7F }

/-- E5M2 (R113, R116). -/
def fmtE5M2 : FloatFmt := { exp := 5, man := 2, bias := 15, hasInf := true, nan := some 0x7E, maxCode := 0x7B }

/-- E4M3 (R113, R116): the exponent field 1111 holds finite values up to 448. -/
def fmtE4M3 : FloatFmt := { exp := 4, man := 3, bias := 7, hasInf := false, nan := some 0x7F, maxCode := 0x7E }

/-- E3M2 (R113). -/
def fmtE3M2 : FloatFmt := { exp := 3, man := 2, bias := 3, hasInf := false, nan := none, maxCode := 0x1F }

/-- E2M3 (R113). -/
def fmtE2M3 : FloatFmt := { exp := 2, man := 3, bias := 1, hasInf := false, nan := none, maxCode := 0x1F }

/-- E2M1 (R113). -/
def fmtE2M1 : FloatFmt := { exp := 2, man := 1, bias := 1, hasInf := false, nan := none, maxCode := 0x7 }

/-- The width of a layout in bits. -/
def FloatFmt.bits (f : FloatFmt) : Nat := 1 + f.exp + f.man

/-- The exponent of the last place of a subnormal (R113). -/
def FloatFmt.emin (f : FloatFmt) : Int := 1 - f.bias - f.man

/-- The value of a code (R113). -/
def decodeFloat (f : FloatFmt) (code : Nat) : Num :=
  let neg := code.testBit (f.exp + f.man)
  let mag := code % 2 ^ (f.exp + f.man)
  let ex := mag / 2 ^ f.man
  let fr := mag % 2 ^ f.man
  if f.hasInf && ex == 2 ^ f.exp - 1 then
    if fr = 0 then .inf neg else .nan
  else if f.hasInf = false ∧ f.nan = some mag then .nan
  else if ex = 0 then .fin neg fr f.emin
  else .fin neg (fr + 2 ^ f.man) (f.emin + ex - 1)

/-- How a magnitude is rounded: to nearest with ties to even, toward zero, or away from zero. -/
inductive Rounding where
  | nearest
  | zero
  | up
deriving DecidableEq, Repr

/-- m × 2^(-r) rounded to a whole number. -/
def roundShift (how : Rounding) (m r : Nat) : Nat :=
  let q := m / 2 ^ r
  let rem := m % 2 ^ r
  match how with
  | .zero => q
  | .up => if rem = 0 then q else q + 1
  | .nearest =>
    if r = 0 then q
    else if 2 * rem < 2 ^ r then q
    else if 2 * rem = 2 ^ r then (if q % 2 = 0 then q else q + 1)
    else q + 1

/-- The magnitude code of m × 2^e in a layout with unbounded exponent field, with gradual underflow (R122). -/
def roundMag (f : FloatFmt) (how : Rounding) (m : Nat) (e : Int) : Nat :=
  if m = 0 then 0
  else
    let q : Int := max (e + Nat.log2 m - f.man) f.emin
    let mant := if q ≤ e then m * 2 ^ (e - q).toNat else roundShift how m (q - e).toNat
    let place := (q - f.emin).toNat
    if mant < 2 ^ f.man then mant
    else (place + 1) * 2 ^ f.man + (mant - 2 ^ f.man)

/-- The sign bit of a code. -/
def signCode (f : FloatFmt) (neg : Bool) : Nat := if neg then 2 ^ (f.exp + f.man) else 0

/-- The code of infinity in a layout that has it. -/
def FloatFmt.infCode (f : FloatFmt) : Nat := (2 ^ f.exp - 1) * 2 ^ f.man

/-- Conversion to an unscaled floating-point format by a rounding mode of R121, with the special cases of R122. -/
def encodeFloat (f : FloatFmt) (mode : Nat) (v : Num) : Nat :=
  let nanC := f.nan.getD f.maxCode
  match v with
  | .nan => nanC
  | .inf neg =>
    if mode = 2 then signCode f neg + f.maxCode
    else if f.hasInf then signCode f neg + f.infCode else nanC
  | .fin neg m e =>
    let c := roundMag f (if mode = 1 then .zero else .nearest) m e
    if c ≤ f.maxCode then signCode f neg + c
    else if mode = 0 then (if f.hasInf then signCode f neg + f.infCode else nanC)
    else signCode f neg + f.maxCode

/-- An element of a scaled format: rounded by the mode and saturated to the largest finite magnitude (R118, R119). -/
def encodeSat (f : FloatFmt) (mode : Nat) (v : Num) : Nat :=
  match v with
  | .nan => 0
  | .inf neg => signCode f neg + f.maxCode
  | .fin neg m e => signCode f neg + min (roundMag f (if mode = 1 then .zero else .nearest) m e) f.maxCode

/-- The value of a whole number. -/
def numOfInt (i : Int) : Num := .fin (decide (i < 0)) i.natAbs 0

/-- Negation. -/
def numNeg : Num → Num
  | .nan => .nan
  | .inf n => .inf (!n)
  | .fin n m e => .fin (!n) m e

/-- Magnitude. -/
def numAbs : Num → Num
  | .nan => .nan
  | .inf _ => .inf false
  | .fin _ m e => .fin false m e

/-- The exact product; ∞ × 0 is NaN (R127). -/
def numMul : Num → Num → Num
  | .nan, _ => .nan
  | _, .nan => .nan
  | .inf a, .inf b => .inf (a != b)
  | .inf a, .fin b m _ => if m = 0 then .nan else .inf (a != b)
  | .fin a m _, .inf b => if m = 0 then .nan else .inf (a != b)
  | .fin a m e, .fin b n f => .fin (a != b) (m * n) (e + f)

/-- The signed mantissa of a finite value at exponent `e0`, which lies at or below its own. -/
def mantAt (e0 : Int) (neg : Bool) (m : Nat) (e : Int) : Int :=
  let k : Int := (m * 2 ^ (e - e0).toNat : Nat)
  if neg then -k else k

/-- The exact sum; ∞ + (−∞) is NaN, and a zero sum is +0 unless both terms are −0. -/
def numAdd : Num → Num → Num
  | .nan, _ => .nan
  | _, .nan => .nan
  | .inf a, .inf b => if a = b then .inf a else .nan
  | .inf a, .fin _ _ _ => .inf a
  | .fin _ _ _, .inf b => .inf b
  | .fin a m e, .fin b n f =>
    let e0 := min e f
    let s := mantAt e0 a m e + mantAt e0 b n f
    if s = 0 then .fin (a && b) 0 e0 else .fin (decide (s < 0)) s.natAbs e0

/-- Difference. -/
def numSub (a b : Num) : Num := numAdd a (numNeg b)

/-- The exact sum of a list (R127, R186). -/
def numSum (l : List Num) : Num := l.foldl numAdd (.fin false 0 0)

/-- Whether a value is zero. -/
def numIsZero : Num → Bool
  | .fin _ m _ => m == 0
  | _ => false

/-- Exact order of two values that are not NaN; −0 equals +0. -/
def numLt : Num → Num → Bool
  | .nan, _ => false
  | _, .nan => false
  | .inf a, .inf b => a && !b
  | .inf a, .fin _ _ _ => a
  | .fin _ _ _, .inf b => !b
  | .fin a m e, .fin b n f => decide (mantAt (min e f) a m e < mantAt (min e f) b n f)

/-- Equality of values; NaN equals nothing. -/
def numEq (a b : Num) : Bool :=
  match a, b with
  | .nan, _ => false
  | _, .nan => false
  | a, b => !(numLt a b) && !(numLt b a)

/-- The quotient to more places than any format holds, with a sticky last place; IEEE results for zeros and infinities. -/
def numDiv : Num → Num → Num
  | .nan, _ => .nan
  | _, .nan => .nan
  | .inf _, .inf _ => .nan
  | .inf a, .fin b _ _ => .inf (a != b)
  | .fin a _ _, .inf b => .fin (a != b) 0 0
  | .fin a m e, .fin b n f =>
    if n = 0 then (if m = 0 then .nan else .inf (a != b))
    else
      let k := Nat.log2 n + 64
      let q := m * 2 ^ k / n
      let s := if m * 2 ^ k % n = 0 then 0 else 1
      .fin (a != b) (2 * q + s) (e - f - k - 1)

/-- The value of a binary32 lane. -/
def dec32 (x : Lane) : Num := decodeFloat fmtF32 x.toNat

/-- A value rounded to binary32 by mode 0. -/
def enc32 (v : Num) : Lane := BitVec.ofNat 32 (encodeFloat fmtF32 0 v)

/-- binary32 operations, rounded to nearest with ties to even (R133). -/
def f32Add (a b : Lane) : Lane := enc32 (numAdd (dec32 a) (dec32 b))
def f32Sub (a b : Lane) : Lane := enc32 (numSub (dec32 a) (dec32 b))
def f32Mul (a b : Lane) : Lane := enc32 (numMul (dec32 a) (dec32 b))
def f32Div (a b : Lane) : Lane := enc32 (numDiv (dec32 a) (dec32 b))

/-- a × b + c with one rounding (R133). -/
def f32Fma (a b c : Lane) : Lane := enc32 (numAdd (numMul (dec32 a) (dec32 b)) (dec32 c))

/-- The sign bit of a lane. -/
def laneNeg (x : Lane) : Bool := x.getLsbD 31

/-- Whether a lane is a NaN. -/
def isNan32 (x : Lane) : Bool := dec32 x == .nan

/-- The canonical NaN of binary32 (R116). -/
def nan32 : Lane := 0x7FC00000#32

/-- minimumNumber and maximumNumber (R133): a NaN yields the other operand, −0 lies below +0, two NaNs give the
canonical NaN. -/
def f32MinMax (isMax : Bool) (a b : Lane) : Lane :=
  if isNan32 a then (if isNan32 b then nan32 else b)
  else if isNan32 b then a
  else
    let less := numLt (dec32 a) (dec32 b) || (numEq (dec32 a) (dec32 b) && laneNeg a && !laneNeg b)
    if less != isMax then a else b

/-- The IEEE maximum, under which NaN propagates (R273). -/
def f32MaxProp (a b : Lane) : Lane := if isNan32 a || isNan32 b then nan32 else f32MinMax true a b

/-- floor of a finite value. -/
def numFloor : Num → Int
  | .fin neg m e =>
    if 0 ≤ e then (if neg then -((m * 2 ^ e.toNat : Nat) : Int) else ((m * 2 ^ e.toNat : Nat) : Int))
    else
      let q := m / 2 ^ (-e).toNat
      let r := m % 2 ^ (-e).toNat
      if neg then (if r = 0 then -(q : Int) else -((q : Int) + 1)) else (q : Int)
  | _ => 0

/-- A value rounded to a whole number by a mode of R121; an infinity is given by `big`. -/
def numToInt (mode : Nat) (big : Int) : Num → Int
  | .nan => 0
  | .inf neg => if neg then -big else big
  | .fin neg m e =>
    let k : Nat := if 0 ≤ e then m * 2 ^ e.toNat
      else roundShift (if mode = 1 then .zero else .nearest) m (-e).toNat
    if neg then -(k : Int) else (k : Int)

/-- A whole number limited to a range. -/
def clampInt (lo hi x : Int) : Int := if x < lo then lo else if hi < x then hi else x

/-- Conversion to a signed or unsigned integer of `w` bits with saturation; NaN gives 0 (R122). -/
def encodeInt (signed : Bool) (w mode : Nat) (v : Num) : Nat :=
  let lo : Int := if signed then -(2 ^ (w - 1) : Int) else 0
  let hi : Int := if signed then 2 ^ (w - 1) - 1 else 2 ^ w - 1
  let x := clampInt lo hi (numToInt mode (2 ^ 200) v)
  (x % (2 ^ w : Int)).toNat

/-- The value of an integer code. -/
def decodeInt (signed : Bool) (w code : Nat) : Num :=
  let c := code % 2 ^ w
  if signed && decide (2 ^ (w - 1) ≤ c) then numOfInt ((c : Int) - 2 ^ w) else numOfInt c

/-- The value of an E8M0 code (R114). -/
def decodeE8M0 (c : Nat) : Num := if c = 0xFF then .nan else .fin false 1 ((c : Int) - 127)

/-- Conversion to E8M0 (R122). -/
def encodeE8M0 (mode : Nat) (v : Num) : Nat :=
  match v with
  | .nan => 0xFF
  | .inf neg => if neg then 0xFF else if mode = 2 then 0xFE else 0xFF
  | .fin neg m e =>
    if m = 0 then 0x00
    else if neg then 0xFF
    else
      let k : Int := e + Nat.log2 m
      if k < -127 then 0x00
      else
        -- compare m with 1.5 × 2^log2 m
        let twice := 2 * m
        let pivot := 3 * 2 ^ Nat.log2 m
        let up : Int :=
          if mode = 1 then 0
          else if twice < pivot then 0
          else if pivot < twice then 1
          else if (k + 127) % 2 = 0 then 0 else 1
        let c := k + 127 + up
        if c ≤ 254 then c.toNat else if mode = 0 then 0xFF else 0xFE

/-- The shape of a format's element code (R112). -/
inductive ElemKind where
  | float (f : FloatFmt)
  | int (signed : Bool) (w : Nat)
  | e8m0
  | mxint8
  | code (w : Nat)
  | bit
deriving DecidableEq, Repr

/-- The scale array of a format (R112): none, E8M0 or binary16. -/
inductive ScaleKind where
  | none
  | e8m0
  | half
deriving DecidableEq, Repr

/-- The 31 format codes (R112); every other code is reserved. -/
def fmtInfo (c : Nat) : Option (ElemKind × ScaleKind) :=
  match c with
  | 0x01 => some (.float fmtF32, .none)
  | 0x02 => some (.float fmtF16, .none)
  | 0x03 => some (.float fmtBF16, .none)
  | 0x04 => some (.float fmtE4M3, .none)
  | 0x05 => some (.float fmtE5M2, .none)
  | 0x06 => some (.e8m0, .none)
  | 0x08 => some (.int true 8, .none)
  | 0x09 => some (.int false 8, .none)
  | 0x0A => some (.int true 16, .none)
  | 0x0B => some (.int false 16, .none)
  | 0x0C => some (.int true 32, .none)
  | 0x0D => some (.int false 32, .none)
  | 0x0E => some (.int true 4, .none)
  | 0x0F => some (.int false 4, .none)
  | 0x10 => some (.float fmtE4M3, .e8m0)
  | 0x11 => some (.float fmtE5M2, .e8m0)
  | 0x12 => some (.float fmtE3M2, .e8m0)
  | 0x13 => some (.float fmtE2M3, .e8m0)
  | 0x14 => some (.float fmtE2M1, .e8m0)
  | 0x15 => some (.mxint8, .e8m0)
  | 0x18 => some (.int true 8, .half)
  | 0x19 => some (.int true 4, .half)
  | 0x1A => some (.float fmtE4M3, .half)
  | 0x1B => some (.float fmtE2M1, .half)
  | 0x20 => some (.code 4, .none)
  | 0x21 => some (.code 4, .half)
  | 0x22 => some (.code 4, .e8m0)
  | 0x23 => some (.code 8, .none)
  | 0x24 => some (.code 8, .half)
  | 0x25 => some (.code 8, .e8m0)
  | 0x30 => some (.bit, .none)
  | _ => none

/-- The width of an element code in bits. -/
def elemBits : ElemKind → Nat
  | .float f => f.bits
  | .int _ w => w
  | .e8m0 => 8
  | .mxint8 => 8
  | .code w => w
  | .bit => 1

/-- The width in bits of a format's element, 0 for a reserved code. -/
def fmtBits (c : Nat) : Nat := match fmtInfo c with | some (k, _) => elemBits k | none => 0

/-- Codebook formats (R120). -/
def fmtIsCode (c : Nat) : Bool := 0x20 ≤ c && c ≤ 0x25

/-- Whether a format has block scales (R112). -/
def fmtScale (c : Nat) : ScaleKind := match fmtInfo c with | some (_, s) => s | none => .none

/-- Scaled formats: those with a scale array, and the codebook formats (R112). -/
def fmtIsScaled (c : Nat) : Bool := fmtIsCode c || fmtScale c != .none

/-- Bytes of one block scale (R150). -/
def scaleBytes (c : Nat) : Nat := match fmtScale c with | .none => 0 | .e8m0 => 1 | .half => 2

/-- Bytes of the value table of a codebook format (R120, R150). -/
def tableBytes (c : Nat) : Nat := if 0x20 ≤ c && c ≤ 0x22 then 16 else if 0x23 ≤ c && c ≤ 0x25 then 512 else 0

/-- The value of an element code without its scale; `table` decodes the entries of a codebook (R113, R114, R120). -/
def decodeElem (c : Nat) (table : List Nat) (code : Nat) : Num :=
  match fmtInfo c with
  | some (.float f, _) => decodeFloat f code
  | some (.int s w, _) => decodeInt s w code
  | some (.e8m0, _) => decodeE8M0 code
  | some (.mxint8, _) => numMul (decodeInt true 8 code) (.fin false 1 (-6))
  | some (.code 4, _) => decodeFloat fmtE4M3 (table.getD code 0)
  | some (.code _, _) => decodeFloat fmtF16 (table.getD code 0)
  | some (.bit, _) => numOfInt (code % 2)
  | none => .nan

/-- The value of a scale code (R114, R117). -/
def decodeScale (c : Nat) (code : Nat) : Num :=
  match fmtScale c with
  | .none => .fin false 1 0
  | .e8m0 => decodeE8M0 code
  | .half => decodeFloat fmtF16 code

/-- An element times its block's scale; a NaN scale makes it NaN (R117). -/
def decodeScaled (c : Nat) (table : List Nat) (code scale : Nat) : Num :=
  match fmtScale c with
  | .none => decodeElem c table code
  | _ => numMul (decodeElem c table code) (decodeScale c scale)

/-- Conversion of a value to an unscaled format's element code (R121, R122). -/
def encodeElem (c mode : Nat) (v : Num) : Nat :=
  match fmtInfo c with
  | some (.float f, _) => encodeFloat f mode v
  | some (.int s w, _) => encodeInt s w mode v
  | some (.e8m0, _) => encodeE8M0 mode v
  | some (.bit, _) => match v with | .nan => 0 | v => if numIsZero v then 0 else 1
  | _ => 0

/-- The largest magnitude of a block's finite elements (R118 step 1). -/
def blockMax (vs : List Num) : Num :=
  vs.foldl (fun m v => match v with
    | .fin _ k e => if numLt m (.fin false k e) then .fin false k e else m
    | _ => m) (.fin false 0 0)

/-- emax of an MX element format (R118). -/
def mxEmax (c : Nat) : Int :=
  match c with | 0x10 => 8 | 0x11 => 15 | 0x12 => 4 | 0x13 => 2 | 0x14 => 2 | _ => 0

/-- floor(log2 m) of a positive value. -/
def numLog2 : Num → Int
  | .fin _ m e => e + Nat.log2 m
  | _ => 0

/-- The scale code and the element codes of a block written in an MX format (R118). -/
def encodeMX (c mode : Nat) (vs : List Num) : Nat × List Nat :=
  let anyNan := vs.any (· == .nan)
  let anyInf := vs.any (fun v => match v with | .inf _ => true | _ => false)
  if anyNan || (anyInf && c != 0x11) then (0xFF, vs.map (fun _ => 0))
  else
    let m := blockMax vs
    let sc : Nat := if numIsZero m then 0 else (clampInt (-127) 127 (numLog2 m - mxEmax c) + 127).toNat
    let sv := decodeE8M0 sc
    (sc, vs.map fun v =>
      let q := numDiv v sv
      match fmtInfo c with
      | some (.float f, _) => (match v with | .inf neg => signCode f neg + f.infCode | _ => encodeSat f mode q)
      | _ => encodeInt true 8 mode (numMul q (.fin false 64 0)))

/-- QMAX of the binary16-scaled formats (R119). -/
def halfQmax (c : Nat) : Nat := match c with | 0x18 => 127 | 0x19 => 7 | 0x1A => 448 | _ => 6

/-- A positive value rounded toward +∞ to a layout. -/
def encodeUp (f : FloatFmt) : Num → Nat
  | .fin _ m e => roundMag f .up m e
  | _ => 0

/-- The scale code and the element codes of a block written in S8_H, S4_H, E4M3_H or E2M1_H (R119). -/
def encodeHalf (c mode : Nat) (vs : List Num) : Nat × List Nat :=
  let bad := vs.any (fun v => match v with | .fin _ _ _ => false | _ => true)
  if bad then (0x7E00, vs.map (fun _ => 0))
  else
    let m := blockMax vs
    if numIsZero m then (0, vs.map (fun _ => 0))
    else
      let q32 := decodeFloat fmtF32 (encodeUp fmtF32 (numDiv m (numOfInt (halfQmax c))))
      let sc := min (max (encodeUp fmtF16 q32) 1) fmtF16.maxCode
      let sv := decodeFloat fmtF16 sc
      (sc, vs.map fun v =>
        let q := dec32 (enc32 (numDiv v sv))
        let qm : Int := halfQmax c
        match fmtInfo c with
        | some (.float f, _) => encodeSat f mode q
        | _ => (clampInt (-qm) qm (numToInt mode (2 ^ 200) q) % (2 ^ fmtBits c : Int)).toNat)

/-- The scale and element codes of a block written in a format with block scales (R118, R119). -/
def encodeBlock (c mode : Nat) (vs : List Num) : Nat × List Nat :=
  match fmtScale c with
  | .e8m0 => encodeMX c mode vs
  | .half => encodeHalf c mode vs
  | .none => (0, vs.map (encodeElem c mode))

/-! ### exp2 (R273, R374) -/

/-- ln 2 × 2^192, rounded down. -/
def ln2Scaled : Nat := 4350955369971217654477563090224794165364344896676135745069

/-- The Taylor sum of e^y × 2^192 for y × 2^192. -/
def expTaylor (y : Nat) : Nat → Nat → Nat → Nat → Nat
  | 0, _, _, acc => acc
  | fuel + 1, k, term, acc =>
    let t := term * y / 2 ^ 192 / k
    expTaylor y fuel (k + 1) t (acc + t)

/-- 2^x to about 190 places, with a sticky last place where x is no whole number, so that it rounds once (R374; log entry 3). -/
def numExp2 (v : Num) : Num :=
  match v with
  | .nan => .nan
  | .inf neg => if neg then .fin false 0 0 else .inf false
  | .fin neg m e =>
    let n := numFloor (.fin neg m e)
    if 400 < n then .inf false
    else if n < -400 then .fin false 0 0
    else
      let frac := mantAt (min e (-192)) neg m e - n * (2 ^ ((-192 : Int) - min e (-192)).toNat * 2 ^ 192 : Nat)
      let f := frac.toNat / 2 ^ ((-192 : Int) - min e (-192)).toNat
      if frac = 0 then .fin false 1 n
      else .fin false (2 * expTaylor (f * ln2Scaled / 2 ^ 192) 70 1 (2 ^ 192) (2 ^ 192) + 1) (n - 193)

/-- exp2 of a binary32 value, rounded to nearest. -/
def f32Exp2 (x : Lane) : Lane := enc32 (numExp2 (dec32 x))

/-- Whether a value lies within a relative error of 2^-20 of an exact one (R273). -/
def withinExp2 (p : Num) (y : Lane) : Bool :=
  !numLt (numMul (numAbs p) (.fin false 1 (-20))) (numAbs (numSub (dec32 y) p))

/-- exp2 of a bank engine: one of the binary32 values within R273's bound, at most sixteen places from the nearest one, as a free choice
names it; infinities and NaN as IEEE gives them (R273; log entry 3). -/
def exp2Engine (x : Lane) : Lane :=
  let p := numExp2 (dec32 x)
  let c := enc32 p
  match p with
  | .fin _ _ _ =>
    let y := BitVec.ofNat 32 (c.toNat + Config.exp2Pick x % 33 - 16)
    if withinExp2 p y then y else c
  | _ => c

end Sys2Proof.Machine
end

