-- ==== Sys2Proof/Machine/Ops.lean ====
section
/-! DEFINITION. The named operations that every command uses: sparse maps and memories, bit fields and bytes, the units of
the state, addresses and windows, reports, interrupts, host errors and host messages. -/

namespace Sys2Proof.Machine

/-! ### Maps, memories, bits and bytes -/

/-- The value of a key; an unlisted key holds the default. -/
def mget {α : Type} (d : α) : SMap α → Nat → α
  | [], _ => d
  | (k, v) :: m, i => if i = k then v else if i < k then d else mget d m i

/-- Writes a key and keeps the map canonical: keys rising, no entry equal to the default. -/
def mput {α : Type} [DecidableEq α] (d : α) : SMap α → Nat → α → SMap α
  | [], i, v => if v = d then [] else [(i, v)]
  | (k, w) :: m, i, v =>
    if i < k then (if v = d then (k, w) :: m else (i, v) :: (k, w) :: m)
    else if i = k then (if v = d then m else (i, v) :: m)
    else (k, w) :: mput d m i v

/-- Keys rise strictly from `lo` on and no entry equals the default. -/
def mwfFrom {α : Type} [DecidableEq α] (d : α) (lo : Nat) : SMap α → Bool
  | [] => true
  | (k, v) :: m => decide (lo ≤ k) && decide (v ≠ d) && mwfFrom d (k + 1) m

/-- A map in its one canonical form. -/
def mwf {α : Type} [DecidableEq α] (d : α) (m : SMap α) : Bool := mwfFrom d 0 m

/-- A memory in its one canonical form: an unlisted byte reads as zero. -/
def Memory.wf (m : Memory) : Bool := mwf (0 : Byte) m

/-- One byte of a memory. -/
def memGet (m : Memory) (a : Nat) : Byte := mget (0 : Byte) m a

/-- Writes one byte of a memory. -/
def memPut (m : Memory) (a : Nat) (b : Byte) : Memory := mput (0 : Byte) m a b

/-- The entry of a key in a map without a default. -/
def oget {α : Type} (m : SMap α) (i : Nat) : Option α := (m.find? fun e => e.1 == i).map (·.2)

/-- Writes a key of a map without a default, keys rising. -/
def oput {α : Type} : SMap α → Nat → α → SMap α
  | [], i, v => [(i, v)]
  | (k, w) :: m, i, v => if i < k then (i, v) :: (k, w) :: m else if i = k then (i, v) :: m else (k, w) :: oput m i v

/-- Drops a key of a map. -/
def odel {α : Type} (m : SMap α) (i : Nat) : SMap α := m.filter fun e => e.1 != i

/-- The lowest number that is no key of a map. -/
def firstFree {α : Type} (m : SMap α) : Nat := m.foldl (fun n e => if e.1 = n then n + 1 else n) 0

/-- `n` bytes of a memory from an address. -/
def memRead (m : Memory) (a n : Nat) : List Byte := (List.range n).map fun i => memGet m (a + i)

/-- Writes bytes to a memory from an address on. -/
def memWrite (m : Memory) (a : Nat) : List Byte → Memory
  | [] => m
  | b :: bs => memWrite (memPut m a b) (a + 1) bs

/-- Drops the entries of an address range, so that it reads as zero. -/
def memClear (m : Memory) (a n : Nat) : Memory := m.filter fun c => decide (c.1 < a) || decide (a + n ≤ c.1)

/-- The `w` bits of `x` from bit `lo` on. -/
def fld (x lo w : Nat) : Nat := x / 2 ^ lo % 2 ^ w

/-- `w` bits read as a two's-complement number. -/
def sext (w x : Nat) : Int := if 2 ^ (w - 1) ≤ x % 2 ^ w then (x % 2 ^ w : Nat) - (2 ^ w : Nat) else (x % 2 ^ w : Nat)

/-- A signed number's code in `w` bits. -/
def ucode (w : Nat) (i : Int) : Nat := (i % (2 ^ w : Nat)).toNat

/-- A Boolean at a bit. -/
def bitAt (b : Bool) (i : Nat) : Nat := if b then 2 ^ i else 0

/-- Little-endian bytes of a number (R5). -/
def toBytes : Nat → Nat → List Byte
  | 0, _ => []
  | n + 1, x => BitVec.ofNat 8 x :: toBytes n (x / 256)

/-- The number that little-endian bytes spell (R5). -/
def ofBytes : List Byte → Nat
  | [] => 0
  | b :: bs => b.toNat + 256 * ofBytes bs

/-- `n` divided by `d`, rounded up. -/
def cdiv (n d : Nat) : Nat := (n + d - 1) / d

/-- One more, saturating at the width of the counter. -/
def satInc {w : Nat} (x : BitVec w) : BitVec w := if x = BitVec.allOnes w then x else x + 1

/-- `n` more, saturating at the width of the counter. -/
def satAdd {w : Nat} (x : BitVec w) (n : Nat) : BitVec w :=
  if 2 ^ w ≤ x.toNat + n then BitVec.allOnes w else x + BitVec.ofNat w n

/-- Adds a number to a rising list without repeats. -/
def setIns (x : Nat) : List Nat → List Nat
  | [] => [x]
  | y :: ys => if x < y then x :: y :: ys else if x = y then y :: ys else y :: setIns x ys

/-- Removes a number from a list. -/
def setDel (x : Nat) (l : List Nat) : List Nat := l.filter (fun y => y != x)

/-- A word with its reserved bits zero (R6). -/
def maskWord (v : Reg64) (mask : Nat) : Reg64 := v &&& BitVec.ofNat 64 mask

/-- The fields of STK_ATT_CFG, and of STK_ATT_TBASE: their other bits are reserved or zero (R6, R287, R288). -/
def attCfgBits : Nat := 0xFF7F7FFFF3F
def attTbaseBits : Nat := 0xFFFFFFFFF0000

/-- Sets bit `i` of a word to a value. -/
def setBit {w : Nat} (x : BitVec w) (i : Nat) (v : Bool) : BitVec w :=
  if v then x ||| BitVec.ofNat w (2 ^ i) else x &&& ~~~ BitVec.ofNat w (2 ^ i)

/-- The list with entry `i` replaced. -/
def listSet {α : Type} : List α → Nat → α → List α
  | [], _, _ => []
  | _ :: l, 0, v => v :: l
  | x :: l, i + 1, v => x :: listSet l i v

/-- The list without entry `i`. -/
def listDrop {α : Type} : List α → Nat → List α
  | [], _ => []
  | _ :: l, 0 => l
  | x :: l, i + 1 => x :: listDrop l i

/-- Cuts a list into pieces of `n` entries; `fuel` bounds the number of pieces. -/
def chunks {α : Type} (n : Nat) : Nat → List α → List (List α)
  | 0, _ => []
  | fuel + 1, l => if l.isEmpty then [] else l.take n :: chunks n fuel (l.drop n)

/-! ### The units of the state -/

/-- A logical tile. -/
def State.tile (s : State) (t : Nat) : Tile := mget Tile.zero s.tiles t
def State.setTile (s : State) (t : Nat) (x : Tile) : State := { s with tiles := mput Tile.zero s.tiles t x }
/-- A region. -/
def State.region (s : State) (r : Nat) : Region := mget Region.zero s.regions r
def State.setRegion (s : State) (r : Nat) (x : Region) : State := { s with regions := mput Region.zero s.regions r x }
/-- A stack with its controller. -/
def State.stack (s : State) (k : Nat) : Stack := mget Stack.zero s.stk k
def State.setStack (s : State) (k : Nat) (x : Stack) : State := { s with stk := mput Stack.zero s.stk k x }
/-- Bank engine `pc` of stack `k`. -/
def State.engine (s : State) (k pc : Nat) : Engine := mget Engine.zero s.engines (k * 64 + pc)
def State.setEngine (s : State) (k pc : Nat) (x : Engine) : State :=
  { s with engines := mput Engine.zero s.engines (k * 64 + pc) x }
/-- A PCIe function: unlisted functions hold their reset values. -/
def State.fn (s : State) (f : Nat) : Fn := mget (Fn.zero f) s.fns f
def State.setFn (s : State) (f : Nat) (x : Fn) : State := { s with fns := mput (Fn.zero f) s.fns f x }
/-- A tombola. -/
def State.tombola (s : State) (d : Nat) : Tombola := mget Tombola.zero s.tomb d
def State.setTombola (s : State) (d : Nat) (x : Tombola) : State := { s with tomb := mput Tombola.zero s.tomb d x }
/-- A Chakar link. -/
def State.link (s : State) (n : Nat) : Link := mget Link.zero s.links n
def State.setLink (s : State) (n : Nat) (x : Link) : State := { s with links := mput Link.zero s.links n x }
/-- A bandstand. -/
def State.band (s : State) (d : Nat) : Bandstand := mget Bandstand.zero s.bands d
def State.setBand (s : State) (d : Nat) (x : Bandstand) : State := { s with bands := mput Bandstand.zero s.bands d x }
/-- A semaphore. -/
def State.sema (s : State) (n : Nat) : Sem := mget Sem.zero s.sem.sems n
def State.setSema (s : State) (n : Nat) (x : Sem) : State :=
  { s with sem := { s.sem with sems := mput Sem.zero s.sem.sems n x } }
/-- A steward core. -/
def State.steward (s : State) (k : Nat) : Steward := mget Steward.zero s.lodge.stewards k
def State.setSteward (s : State) (k : Nat) (x : Steward) : State :=
  { s with lodge := { s.lodge with stewards := mput Steward.zero s.lodge.stewards k x } }
/-- An interrupt source. -/
def State.intSrc (s : State) (n : Nat) : IntSrc := mget IntSrc.zero s.lodge.ints n
def State.setIntSrc (s : State) (n : Nat) (x : IntSrc) : State :=
  { s with lodge := { s.lodge with ints := mput IntSrc.zero s.lodge.ints n x } }

/-- The next free value's number, and the state that has used it. -/
def State.fresh (s : State) : Nat × State := (s.frees, { s with frees := s.frees + 1 })

/-! ### Tiles, regions and units -/

/-- The region of a logical tile (R15). -/
def tileRegion (t : Nat) : Nat := t / 8 / 3 * 2 + t % 8 / 4

/-- The local index of a logical tile (R15). -/
def tileLocal (t : Nat) : Nat := t / 8 % 3 * 4 + t % 8 % 4

/-- The logical tile with a local index in a region (R15). -/
def tileOf (r i : Nat) : Nat := (r / 2 * 3 + i / 4) * 8 + r % 2 * 4 + i % 4

/-- The compute die of a region. -/
def regionDie (r : Nat) : Nat := r / 4

/-- The path class between two regions: 0 the same region, 1 the same die, 2 across the bridge (R18). -/
def pathClass (a b : Nat) : Nat := if a = b then 0 else if regionDie a = regionDie b then 1 else 2

/-- A unit identifier (R24). -/
def unitId (cls idx : Nat) : Nat := cls * 4096 + idx

/-- How many units a class has (R24). -/
def unitCount (cls : Nat) : Nat :=
  match cls with
  | 0 => 104 | 1 => 512 | 2 => 8 | 3 => 8 | 4 => 8 | 5 => 24 | 6 => 2 | 7 => 2 | 8 => 4 | _ => 0

/-- The unit state table entry of a unit after reset (R25). -/
def ustDefault (u : Nat) : UstEntry :=
  let cls := u / 4096
  let i := u % 4096
  let known := i < unitCount cls
  { allowed := if known then (if cls = 0 ∧ i % 13 = 12 then 1 else 2) else 0
    reported := 0, mismatch := false
    logical := if cls = 0 ∧ known then (if i % 13 = 12 then 0x3FF else tileOf (i / 13) (i % 13)) else 0
    unavailable := false, fences := 0, oldAllowed := 0, changedAt := 0, reportedAt := 0, draining := false }

/-- The unit state table entry of a unit (R25). -/
def State.unit (s : State) (u : Nat) : UstEntry := mget (ustDefault u) s.ust u
def State.setUnit (s : State) (u : Nat) (x : UstEntry) : State := { s with ust := mput (ustDefault u) s.ust u x }

/-- The unit identifier of the physical tile that a logical tile is mapped to (R16, R25). -/
def State.physTile (s : State) (t : Nat) : Option Nat :=
  (List.range 13).foldl (fun acc i =>
    let u := unitId 0 (tileRegion t * 13 + i)
    if (s.unit u).logical = t then some u else acc) none

/-! ### Messages to the host, interrupts and reports -/

/-- The number of MSI-X vectors of a function (R464). -/
def vectorCount (f : Nat) : Nat := if f = 0 then 2048 else 64

/-- Appends to what the module has sent. -/
def State.send (s : State) (o : Output) : State := { s with out := o :: s.out }

/-- Whether a function may reach host memory (R475). -/
def State.fnActive (s : State) (f : Nat) : Bool := (s.fn f).enabled && (s.fn f).busMaster

/-- An entry of a function's MSI-X table as it is reset: masked, as PCI Express resets it (log entry 57). -/
def msixReset : BitVec 128 := BitVec.ofNat 128 (2 ^ 96)

/-- Whether a vector of a function is masked. -/
def Fn.masked (x : Fn) (v : Nat) : Bool := (mget msixReset x.msixTable v).getLsbD 96

/-- Sends an MSI-X message; a masked vector sets its pending bit, a vector beyond the table sends nothing;
it follows the function's earlier writes (R294, R480). -/
def State.msix (s : State) (f v : Nat) : State :=
  if vectorCount f ≤ v then s
  else if (s.fn f).masked v then s.setFn f { s.fn f with msixPend := setIns v (s.fn f).msixPend }
  else if !s.fnActive f then s
  else if s.atsWaits.any fun w => decide (w.fn = f) && w.write then
    { s with atsWaits := s.atsWaits ++ [{ fn := f, addr := v, write := true, bs := [], ep := false, req := none }] }
  else s.send (.msix f v)

/-- A field of the payload of a section of the running image (R397, R398). -/
def State.imageField (s : State) (type off n : Nat) : Nat :=
  match s.job.image with
  | some i => (match i.sections.find? (fun x => x.type == type) with
    | some x => ofBytes ((x.payload.drop off).take n)
    | none => 0)
  | none => 0

/-- Whether a serving job is RUNNING (R393, R395). -/
def State.servingRuns (s : State) : Bool :=
  decide (s.job.state = 2) && (match s.job.image with | some i => i.serving | none => false)

/-- A duty ends an operation: its state goes to Lodge memory in two copies, one after the other. What they hold is what State holds of the
duty; each copy is named by the number of the boundary that wrote it (R495; log entry 84). -/
def State.dutyBoundary (s : State) (d : Nat) : State :=
  let n := (mget (0, 0) s.lodge.dutyMem d).1 + 1
  { s with lodge := { s.lodge with dutyMem := mput (0, 0) s.lodge.dutyMem d (n, n) } }

/-- What a reader finds of a duty's state: the first copy, or, where that is uncorrectable, the other one; `lost` has bits 2d and 2d + 1 for
the copies that it cannot read (R495). -/
def State.dutyState (s : State) (d : Nat) (lost : BitVec 16) : Option Nat :=
  let c := mget (0, 0) s.lodge.dutyMem d
  if !lost.getLsbD (2 * d) then some c.1 else if !lost.getLsbD (2 * d + 1) then some c.2 else none

/-- The step-complete bell of the serving job: the step ends here, after its reruns (R38, R341, R398). -/
def State.noteStep (s : State) (src : Nat) : State :=
  if s.servingRuns && s.serving.stepOpen && !s.serving.stepDone && decide (src = s.imageField 0x09 0x0C 2 % 2 ^ 11) then
    { s with serving := { s.serving with stepDone := true, stepEnd := s.time.toNat } }
  else s

/-- An interrupt source fires: COUNT rises, or SAT is set (R502). -/
def State.fireInt (s0 : State) (src : Nat) : State :=
  let s := s0.noteStep src
  let x := s.intSrc src
  s.setIntSrc src (if x.count = 255#8 then { x with sat := true } else { x with count := x.count + 1 })

/-- A bell or doorbell that its source does not accept is dropped and counted (R501). -/
def State.dropBell (s : State) : State := { s with lodge := { s.lodge with drops := satInc s.lodge.drops } }

/-- A status event enters the queue and fires its class's source; on a full queue it is counted in LOST (R505, R521). -/
def State.pushEvent (s : State) (u kind : Nat) : State :=
  if s.lodge.evq.length < 1024 then
    { s with lodge := { s.lodge with evq := s.lodge.evq ++
        [(BitVec.ofNat 16 u, BitVec.ofNat 4 kind, s.time.truncate 32)] } }.fireInt (0x20 + u / 4096)
  else { s with lodge := { s.lodge with evLost := satInc s.lodge.evLost } }

/-- Sets a bit of LDG_HOSTEVT; a change from 0 to 1 sends vector VEC of the physical function (R517, R523). -/
def State.hostEvent (s : State) (bit : Nat) : State :=
  if s.lodge.hostevt.getLsbD bit then s
  else { s with lodge := { s.lodge with hostevt := setBit s.lodge.hostevt bit true } }.msix 0 s.lodge.hostevtVec.toNat

/-- Records an error of a function in its HST_ERR registers and sends ERRVEC when the bit was clear and is not masked
(R486, R490, R491). `detail` is the whole field's contribution to HST_ERR_LAST. -/
def State.hostError (s : State) (f bit code detail : Nat) (job : Bool) : State :=
  let x := s.fn f
  let was := x.errStat.getLsbD bit
  let last := BitVec.ofNat 64 (bit + 1 + 16 * code + (if job then 256 else 0) + detail)
  let s1 := s.setFn f { x with errStat := setBit x.errStat bit true, errLast := last, errCnt := satInc x.errCnt }
  if was || x.errMask.getLsbD bit then s1 else s1.msix f x.errVec.toNat

/-- Detail of an address: bits [63:12] (R491). -/
def detailAddr (a : Nat) : Nat := a / 4096 * 4096

/-- A host read of the Lodge or the ringmaster is refused (R475): DMA is recorded. The command names neither the address nor the cause, so
CODE, 1 to 5, and DETAIL are free values (log entry 25). -/
def State.readRefused (s : State) (f : Nat) : State :=
  let v := s.fresh
  let x := (Config.free64 v.1).toNat
  v.2.hostError f 3 (1 + x % 5) (detailAddr x) false

/-- A register access error of a tile or an engine of the running job, recorded against the job's owner (R7). -/
def State.jobRegError (s : State) (a : Nat) : State := s.hostError s.job.owner 0 0 (detailAddr (a % 2 ^ 56)) true

/-- A unit's report changes, and a status event is raised (R27, R505); the entry keeps when it arrived (R28). -/
def State.report (s : State) (u rep kind : Nat) : State :=
  (s.setUnit u { s.unit u with reported := rep, reportedAt := s.time.toNat }).pushEvent u kind

/-- A logical tile reports (R42, R108). -/
def State.reportTile (s : State) (t rep kind : Nat) : State :=
  match s.physTile t with
  | some u => s.report u rep kind
  | none => s

/-- The Lodge changes a unit's allowed state (R25, R28, R517); units retired in service are kept in non-volatile storage (R555). -/
def State.allow (s : State) (u st : Nat) : State :=
  let x := s.unit u
  let s1 := s.setUnit u { x with allowed := st, oldAllowed := x.allowed, changedAt := s.time.toNat }
  (if st = 5 then { s1 with lodge := { s1.lodge with nvRetired := setIns u s1.lodge.nvRetired } } else s1).hostEvent 0

/-- The Lodge is asked to tear the running job down; the first cause stands (R108, R207, R384, R409). -/
def State.requestTeardown (s : State) (cause : Nat) (tile : Option Nat) : State :=
  if s.job.tearing.isSome ∨ s.job.state = 0 ∨ s.job.state = 5 then s
  else { s with job := { s.job with tearing := some (BitVec.ofNat 4 cause), haltTile := tile } }

/-! ### Device addresses -/

/-- A place in one of the spaces (R19). -/
inductive Loc where
  | stack (a : Nat)
  | region (r off : Nat)
  | spad (t off : Nat)
  | host (a : Nat)
  | reg (a : Nat)
deriving DecidableEq, Repr

/-- Decodes a device address; none for a reserved space code, a non-zero bit where R19 requires zero, or an offset beyond
the populated part of its space (R21). Whether a stack byte is populated is the windows' business (R222). -/
def decodeAddr (a : Nat) : Option Loc :=
  let low := a % 2 ^ 52
  match a / 2 ^ 52 with
  | 0 => some (.stack low)
  | 1 => if low < 2 ^ 27 then some (.region (low / 2 ^ 24) (low % 2 ^ 24)) else none
  | 2 => if low < 2 ^ 33 ∧ low / 2 ^ 23 < 96 ∧ low % 2 ^ 23 < 0x600000
         then some (.spad (low / 2 ^ 23) (low % 2 ^ 23)) else none
  | 3 => some (.host low)
  | 4 => some (.reg low)
  | _ => none

/-- The space code of a device address (R19). -/
def spaceOf (a : Nat) : Nat := a / 2 ^ 52

/-- Pseudo-channels a window covers (R221). -/
def WinRec.width (w : WinRec) : Nat := if w.kind = 0 then 64 else if w.kind = 1 then 512 else 64 * w.scount

/-- The bytes a window covers (R221). -/
def WinRec.bytes (w : WinRec) : Nat := w.npage * w.width * 2048

/-- fold of a granule number (R221). -/
def foldHash (h : Nat) : Nat := (fld h 0 9 ^^^ fld h 9 9) ^^^ fld h 18 9

/-- A byte of a stack: stack, pseudo-channel, page, byte in the page. -/
structure Phys where
  stack : Nat
  pc : Nat
  page : Nat
  byte : Nat
deriving DecidableEq, Repr

/-- Where byte `o` of a window lies (R221). -/
def WinRec.locate (w : WinRec) (o : Nat) : Phys :=
  let g := o / 2048
  let b := o % 2048
  match w.kind with
  | 0 => { stack := w.stack, pc := g % 64, page := w.pbase + g / 64, byte := b }
  | 1 =>
    let h := g / 512
    let c := g % 512 ^^^ foldHash h
    { stack := c / 64, pc := c % 64, page := w.pbase + h, byte := b }
  | _ =>
    let q := g / w.npage
    { stack := w.stack + q / 64, pc := q % 64, page := w.pbase + g % w.npage, byte := b }

/-- The window that contains a stack address (R222). -/
def State.window (s : State) (a : Nat) : Option WinRec :=
  s.job.windows.find? fun w => w.valid && decide (w.base ≤ a) && decide (a < w.base + w.bytes)

/-- Where a stack address lies; none in no valid window (R222). -/
def State.resolve (s : State) (a : Nat) : Option Phys := (s.window a).map fun w => w.locate (a - w.base)

/-- The number of a byte in its stack: pages of a pseudo-channel follow one another, pseudo-channels likewise. -/
def Phys.addr (p : Phys) : Nat := (p.pc * 524288 + p.page) * 2048 + p.byte

/-- The inverse of `Phys.addr` within a stack. -/
def physOf (k a : Nat) : Phys :=
  { stack := k, pc := a / 2048 / 524288, page := a / 2048 % 524288, byte := a % 2048 }

/-- The bytes of remote aperture `n`: 0 where it is not VALID (R445, R461). -/
def State.apertureSize (s : State) (n : Nat) : Nat :=
  if (mget 0 s.lnk.rwinA n).getLsbD 56 then (fld (mget 0 s.lnk.rwinB n).toNat 16 20 + 1) * 4096 else 0

/-- Whether an offset of register space is populated: a remote aperture is so below its SIZE (R445). -/
def State.regPopulated (s : State) (o : Nat) : Bool :=
  if o < 0x1000000000 ∨ 0x1000000000 + 64 * 0x100000000 ≤ o then true
  else
    let x := o - 0x1000000000
    decide (x % 0x100000000 < s.apertureSize (x / 0x100000000))

/-- Whether a device address names a populated byte (R21, R222, R445). -/
def State.populated (s : State) (a : Nat) : Bool :=
  match decodeAddr a with
  | some (.stack x) => (s.window x).isSome
  | some (.reg x) => s.regPopulated x
  | some _ => true
  | none => false

/-- Whether every byte of a device address range is populated. A range of more bytes than `fuel` is tested at the ends of
its spaces and windows only through its first and last byte. -/
def State.populatedRange (s : State) (a n : Nat) : Bool :=
  if n = 0 then true
  else
    match decodeAddr a, decodeAddr (a + n - 1) with
    | some (.region _ _), some (.region _ _) => true
    | some (.spad t _), some (.spad t' _) => decide (t = t')
    | some (.host _), some (.host _) => true
    | some (.reg x), some (.reg y) => s.regPopulated x && s.regPopulated y
    | some (.stack x), some (.stack y) =>
      -- windows cover runs of addresses: walk from window to window
      (s.job.windows.foldl (fun (acc : Nat) _ =>
        match s.window acc with
        | some w => w.base + w.bytes
        | none => acc) x) > y
    | _, _ => false

/-- The lowest byte of a range that is not populated, or its first byte (R110). -/
def State.firstBad (s : State) (a n : Nat) : Nat :=
  match decodeAddr a with
  | none => a
  | some (.stack x) =>
    (s.job.windows.foldl (fun (acc : Nat) _ =>
      match s.window acc with
      | some w => w.base + w.bytes
      | none => acc) x)
  | some (.region _ _) => if s.populatedRange a n then a else 2 ^ 52 + 2 ^ 27
  | some (.spad t _) => if s.populatedRange a n then a else 2 * 2 ^ 52 + t * 2 ^ 23 + 0x600000
  | some (.host _) => if s.populatedRange a n then a else 4 * 2 ^ 52
  | some (.reg x) => if s.populatedRange a n ∨ !s.regPopulated x then a
    else if 2 ^ 52 ≤ x + n then 5 * 2 ^ 52 else a - x % 0x100000000 + s.apertureSize ((x - 0x1000000000) / 0x100000000)

/-! ### Scratchpad and region memory -/

/-- The aligned 64-byte granules that a byte range touches. -/
def granulesOf (a n : Nat) : List Nat := if n = 0 then [] else (List.range ((a + n - 1) / 64 - a / 64 + 1)).map (· + a / 64)

/-- The poison bits after a write (R241): poisoned data sets the bits of its granules, whole granules clear theirs. -/
def poisonWrite (l : List Nat) (a n : Nat) (p : Bool) : List Nat :=
  (granulesOf a n).foldl (fun acc g =>
    if p then setIns g acc
    else if a ≤ g * 64 ∧ g * 64 + 64 ≤ a + n then setDel g acc else acc) l

/-- Whether a byte range touches a poisoned granule (R241). -/
def poisonRead (l : List Nat) (a n : Nat) : Bool := (granulesOf a n).any fun g => l.contains g

/-- A byte with some of its bits replaced. -/
def maskByte (old new mask : Byte) : Byte := (old &&& ~~~ mask) ||| (new &&& mask)

/-- Merges masked bytes over the bytes of a memory. -/
def maskBytes (m : Memory) (a : Nat) (mask : Byte) : List Byte → List Byte
  | [] => []
  | b :: bs => maskByte (memGet m a) b mask :: maskBytes m (a + 1) mask bs

/-- Whether two undo records are of one place. -/
def UndoRec.same (r q : UndoRec) : Bool :=
  match r, q with
  | .spad a _, .spad b _ => decide (a = b)
  | .spadPoison a _, .spadPoison b _ => decide (a = b)
  | .acc a _, .acc b _ => decide (a = b)
  | .accPoison a _, .accPoison b _ => decide (a = b)
  | .buf a _, .buf b _ => a == b
  | .curve a _, .curve b _ => decide (a = b)
  | .cache _ _, .cache _ _ => true
  | _, _ => false

/-- The bytes that a window's records of a place count already, in every undo log. -/
def undoHad (owner : Nat) (r : UndoRec) (ws : List Window) : Nat :=
  ws.foldl (fun n w => w.undo.foldl (fun k e => if e.owner = owner ∧ e.what.same r = true then k + e.bytes else k) n) 0

/-- Exchanges the first record of a place, oldest first, for the newly written contents; the record taken out. -/
def takeOld (r new : UndoRec) : List UndoEnt → List UndoEnt × Option UndoRec
  | [] => ([], none)
  | e :: l =>
    if e.what.same r then ({ e with what := new } :: l, some e.what)
    else
      let x := takeOld r new l
      (e :: x.1, x.2)

/-- Exchanges the record of a place in the first window that has one. -/
def takeLater (r new : UndoRec) : List Window → List Window × Option UndoRec
  | [] => ([], none)
  | w :: ws =>
    let x := takeOld r new w.undo.reverse
    match x.2 with
    | some old => ({ w with undo := x.1.reverse } :: ws, some old)
    | none =>
      let y := takeLater r new ws
      (w :: y.1, y.2)

/-- Records the old contents of a place in the undo log of window `epoch`, which was the newest when the write was made. Where
a later window's log holds the place already, that record holds what stood there before both: it goes to the earlier log, and
the later one's old contents become the new ones; a place that its owner wrote last needs no second record (R91, R95, R97). -/
def noteUndo (epoch : Nat) (e : UndoEnt) (new : UndoRec) : List Window → List Window
  | [] => []
  | w :: ws =>
    if w.id < epoch then w :: noteUndo epoch e new ws
    else if w.id = epoch then
      let x := takeLater e.what new ws
      let again := decide (e.bytes = 0) && (w.undo.find? fun y => y.what.same e.what).any fun y => decide (y.owner = e.owner)
      (if again then w else { w with undo := { e with what := x.2.getD e.what } :: w.undo }) :: x.1
    else (takeLater e.what new (w :: ws)).1

/-- Records the old contents `r` of a place that a bundle of window `owner` writes (R91): the place counts once for its owner,
with the most bytes that the owner writes there. A window that is never rolled back records nothing (R613). -/
def Tile.logUndo (t : Tile) (epoch owner : Nat) (r new : UndoRec) (bytes : Nat) : Tile :=
  if t.windows.any fun w => w.solo && decide (w.id = owner) then t
  else { t with windows := noteUndo epoch { bytes := bytes - undoHad owner r t.windows, owner := owner, what := r } new t.windows }

/-- The newest window's number. -/
def Tile.newest (t : Tile) : Nat := (t.windows.getLast?.map (·.id)).getD 0

/-- Records the scalar read cache in the undo log of the newest window (R93). -/
def Tile.logCache (t : Tile) : Tile :=
  let r := UndoRec.cache t.cache t.cacheOrder
  t.logUndo t.newest t.newest r r 0

/-- A write of window `owner`, made while `epoch` was the newest, to the tile's own scratchpad: the undo log keeps the old bytes
and poison bits (R91, R93). -/
def Tile.spadWrite (t : Tile) (epoch owner a : Nat) (bs : List Byte) (p : Bool) : Tile :=
  let after := poisonWrite t.spadPoison a bs.length p
  let t1 := (List.range bs.length).foldl (fun acc i =>
    acc.logUndo epoch owner (.spad (a + i) (memGet t.spad (a + i))) (.spad (a + i) (bs.getD i 0)) 1) t
  let t2 := (granulesOf a bs.length).foldl (fun acc g =>
    acc.logUndo epoch owner (.spadPoison g (t.spadPoison.contains g)) (.spadPoison g (after.contains g)) 0) t1
  { t2 with spad := memWrite t.spad a bs, spadPoison := after }

/-- An undo record after another party's write over its place (R96). -/
def UndoRec.overwrite (a : Nat) (bs : List Byte) (mask : Byte) (p : Bool) (r : UndoRec) : UndoRec :=
  match r with
  | .spad x old => if a ≤ x ∧ x < a + bs.length then .spad x (maskByte old (bs.getD (x - a) 0) mask) else r
  | .spadPoison g was => .spadPoison g ((poisonWrite (if was then [g] else []) a bs.length p).contains g)
  | _ => r

/-- A window whose undo records are all changed. -/
def Window.mapUndo (w : Window) (f : UndoRec → UndoRec) : Window :=
  { w with undo := w.undo.map fun e => { e with what := f e.what } }

/-- A write of another party into the masked bits of the scratchpad: applied at once and over the undo logs (R96). -/
def Tile.remoteWrite (t : Tile) (a : Nat) (bs : List Byte) (mask : Byte) (p : Bool) : Tile :=
  { t with windows := t.windows.map fun w => w.mapUndo (UndoRec.overwrite a bs mask p)
           spad := memWrite t.spad a (maskBytes t.spad a mask bs)
           spadPoison := poisonWrite t.spadPoison a bs.length p }

/-- Whether a window is unconfirmed. -/
def Tile.unconfirmed (t : Tile) (id : Nat) : Bool := t.windows.any fun w => decide (w.id = id)

/-- The record of a place that holds what a party outside the tile sees: the first one behind the last write of a confirmed
window. -/
def Tile.hiding (t : Tile) (r : UndoRec) : Option UndoRec :=
  t.windows.foldl (fun acc w =>
    w.undo.reverse.foldl (fun x e =>
      if e.what.same r then (if t.unconfirmed e.owner then (match x with | some y => some y | none => some e.what) else none)
      else x) acc) none

/-- Writes one undo record back (R97). -/
def Tile.undoOne (t : Tile) (r : UndoRec) : Tile :=
  match r with
  | .spad a old => { t with spad := memPut t.spad a old }
  | .spadPoison g was => { t with spadPoison := if was then setIns g t.spadPoison else setDel g t.spadPoison }
  | .acc i old => { t with acc := mput 0 t.acc i old }
  | .accPoison i was => { t with accPoison := if was then setIns i t.accPoison else setDel i t.accPoison }
  | .buf b old => if b then { t with buf1 := old } else { t with buf0 := old }
  | .curve i old => { t with curve := mput [] t.curve i old }
  | .cache old order => { t with cache := old, cacheOrder := order }

/-- The tile without the writes that unconfirmed windows have made: each place holds what a party outside the tile sees (R95, R111). -/
def Tile.withoutOpen (t : Tile) : Tile :=
  t.windows.foldl (fun x w => w.undo.foldl (fun y e => match t.hiding e.what with | some r => y.undoOne r | none => y) x) t

/-- Whether a halt is one of the tile's own checks, after which the effects of every earlier bundle stand (R106): classes 0x1,
0x3 and 0x6, and code 0x20. -/
def HaltRec.precise (h : HaltRec) : Bool :=
  let c := h.reason.toNat
  decide (c / 16 = 1) || decide (c / 16 = 3) || decide (c / 16 = 6) || decide (c = 0x20)

/-- The byte of a scratchpad that a party outside the tile sees (R95): the undo record that hides it, else the byte. After a
precise halt nothing is hidden (R106, R108). -/
def Tile.outsideByte (t : Tile) (a : Nat) : Byte :=
  if t.halt.precise then memGet t.spad a
  else match t.hiding (.spad a 0) with
  | some (.spad _ b) => b
  | _ => memGet t.spad a

/-- Whether a party outside the tile sees the poison bit of the granule of a byte (R95, R241). -/
def Tile.outsidePoison (t : Tile) (a : Nat) : Bool :=
  if t.halt.precise then t.spadPoison.contains (a / 64)
  else match t.hiding (.spadPoison (a / 64) false) with
  | some (.spadPoison _ p) => p
  | _ => t.spadPoison.contains (a / 64)

/-- Bytes of a scratchpad as a party outside the tile sees them. -/
def Tile.outsideRead (t : Tile) (a n : Nat) : List Byte := (List.range n).map fun i => t.outsideByte (a + i)

/-- A write to region memory. -/
def Region.write (r : Region) (a : Nat) (bs : List Byte) (p : Bool) : Region :=
  { r with mem := memWrite r.mem a bs, poison := poisonWrite r.poison a bs.length p }

/-- The TAG that RGN_HDMA_STAT shows: of the running command, else of the last completed one (R492). -/
def Region.hdmaShown (r : Region) : Nat :=
  match r.hdmaQ with
  | c :: _ => if r.hdmaRun then fld c.item.toNat 224 32 else r.hdmaTag.toNat
  | [] => r.hdmaTag.toNat

/-- An awake host-DMA engine takes up the command at the head of its queue (R478, R492). -/
def Region.hdmaGo (r : Region) : Region :=
  match r.hdmaQ with
  | _ :: _ => if r.hdmaSleep = .awake ∧ !r.hdmaRun then { r with hdmaRun := true, hdmaAsked := false, hdmaDenied := none } else r
  | [] => { r with hdmaRun := false }

/-- Whether a tile is a party of a job and running: active, awake, not halted. -/
def Tile.runs (t : Tile) : Bool := t.active && decide (t.sleep = .awake) && decide (t.halt.reason = 0#8)

/-- An arrival counter at job start (R305). -/
def ArrCnt.zero : ArrCnt := { count := 0, wrap := false }

/-- An arrival counter rises by delivered bytes, modulo 2^32 (R304, R305). -/
def Tile.countArrival (t : Tile) (ac n : Nat) : Tile :=
  let c := mget ArrCnt.zero t.ac ac
  let v := c.count.toNat + n
  let c1 : ArrCnt := { count := BitVec.ofNat 32 v, wrap := c.wrap || decide (2 ^ 32 ≤ v) }
  { t with ac := mput ArrCnt.zero t.ac ac c1 }

/-- The value of an arrival counter. -/
def Tile.arrival (t : Tile) (ac : Nat) : BitVec 32 := (mget ArrCnt.zero t.ac ac).count

/-- The threshold signals held at a tile whose counters have reached their thresholds leave for the semaphore unit, in the
order they arrived; a signal waiting at the port takes a free place (R306, R307). -/
def State.passThresholds (s : State) (t : Nat) : State :=
  let x := s.tile t
  let go := x.thr.filter fun h => decide (h.thr.toNat ≤ (x.arrival h.ac).toNat)
  let stay := x.thr.filter fun h => !decide (h.thr.toNat ≤ (x.arrival h.ac).toNat)
  let msgs := go.map fun h => SemMsg.signal h.src h.party h.scope h.sem h.amount h.effId
  let s1 := s.setTile t { x with thr := stay }
  { s1 with sem := { s1.sem with net := s1.sem.net ++ msgs } }

/-- Counted bytes arrive at a tile (R304) and may release threshold signals (R306). -/
def State.arrive (s : State) (t ac n : Nat) : State := (s.setTile t ((s.tile t).countArrival ac n)).passThresholds t

/-- A sleeping tile begins to wake on traffic addressed to it (R32). -/
def State.wakeTile (s : State) (t : Nat) : State :=
  let x := s.tile t
  if x.sleep = .asleep then s.setTile t { x with sleep := .waking } else s

/-- An ordinary access as it leaves its requester. -/
def StkAcc.fresh (addr : Nat) (kind : AccKind) (src : AccSrc) : StkAcc :=
  { addr := addr, kind := kind, src := src, reached := none, tries := 0, cause := 0, retryAt := 0 }

/-- Sends an ordinary access towards the controller of a byte (R203). -/
def State.sendAccess (s : State) (p : Phys) (kind : AccKind) (src : AccSrc) : State :=
  let k := s.stack p.stack
  s.setStack p.stack { k with inflight := k.inflight ++ [StkAcc.fresh p.addr kind src] }

/-- The cycle at which a walk has written its last record. -/
def WalkRun.done (w : WalkRun) : Nat := (w.parts.getLast?.map (·.1)).getD w.start

/-- The bundle that a released effect of a tile comes from. -/
def Tile.originOf (t : Tile) (effId : Nat) : Origin :=
  match t.flying.find? (fun f => f.id == effId) with
  | some f => f.origin
  | none => { stream := .A, pc := 0 }

/-- The sender of a granule that another module's WRITE packet brought (log entry 32). -/
def peerSender : Nat := 1000

/-- The versions that the module supports of each of its five interfaces, bit v for version v (R10). -/
def supportedSet : BitVec 16 := 0x0002#16

/-- The highest version in an offered set that the module supports too, 0 where there is none (R11, R12). -/
def bestVersion (offer : BitVec 16) : BitVec 8 :=
  (List.range 16).foldl (fun v i => if (offer &&& supportedSet).getLsbD i then BitVec.ofNat 8 i else v) 0

/-- A unit's refusal of an operation, on its way to the tile (R107, R109): its halting bundle is the one that the operation comes from. -/
def Tile.refuse (t : Tile) (reason : Nat) (o : Origin) (detail : Nat) : Tile :=
  { t with refusals := t.refusals ++ [{ reason := BitVec.ofNat 8 reason, streamE := o.stream == .E, pc := BitVec.ofNat 23 o.pc
                                        detail := BitVec.ofNat 32 detail }] }

/-- An effect of a tile has been performed; the tile learns of it by the acknowledgement (R293, R298). -/
def State.landed (s : State) (t effId : Nat) : State :=
  let x := s.tile t
  s.setTile t { x with flying := x.flying.map fun f => if f.id = effId then { f with performed := true } else f }

end Sys2Proof.Machine
end

