-- ==== Sys2Proof/Machine/Flits.lean ====
section
/-! DEFINITION. What Chakar lanes carry, bit by bit: training blocks, flits with their CRC, negotiation flits and packets
(R425, R430, R434, R436, R437, R440). -/

namespace Sys2Proof.Machine

/-! ### Training blocks (R425) -/

/-- The bits of a field as a block sends them, bit 0 first. -/
def bitsUp (n x : Nat) : List Bool := (List.range n).map x.testBit

/-- The SYNC field, sent from its most significant bit. -/
def syncBits : List Bool := (bitsUp 64 0xD2B46E19A5F03C87).reverse

/-- CRC-8 with polynomial x^8 + x^2 + x + 1 over bits in the order sent. -/
def crc8 (bs : List Bool) : Nat :=
  bs.foldl (fun c b => if (c.testBit 7 != b) then (c * 2 % 256) ^^^ 7 else c * 2 % 256) 0

/-- `n` bits of PRBS13 from a register of 13 bits, the oldest first (x^13 + x^12 + x^2 + x + 1). -/
def prbs13 : Nat → List Bool → List Bool
  | 0, _ => []
  | n + 1, r =>
    let b := (r.getD 0 false != r.getD 1 false) != (r.getD 11 false != r.getD 12 false)
    r.getD 0 false :: prbs13 n (r.drop 1 ++ [b])

/-- The bits 64 to 79 of a lane's block: LANEID and NLANEID. -/
def laneIdBits (lane : Nat) : List Bool := bitsUp 8 lane ++ bitsUp 8 (255 - lane)

/-- The 256 bits of the block that a lane sends in a training state (log entry 76: fields after SYNC go out from bit 0). -/
def trainBits (lane st : Nat) : List Bool :=
  syncBits ++ laneIdBits lane ++ bitsUp 8 (crc8 (laneIdBits lane)) ++ bitsUp 4 st ++ prbs13 164 (List.replicate 13 true)

/-- Gray code: the level of two bits, the first the more significant. -/
def grayLevel (a b : Bool) : Nat := if a then (if b then 2 else 3) else (if b then 1 else 0)

/-- The two bits of a level. -/
def levelBits (l : Nat) : Bool × Bool := (decide (2 ≤ l), decide (l = 1) || decide (l = 2))

/-- The 128 levels of 256 bits, two bits a level, the first symbol lowest. -/
def toLevels : List Bool → Nat
  | a :: b :: l => grayLevel a b + 4 * toLevels l
  | _ => 0

/-- The block that a lane sends, as its 128 PAM4 levels. -/
def trainBlock (lane st : Nat) : BitVec 256 := BitVec.ofNat 256 (toLevels (trainBits lane st))

/-- What link n sends on a transmit lane besides flits: training blocks outside ACTIVE, the idle pattern of STATE 5 on the spare lane of
an ACTIVE link, nothing from idle transmitters (R423, R425, R427). -/
def Link.laneSends (x : Link) (lane : Nat) : Option (BitVec 256) :=
  if x.state = 0 ∨ x.state = 7 then none
  else if x.state = 5 then (if x.spare = lane then some (trainBlock lane 5) else none)
  else some (trainBlock lane x.state)

/-- The bits of a received block, in a polarity: an inverted lane complements the first bit of every symbol. -/
def blockBits (inv : Bool) (b : BitVec 256) : List Bool :=
  (List.range 128).flatMap fun i =>
    let x := levelBits (fld b.toNat (2 * i) 2)
    [x.1 != inv, x.2]

/-- Three blocks in a row satisfy a test. -/
def threeRun (p : BitVec 256 → Bool) : List (BitVec 256) → Bool
  | a :: b :: c :: l => (p a && p b && p c) || threeRun p (b :: c :: l)
  | _ => false

/-- SYNC stands at the block's start, in a polarity. -/
def hasSync (inv : Bool) (b : BitVec 256) : Bool := (blockBits inv b).take 64 == syncBits

/-- The lane is inverted: SYNC in three consecutive blocks with the first bit of its symbols complemented. -/
def LaneObs.inverted (o : LaneObs) : Bool := threeRun (hasSync true) o.blocks && !threeRun (hasSync false) o.blocks

/-- The lane locks: SYNC at one block position in three consecutive blocks, in either polarity. -/
def LaneObs.locked (o : LaneObs) : Bool := threeRun (hasSync false) o.blocks || threeRun (hasSync true) o.blocks

/-- The lane ID of one block, where it is valid. -/
def blockId (inv : Bool) (b : BitVec 256) : Option Nat :=
  let bits := blockBits inv b
  (List.range 5).find? fun i =>
    (bits.drop 64).take 16 == laneIdBits i && (bits.drop 80).take 8 == bitsUp 8 (crc8 (laneIdBits i))

/-- Two consecutive blocks agree on a valid ID. -/
def pairId (inv : Bool) : List (BitVec 256) → Option Nat
  | a :: b :: l => if (blockId inv a).isSome && blockId inv a == blockId inv b then blockId inv a else pairId inv (b :: l)
  | _ => none

/-- The lane ID that a receive lane finds. -/
def LaneObs.id (o : LaneObs) : Option Nat := pairId (LaneObs.inverted o) o.blocks

/-! ### Checksums and flits (R357, R396, R434, R436, R437) -/

/-- CRC-32C, one byte more. -/
def crc32cByte (c : BitVec 32) (b : Byte) : BitVec 32 :=
  (List.range 8).foldl (fun x _ => if x.getLsbD 0 then (x >>> 1) ^^^ 0x82F63B78#32 else x >>> 1) (c ^^^ b.setWidth 32)

/-- CRC-32C of bytes (R357, R396). -/
def crc32c (bs : List Byte) : BitVec 32 := ~~~ bs.foldl crc32cByte 0xFFFFFFFF#32

/-- The CRC of R437, one byte more: ECMA-182, reflected. -/
def crc64Byte (c : BitVec 64) (b : Byte) : BitVec 64 :=
  (List.range 8).foldl (fun x _ => if x.getLsbD 0 then (x >>> 1) ^^^ 0xC96C5795D7870F42#64 else x >>> 1) (c ^^^ b.setWidth 64)

/-- CRC-64 of bytes (R437). -/
def crc64 (bs : List Byte) : BitVec 64 := ~~~ bs.foldl crc64Byte 0xFFFFFFFFFFFFFFFF#64

/-- The header of a flit (R434), and the 240 bytes of its slots. `crcOk`: the last eight bytes are the CRC of the others. -/
structure Flit where
  crcOk : Bool
  seq : BitVec 12
  ack : BitVec 12
  nak : Bool
  null : Bool
  cvc : BitVec 2
  cred : BitVec 12
  swLane : BitVec 3
  swap : Bool
  neg : Bool
  slots : List Byte
deriving DecidableEq, Repr

/-- A flit of 256 bytes as the CRC check and the header leave it. -/
def parseFlit (bits : BitVec 2048) : Flit :=
  let bs := toBytes 256 bits.toNat
  let h := ofBytes (bs.take 8)
  { crcOk := decide (crc64 (bs.take 248) = BitVec.ofNat 64 (ofBytes (bs.drop 248))), seq := BitVec.ofNat 12 h, ack := BitVec.ofNat 12 (h / 2 ^ 12)
    nak := h.testBit 24, null := h.testBit 25, cvc := BitVec.ofNat 2 (h / 2 ^ 26), cred := BitVec.ofNat 12 (h / 2 ^ 28)
    swLane := BitVec.ofNat 3 (h / 2 ^ 40), swap := h.testBit 43, neg := h.testBit 44, slots := (bs.drop 8).take 240 }

/-- The header of a flit. -/
def Flit.header (f : Flit) : Nat :=
  f.seq.toNat + f.ack.toNat * 2 ^ 12 + bitAt f.nak 24 + bitAt f.null 25 + f.cvc.toNat * 2 ^ 26 + f.cred.toNat * 2 ^ 28 +
    f.swLane.toNat * 2 ^ 40 + bitAt f.swap 43 + bitAt f.neg 44

/-- The 256 bytes of a flit, slots filled up with zeros, the CRC at the end (R434, R437). -/
def Flit.encode (f : Flit) : BitVec 2048 :=
  let body := toBytes 8 (Flit.header f) ++ (f.slots ++ List.replicate 240 0).take 240
  BitVec.ofNat 2048 (ofBytes (body ++ toBytes 8 (crc64 body).toNat))

/-- A flit of a sequence number and an acknowledgement, with nothing else set. -/
def Flit.plain (seq ack : BitVec 12) : Flit :=
  { crcOk := true, seq := seq, ack := ack, nak := false, null := false, cvc := 0, cred := 0, swLane := 0, swap := false, neg := false
    slots := [] }

/-- Which data lane of a direction byte k of the flit stream goes to, by width: lanes in the order of their IDs (R436). -/
def stripeLane (width k : Nat) : Nat := if width = 1 then k % 2 else k % 4

/-! ### Negotiation flits (R430) -/

/-- The fields of a NEG flit, from the bytes of its slots. -/
def parseNeg (f : Flit) : NegFlit :=
  let g (o n : Nat) : Nat := ofBytes ((f.slots.drop o).take n)
  { node := BitVec.ofNat 12 (g 0 2), supp := BitVec.ofNat 16 (g 2 2), creq := BitVec.ofNat 16 (g 4 2), crsp := BitVec.ofNat 16 (g 6 2)
    ccoll := BitVec.ofNat 16 (g 8 2), width := BitVec.ofNat 2 (g 10 1), seen := (g 11 1).testBit 0 }

/-- The bytes of a NEG flit's fields. -/
def negBytes (f : NegFlit) : List Byte :=
  toBytes 2 f.node.toNat ++ toBytes 2 f.supp.toNat ++ toBytes 2 f.creq.toNat ++ toBytes 2 f.crsp.toNat ++ toBytes 2 f.ccoll.toNat ++
    toBytes 1 f.width.toNat ++ toBytes 1 (bitAt f.seen 0)

/-! ### Packets (R440) -/

/-- Slots of a packet: its header, the extra header of a RESENT packet, and its data (R440, R442). -/
def Packet.slots (p : Packet) : Nat := 1 + (if p.resent then 1 else 0) + cdiv p.data.length 16

/-- Flits of a packet; the module starts each packet in a flit of its own (log entry 42). -/
def Packet.flits (p : Packet) : Nat := cdiv (Packet.slots p) 15

/-- A header slot with its TAG and ADDR. -/
def Packet.header (p : Packet) (tag addr : Nat) : Nat :=
  p.type.toNat + bitAt p.resent 4 + p.hops.toNat * 2 ^ 5 + p.dst.toNat * 2 ^ 8 + p.src.toNat * 2 ^ 20 + p.bytes.toNat * 2 ^ 32 +
    p.acid.toNat * 2 ^ 40 + bitAt p.ac 46 + tag * 2 ^ 48 + addr * 2 ^ 68 + p.code.toNat * 2 ^ 124

/-- The bytes of a packet's slots: header, for a RESENT packet the extra header with the original link number and SEQ in place of TAG and
ADDR[43:0], and the data (R440, R442). -/
def Packet.bytesOut (p : Packet) : List Byte :=
  let extra := if p.resent then toBytes 16 (Packet.header p p.origLink.toNat (p.addr.toNat / 2 ^ 44 * 2 ^ 44 + p.origSeq.toNat)) else []
  toBytes 16 (Packet.header p p.tag.toNat p.addr.toNat) ++ extra ++ p.data ++ List.replicate (cdiv p.data.length 16 * 16 - p.data.length) 0

/-- The flits of a packet whose first one has number `seq` (R434). -/
def Packet.flitsOut (p : Packet) (seq ack : BitVec 12) : List (BitVec 12 × BitVec 2048) :=
  (chunks 240 (Packet.flits p) (Packet.bytesOut p)).mapIdx fun i bs =>
    let n := seq + BitVec.ofNat 12 i
    (n, Flit.encode { Flit.plain n ack with slots := bs })

end Sys2Proof.Machine
end

