-- ==== Sys2Proof/Machine/LinkTx.lean ====
section
/-! DEFINITION. How packets leave the module: routes, virtual channels, credits and the replay buffer (R432 to R440). -/

namespace Sys2Proof.Machine

/-- The virtual channel of a packet (R439). -/
def Packet.vc (p : Packet) : Nat := if p.type = 3#4 ∨ p.type = 4#4 then 1 else if p.type = 5#4 then 2 else 0

/-- Flits in the replay buffer. -/
def Link.buffered (x : Link) : Nat := x.buffer.foldl (fun n e => n + Packet.flits e.2.1) 0

/-- Whether a link can take a packet now: ACTIVE, with credits, with room in the replay buffer, and not beyond 127 flits without a
null flit (R428, R438, R439). -/
def Link.canSend (x : Link) (p : Packet) : Bool :=
  decide (x.state = 5) && decide (Packet.slots p ≤ x.credits.getD (Packet.vc p) 0) && decide (x.nullGap + Packet.flits p ≤ 127) &&
    decide (x.buffered + Packet.flits p ≤ 1024)

/-- Flits leave a link. -/
def State.sendFlits (s : State) (n : Nat) (l : List (BitVec 12 × BitVec 2048)) : State := l.foldl (fun acc f => acc.send (.flit n f.2)) s

/-- Sends a packet: its flits take the next sequence numbers, and it stays in the replay buffer (R438). -/
def State.transmit (s : State) (n : Nat) (p : Packet) : State :=
  let x := s.link n
  let seq := x.txSeq + BitVec.ofNat 12 (Packet.flits p)
  let vc := Packet.vc p
  let y : Link := { x with txSeq := seq, nullGap := x.nullGap + Packet.flits p, buffer := x.buffer ++ [(seq - 1, p, 0)]
                           credits := listSet x.credits vc (x.credits.getD vc 0 - Packet.slots p) }
  (s.setLink n y).sendFlits n (Packet.flitsOut p x.txSeq (x.rxSeq - 1))

/-- Sends what a link's queue holds, in order within each virtual channel. -/
def State.drainLink (s : State) (n : Nat) : State :=
  let q := (s.link n).txq
  let r := q.foldl (fun (acc : State × List Nat) p =>
    if !acc.2.contains (Packet.vc p) && (acc.1.link n).canSend p then (acc.1.transmit n p, acc.2)
    else (acc.1.setLink n { acc.1.link n with txq := (acc.1.link n).txq ++ [p] }, Packet.vc p :: acc.2))
    (s.setLink n { s.link n with txq := [] }, [])
  r.1

/-- Packets join a link's queue. -/
def State.queueOn (s : State) (n : Nat) (ps : List Packet) : State :=
  (s.setLink n { s.link n with txq := (s.link n).txq ++ ps }).drainLink n

/-- The route toward a node: none where it is not VALID, else its ACTIVE links in ascending order (R432, R433). -/
def State.routeTo (s : State) (dst : Nat) : Option (List Nat) :=
  let w := (mget 0 s.lnk.route dst).toNat
  if w.testBit 32 then some ((List.range 24).filter fun n => w.testBit n && decide ((s.link n).state = 5)) else none

/-- The number that chooses among a route's links (R433, R454); for responses the node alone (log entry 42). -/
def Packet.hash (p : Packet) : Nat :=
  let a := p.addr.toNat
  match p.type.toNat with
  | 1 => p.dst.toNat ^^^ fld a 8 12 ^^^ fld a 20 12
  | 2 => p.dst.toNat ^^^ ofBytes ((p.data.drop 8).take 2)
  | 5 => fld a 0 32 ^^^ p.tag.toNat
  | _ => p.dst.toNat

/-- Whether a packet toward a node has not been acknowledged at link level. -/
def State.unacked (s : State) (dst : BitVec 12) : Bool :=
  (List.range 24).any fun n => (s.link n).buffer.any (fun e => e.2.1.dst == dst) || (s.link n).txq.any (fun p => p.dst == dst) ||
    (s.link n).held.any (fun p => p.dst == dst)

/-- The links of a list as a mask. -/
def linkMask (l : List Nat) : Nat := l.foldl (fun m n => m ||| 2 ^ n) 0

/-- A remote effect has been performed or refused for good: its tile learns of it (R298, R448, R449). -/
def State.remoteDone (s : State) (tag : Nat) : State :=
  match oget s.lnk.remote tag with
  | some r => ({ s with lnk := { s.lnk with remote := odel s.lnk.remote tag } }).landed r.1 r.2.1
  | none => s

/-- A response: ACK (3) or REFUSE (4) toward a node (R440). -/
def State.reply (s : State) (type dst tag code : Nat) : Packet :=
  { type := BitVec.ofNat 4 type, resent := false, hops := 0, dst := BitVec.ofNat 12 dst, src := s.lnk.node, bytes := 0, acid := 0
    ac := false, tag := BitVec.ofNat 20 tag, addr := 0, code := BitVec.ofNat 4 code, origLink := 0, origSeq := 0, data := [] }

/-- A packet without a valid route is refused with CODE 5 (R432, R460): an own effect counts as performed, a forwarded request is
refused to its source. -/
def State.noRoute (s : State) (p : Packet) : State :=
  if p.type ≠ 1#4 ∧ p.type ≠ 2#4 then s
  else if p.src = s.lnk.node then s.remoteDone p.tag.toNat
  else { s with lnk := { s.lnk with wait := s.lnk.wait ++ [s.reply 4 p.src.toNat p.tag.toNat 5] } }

/-- One pass over the packets that wait for a link: a packet waits behind earlier ones to its node, for an ACTIVE link, and, where
the set of links has changed, for every earlier packet to be acknowledged (R433). -/
def State.passWait (s : State) : State :=
  s.lnk.wait.foldl (fun acc p =>
    let stay : State := { acc with lnk := { acc.lnk with wait := acc.lnk.wait ++ [p] } }
    if acc.lnk.wait.any fun q => q.dst == p.dst && decide (Packet.vc q = Packet.vc p) then stay
    else match acc.routeTo p.dst.toNat with
      | none => acc.noRoute p
      | some [] => stay
      | some links =>
        let m := linkMask links
        if mget 0 acc.lnk.lastSet p.dst.toNat ≠ m ∧ acc.unacked p.dst then stay
        else
          let n := links.getD (Packet.hash p % links.length) 0
          let s1 := { acc with lnk := { acc.lnk with lastSet := mput 0 acc.lnk.lastSet p.dst.toNat m } }
          s1.queueOn n [p]) { s with lnk := { s.lnk with wait := [] } }

/-- Sends what waits; refusals that this makes go out in a second pass. -/
def State.drainWait (s : State) : State := s.passWait.passWait

/-- A packet leaves the module's units for the links. -/
def State.sendPacket (s : State) (p : Packet) : State :=
  ({ s with lnk := { s.lnk with wait := s.lnk.wait ++ [p] } }).drainWait

/-- A new request packet of an own effect: its TAG is remembered until the ACK or REFUSE (R440, R448, R449). -/
def State.sendRemote (s : State) (p : Packet) (tile effId sem : Nat) : State :=
  let tag := s.lnk.nextTag
  ({ s with lnk := { s.lnk with nextTag := (tag + 1) % 2 ^ 20, remote := oput s.lnk.remote tag (tile, effId, sem) } }).sendPacket
    { p with tag := BitVec.ofNat 20 tag, src := s.lnk.node }

/-! ### Leaving ACTIVE (R442, R443) -/

/-- A packet as it is sent again: its link and the SEQ of its last flit go in the extra header slot (R442). -/
def Packet.again (p : Packet) (n : Nat) (last : BitVec 12) : Packet :=
  { p with resent := true, origLink := BitVec.ofNat 5 n, origSeq := last }

/-- Another ACTIVE link to a neighbour. -/
def State.otherLink (s : State) (n peer : Nat) : Option Nat :=
  (List.range 24).find? fun m => m != n && decide ((s.link m).state = 5) && decide ((s.link m).peer = peer)

/-- A link that stops carrying traffic: state, training phase and failure, with its lanes at rest. -/
def Link.down (x : Link) (st phase fail now : Nat) : Link :=
  { x with
    state := st, phase := phase, fail := fail, trainFrom := now, lanes := 0, spare := 7, width := 0, signalSeen := 0, negSeen := false, negSent := 0
    peerNeg := none, buffer := [], txq := [], credits := [0, 0, 0], freed := [0, 0, 0], nakSent := false, nullGap := 0, replays := [] }

/-- A link leaves ACTIVE (R442): what it had not sent waits for another link, its replay buffer goes over another link to the same
neighbour or is held (R443), and the SEQ of the last flit accepted is kept. A link that was not ACTIVE only changes its state. -/
def State.linkDown (s : State) (n st phase fail : Nat) : State :=
  let x := s.link n
  let y := x.down st phase fail s.time.toNat
  if x.state ≠ 5 then s.setLink n y
  else
    let again := x.buffer.map fun e => Packet.again e.2.1 n e.1
    let z : Link := { y with leftSeq := some (x.rxSeq - 1), leftAt := s.time.toNat }
    let s1 := { s with lnk := { s.lnk with wait := x.txq ++ s.lnk.wait } }
    match s1.otherLink n x.peer with
    | some m => ((s1.setLink n { z with resent := satAdd z.resent again.length }).queueOn m again).drainWait
    | none => (s1.setLink n { z with held := again, heldAt := s.time.toNat }).drainWait

end Sys2Proof.Machine
end

