-- ==== Sys2Proof/Machine/Sems.lean ====
section
/-! DEFINITION. Host writes of the module, and the semaphore unit (R291 to R332): signals, waits, observers,
notifications, scopes and quotas. -/

namespace Sys2Proof.Machine

/-! ### Writes to host memory -/

/-- The translation cache holds a translation of a function's address, with write permission if `w` (R474). -/
def State.translated (s : State) (f a : Nat) (w : Bool) : Bool :=
  s.atsCache.any fun e => decide (e.1 = f) && decide (e.2.1 ≤ a) && decide (a < e.2.1 + e.2.2.1) && (!w || e.2.2.2)

/-- A refused access to host memory (R475): a tile's access becomes a deferred halt 0x21, the firmware's is recorded as
DMA in the function's HST_ERR_STAT. -/
def State.refuseHost (s : State) (f a code : Nat) (tile : Option (Nat × Origin)) : State :=
  match tile with
  | some t => s.setTile t.1 ((s.tile t.1).refuse 0x21 t.2 (fld a 12 32))
  | none => s.hostError f 3 code (detailAddr a) false

/-- Bytes of a write cut at 4 KiB boundaries of host memory. -/
def pagePieces (a : Nat) (bs : List Byte) : List (Nat × List Byte) :=
  (List.range (if bs.isEmpty then 0 else (a + bs.length - 1) / 4096 - a / 4096 + 1)).map fun i =>
    let lo := max a ((a / 4096 + i) * 4096)
    (lo, (bs.drop (lo - a)).take ((a / 4096 + i) * 4096 + 4096 - lo))

/-- A write to host memory through a function (R473 to R476): refused, held for its translation or behind an earlier write of the
function that is held (R294), or sent. `src` names the effect of a tile that it performs. -/
def State.hostWrite (s : State) (f a : Nat) (bs : List Byte) (ep : Bool) (src : Option (Nat × Nat)) : State :=
  let tile := src.map fun te => (te.1, (s.tile te.1).originOf te.2)
  let done (s : State) : State := match src with | some (t, e) => s.landed t e | none => s
  if s.fnActive f = false then done (s.refuseHost f a 5 tile)
  else
    let held := s.atsWaits.any fun w => decide (w.fn = f) && w.write
    let pcs := pagePieces a bs
    if (s.fn f).ats && (held || pcs.any fun p => !s.translated f p.1 true) then
      let req := src.map fun te =>
        ({ id := 0, fn := f, addr := a, len := bs.length, src := .effect te.1 te.2, translated := false } : HostReq)
      { s with atsWaits := s.atsWaits ++ pcs.map fun p => { fn := f, addr := p.1, write := true, bs := p.2, ep := ep, req := req } }
    else done (s.send (.hostWrite f a bs ep))

/-- The tile an access is made for, and the bundle. -/
def State.asker (s : State) (x : AccSrc) : Option (Nat × Origin) :=
  match x with
  | .effect t e => some (t, (s.tile t).originOf e)
  | .load t id _ _ => some (t, { stream := .A, pc := (((s.tile t).loads.find? fun l => l.id == id).map (·.pc)).getD 0 })
  | .scalar t id _ => some (t, { stream := .A, pc := (((s.tile t).sloads.find? fun l => l.id == id).map (·.pc)).getD 0 })
  | _ => none

/-- Whether a load's read is no longer waited for, since its load was rolled back (R97). -/
def State.forgotten (s : State) (x : AccSrc) : Bool :=
  match x with
  | .load t id _ _ => !((s.tile t).loads.any fun l => l.id == id)
  | .scalar t id _ => !((s.tile t).sloads.any fun l => l.id == id)
  | _ => false

/-- A refused read (R475); one that no load waits for any more halts nothing (log entry 23). -/
def State.refuseRead (s : State) (f a code : Nat) (x : AccSrc) : State :=
  if s.forgotten x then s else s.refuseHost f a code (s.asker x)

/-- A read of host memory through a function (R473 to R476): refused, held for its translation, or outstanding until its
completion arrives. -/
def State.hostRead (s : State) (f a len : Nat) (src : AccSrc) : State :=
  if s.fnActive f = false then s.refuseRead f a 5 src
  else
    let tr := (s.fn f).ats
    let r : HostReq := { id := s.nextReq, fn := f, addr := a, len := len, src := src, translated := tr }
    let s1 := { s with nextReq := s.nextReq + 1 }
    if tr && !s.translated f a false then
      { s1 with atsWaits := s1.atsWaits ++ [{ fn := f, addr := a, write := false, bs := [], ep := false, req := some r }] }
    else { s1 with hostReqs := s1.hostReqs ++ [r] }

/-! ### Parties, scopes and quotas -/

/-- A party identifier (R291). -/
def partyId (cls idx : Nat) : Nat := cls * 8192 + idx

/-- Whether a scope, named by a party, contains another party (R292); scope 3 is taken as SYSTEM (R311). The parties of this module are not
on the module of a peer that names the scope. -/
def scopeHas (scope namer party : Nat) : Bool :=
  if scope = 0 then decide (namer = party)
  else if scope = 1 then decide (namer = party) || (decide (namer / 8192 ≠ 5) && [0, 1, 2, 3, 6].contains (party / 8192))
  else true

/-- The semaphore range of a function (R318, R329): base and count. -/
def State.quota (s : State) (f : Nat) : Nat × Nat := mget (0, 0) s.sem.quota f

/-- Whether a semaphore lies in a function's range (R318). -/
def State.inQuota (s : State) (f sem : Nat) : Bool :=
  decide ((s.quota f).1 ≤ sem) && decide (sem < (s.quota f).1 + (s.quota f).2)

/-- Whether a job holds the module: LOADING, RUNNING, QUIESCED or tearing down (R393, R415). -/
def State.jobLive (s : State) : Bool := decide (1 ≤ s.job.state) && decide (s.job.state ≤ 4)

/-- The quota check of a signal by its source (R318). A signal of the Lodge has no range of its own. -/
def State.quotaOk (s : State) (src : SigSrc) (sem : Nat) : Bool :=
  match src with
  | .doorbell f => s.inQuota f sem
  | .lodge => true
  | _ => s.jobLive && s.inQuota s.job.owner sem

/-- The largest value of a semaphore (R310). -/
def semMax : Int := 16777215

/-! ### Refusals -/

/-- Kinds of refusal (R317): 0 below zero, 1 overflow, 2 outside quota. -/
def State.refuseSignal (s : State) (src : SigSrc) (sem kind : Nat) : State :=
  match src with
  | .tile t o => s.setTile t ((s.tile t).refuse (0x50 + kind) o sem)
  | .copy t o => s.setTile t ((s.tile t).refuse (0x50 + kind) o sem)
  | .programme k row tag =>
    let x := s.stack k
    (s.setStack k { x with errCode := 0x09, errRow := BitVec.ofNat 13 row, errTag := tag, startQ := [], prg := none }).requestTeardown 5 none
  | .tombola d tag =>
    let x := s.tombola d
    (s.setTombola d { x with err := 0x06, errTag := tag, q := [], running := none }).requestTeardown 6 none
  | .bandstand d tag =>
    let x := s.band d
    (s.setBand d { x with err := 0x06, errTag := tag, q := [], running := none }).requestTeardown 7 none
  | .doorbell f => s.hostError f 2 (kind + 1) (sem * 4096) false
  | .peer node tag =>
    ({ s with lnk := { s.lnk with inbound := satInc s.lnk.inbound } }).sendPacket (s.reply 4 node tag.toNat (kind + 2))
  | .lodge => s

/-! ### Acquires -/

/-- The test of an acquire against the most recent release (R302, R303); a failed test is counted and recorded (R331). -/
def State.acquireTest (s : State) (sem scope party : Nat) : State :=
  let x := s.sema sem
  if x.lastScope = 3 then s
  else if scopeHas x.lastScope x.lastSrc party && scopeHas scope party x.lastSrc then s
  else
    { s with sem := { s.sem with
        mismatchCnt := satInc s.sem.mismatchCnt
        mismatchLast := BitVec.ofNat 64
          (sem + x.lastScope % 4 * 2 ^ 16 + min scope 2 * 2 ^ 18 + x.lastSrc * 2 ^ 32 + party * 2 ^ 48) } }

/-- The unit releases a waiter or an observer: the test of R303, the count of R332, and the notice on its way (R316). An
observer's notice carries −1. -/
def State.releaseWaiter (s : State) (sem : Nat) (w : Waiter) (consumed : Int) : State :=
  let s1 := s.acquireTest sem w.scope (partyId 0 w.tile)
  let x := s1.tile w.tile
  let s2 := s1.setTile w.tile { x with notices := x.notices ++ [(w.stream, w.scope, sem, consumed)] }
  { s2 with sem := { s2.sem with releases := satInc s2.sem.releases } }

/-- A slot whose word B holds only the fields that its KIND gives it (R6, R330). -/
def NtfSlot.fields (x : NtfSlot) : NtfSlot := { x with b := maskWord x.b (if x.kind then 2 ^ 64 - 8 else 2 ^ 11 - 1) }

/-- A notification slot fires (R327). -/
def State.fireNtf (s : State) (m : Nat) : State :=
  let n := mget NtfSlot.zero s.sem.ntf m
  let fired := n.fired + 1
  let s1 := { s with sem := { s.sem with ntf := mput NtfSlot.zero s.sem.ntf m { n with armed := false, fired := fired }
                                         releases := satInc s.sem.releases } }
  let s2 := s1.acquireTest n.sem 2 (partyId 4 n.func)
  if n.kind = false then s2.msix n.func (n.b.toNat % 2 ^ 11)
  else
    let rec_ := (s2.sema n.sem).value + n.sem * 2 ^ 24 + fired.toNat * 2 ^ 40
    s2.hostWrite n.func (n.b.toNat / 8 * 8) (toBytes 8 rec_) false none

/-- Fires the armed slots of a semaphore whose thresholds the value reaches, in slot order (R315, R327). -/
def State.fireNtfs (s : State) (sem : Nat) : State :=
  s.sem.ntf.foldl (fun acc e =>
    let n := mget NtfSlot.zero acc.sem.ntf e.1
    if n.armed && decide (n.sem = sem) && decide (n.thresh ≤ (acc.sema sem).value) then acc.fireNtf e.1 else acc) s

/-- Serves the consuming waiters from the head while the value allows (R315). -/
def State.serveQueue (s : State) (sem : Nat) : List Waiter → State
  | [] => s
  | w :: ws =>
    if w.n ≤ (s.sema sem).value then
      let x := s.sema sem
      ((s.setSema sem { x with value := x.value - w.n, queue := ws }).releaseWaiter sem w w.n).serveQueue sem ws
    else s

/-- Evaluates a semaphore (R315): observers and notifications, then the queue. -/
def State.evalSem (s : State) (sem : Nat) : State :=
  let x := s.sema sem
  let go := x.observers.filter fun w => decide (w.n ≤ x.value)
  let stay := x.observers.filter fun w => !decide (w.n ≤ x.value)
  let s1 := s.setSema sem { x with observers := stay }
  let s2 := go.foldl (fun acc w => acc.releaseWaiter sem w (-1)) s1
  let s3 := s2.fireNtfs sem
  s3.serveQueue sem (s3.sema sem).queue

/-- The kind of refusal that a signal meets, if any: the quota is tested first, then the range (R317). -/
def State.signalRefusal (s : State) (src : SigSrc) (sem : Nat) (amount : Int) : Option Nat :=
  let v : Int := (s.sema sem).value + amount
  if s.quotaOk src sem = false then some 2
  else if v < 0 then some 0
  else if semMax < v then some 1
  else none

/-- Applies a signal (R312, R317): refused, or the value, the record of the release and the evaluation. -/
def State.applySignal (s : State) (src : SigSrc) (party scope sem : Nat) (amount : Int) : State :=
  match s.signalRefusal src sem amount with
  | some kind => s.refuseSignal src sem kind
  | none =>
    let x := s.sema sem
    let s1 := s.setSema sem { x with value := (x.value + amount).toNat, lastScope := min scope 2, lastSrc := party }
    ({ s1 with sem := { s1.sem with signals := satInc s1.sem.signals } }).evalSem sem

/-- The source that a stream's wait or obs stands for: its stream stalls at that bundle (R43). -/
def State.waitSrc (s : State) (t : Nat) (st : Stream) : SigSrc :=
  .tile t { stream := st, pc := match st with | .A => (s.tile t).core.lastA | .E => (s.tile t).core.lastE }

/-- A consuming wait reaches the unit (R313). -/
def State.applyWait (s : State) (t : Nat) (st : Stream) (scope sem : Nat) (n : Int) : State :=
  if s.quotaOk (s.waitSrc t st) sem = false then s.refuseSignal (s.waitSrc t st) sem 2
  else if n < 0 then s.refuseSignal (s.waitSrc t st) sem 0
  else if semMax < n then s.refuseSignal (s.waitSrc t st) sem 1
  else
    let x := s.sema sem
    let w : Waiter := { tile := t, stream := st, scope := scope, n := n.toNat }
    if x.queue.isEmpty && decide (n.toNat ≤ x.value) then
      (s.setSema sem { x with value := x.value - n.toNat }).releaseWaiter sem w n
    else s.setSema sem { x with queue := x.queue ++ [w] }

/-- An observing wait reaches the unit (R314). -/
def State.applyObs (s : State) (t : Nat) (st : Stream) (scope sem : Nat) (n : Int) : State :=
  if s.quotaOk (s.waitSrc t st) sem = false then s.refuseSignal (s.waitSrc t st) sem 2
  else if n < 0 then s.refuseSignal (s.waitSrc t st) sem 0
  else if semMax < n then s.refuseSignal (s.waitSrc t st) sem 1
  else
    let x := s.sema sem
    let w : Waiter := { tile := t, stream := st, scope := scope, n := n.toNat }
    if n.toNat ≤ x.value then s.releaseWaiter sem w (-1)
    else s.setSema sem { x with observers := x.observers ++ [w] }

/-- The unit adds a consumed amount back when its notice could not be delivered: neither refused nor a release, the excess
past the largest value lost (R316). -/
def State.addBack (s : State) (sem : Nat) (n : Int) : State :=
  let x := s.sema sem
  (s.setSema sem { x with value := min (x.value + n.toNat) semMax.toNat }).evalSem sem

/-- Withdraws every queued wait and observer of a tile, the operations on their way, and the notices that have not arrived
(R316). -/
def State.withdrawTile (s : State) (t : Nat) : State :=
  let drop (m : SemMsg) : Bool := match m with
    | .wait u _ _ _ _ => u != t
    | .obs u _ _ _ _ => u != t
    | _ => true
  let sems := s.sem.sems.map fun e => (e.1, { e.2 with
    queue := e.2.queue.filter (fun w => w.tile != t), observers := e.2.observers.filter (fun w => w.tile != t) })
  let sems' := sems.filter fun e => e.2 != Sem.zero
  let s1 := { s with sem := { s.sem with sems := sems', net := s.sem.net.filter drop } }
  let x := s1.tile t
  let s2 := s1.setTile t { x with notices := [] }
  x.notices.foldl (fun acc n => if 0 ≤ n.2.2.2 then acc.addBack n.2.2.1 n.2.2.2 else acc) s2

/-- A tile, engine or the Lodge sends a signal towards the semaphore unit. -/
def State.sendSignal (s : State) (src : SigSrc) (party scope sem : Nat) (amount : Int) (effId : Nat) : State :=
  { s with sem := { s.sem with net := s.sem.net ++ [.signal src party scope sem amount effId] } }

/-- The party an operation comes from (R291). -/
def SemMsg.party : SemMsg → Nat
  | .signal _ p _ _ _ _ => p
  | .wait t _ _ _ _ => partyId 0 t
  | .obs t _ _ _ _ => partyId 0 t

/-- Whether a message is the oldest of its party: one party's operations reach the unit in their order (R310). -/
def State.netFirst (s : State) (idx : Nat) : Option SemMsg :=
  match s.sem.net[idx]? with
  | none => none
  | some m => if (s.sem.net.take idx).any fun m' => decide (m'.party = m.party) then none else some m

end Sys2Proof.Machine
end

