-- ==== Sys2Proof/Machine/Trace.lean ====
section
/-! DEFINITION. Trace records (R607 to R609). -/

namespace Sys2Proof.Machine

/-- LOG2N of the ring; values outside 10 to 26 are taken as the nearest of them (log entry 47). -/
def State.traceLog2 (s : State) : Nat := max 10 (min 26 (fld s.lodge.traceCtl.toNat 11 5))

/-- The unit's own count (R608): tile cycles, stack cycles or LDG_TIME_CNT; the clocks of other units have no counter, so theirs is a free
value (log entry 2). -/
def State.unitCycle (s : State) (u : Nat) : BitVec 32 × State :=
  let i := u % 4096
  match u / 4096 with
  | 0 => (BitVec.ofNat 32 (s.tile (s.unit u).logical).cycle, s)
  | 1 => (BitVec.ofNat 32 (s.stack (i / 64)).cycle, s)
  | 4 => (BitVec.ofNat 32 (s.stack i).cycle, s)
  | 6 => (BitVec.ofNat 32 (s.tombola i).cycle, s)
  | 8 => (s.time.truncate 32, s)
  | _ => let v := s.fresh
         ((Config.free64 v.1).truncate 32, v.2)

/-- A unit emits a record of a kind with DATA (R607, R608): written to the ring through the physical function, or lost on a full ring
that stops. -/
def State.trace (s : State) (u kind data : Nat) : State :=
  let l := s.lodge
  if !l.traceCtl.getLsbD 9 || !l.traceCtl.getLsbD (u / 4096) then s
  else if l.traceCtl.getLsbD 10 && decide (2 ^ s.traceLog2 ≤ l.traceW.toNat) then
    { s with lodge := { l with traceLost := satInc l.traceLost } }
  else
    let c := s.unitCycle u
    let s1 : State := { c.2 with lodge := { c.2.lodge with traceW := l.traceW + 1 } }
    let a := l.traceBase.toNat / 4096 * 4096 + 16 * (l.traceW.toNat % 2 ^ s.traceLog2)
    s1.hostWrite 0 a (toBytes 2 u ++ toBytes 1 kind ++ toBytes 1 0 ++ toBytes 4 c.1.toNat ++ toBytes 8 data) false none

/-- A record of a logical tile. -/
def State.traceTile (s : State) (t kind data : Nat) : State :=
  match s.physTile t with
  | some u => s.trace u kind data
  | none => s

/-- A SLIP record: kind 0 is injected. -/
def State.traceSlip (s : State) (t kind : Nat) (st : Stream) (pc : Nat) : State :=
  s.traceTile t 2 (pc % 2 ^ 23 + kind % 4 * 2 ^ 23 + (match st with | .A => 0 | .E => 2 ^ 25))

/-- A HALT record. -/
def State.traceHalt (s : State) (t : Nat) (h : HaltRec) : State := s.traceTile t 3 (h.reason.toNat + h.pc.toNat * 2 ^ 8)

/-- CMD_START and CMD_END records of an engine's command. -/
def State.cmdStart (s : State) (u tag : Nat) : State := s.trace u 4 (tag % 2 ^ 32)
def State.cmdEnd (s : State) (u tag : Nat) : State := s.trace u 5 (tag % 2 ^ 32)

/-- WAKE and SLEEP records. -/
def State.traceWake (s : State) (u : Nat) : State := s.trace u 7 0
def State.traceSleep (s : State) (u : Nat) : State := s.trace u 8 0

/-- A region whose host-DMA engine takes up its next command (R478, R492). -/
def State.hdmaTurn (s : State) (n : Nat) (r : Region) : State :=
  let g := r.hdmaGo
  let s1 := s.setRegion n g
  if g.hdmaRun && !r.hdmaRun then s1.cmdStart (unitId 3 n) g.hdmaShown else s1

end Sys2Proof.Machine
end

