-- ==== Sys2Proof/Machine/Units.lean ====
section
/-! DEFINITION. Reports, mismatches and fences of units (R24 to R30, R111, R498). -/

namespace Sys2Proof.Machine

/-- Whether a report is consistent with an allowed state (R26). Reports: 0 ASLEEP, 1 IDLE, 2 BUSY, 3 HALTED, 4 DRAINED,
5 SILENT. Allowed: 1 SPARE, 2 ONLINE, 3 DRAINING, 4 FENCED, 5 RETIRED. -/
def reportConsistent (allowed rep : Nat) : Bool :=
  match allowed with
  | 2 => decide (rep ≤ 4)
  | 3 => decide (rep = 0) || decide (rep = 1) || decide (rep = 2) || decide (rep = 4)
  | 4 => true
  | 5 => decide (rep = 0)
  | 1 => decide (rep = 0)
  | _ => true

/-- Whether a unit's report is a mismatch: one that arrived no later than 1 ms (100,000 Lodge cycles) after a change of the allowed
state must be inconsistent with the old state too, whenever the Lodge checks it (R27, R28). -/
def State.isMismatch (s : State) (u : Nat) : Bool :=
  let x := s.unit u
  !reportConsistent x.allowed x.reported &&
    (!reportConsistent x.oldAllowed x.reported || decide (x.changedAt + 100000 < x.reportedAt) || decide (x.oldAllowed = 0))

/-- The registers of a fenced tile: those of its oldest unconfirmed window's checkpoint, with nothing under way (R111; log entry
75). -/
def Tile.fencedCore (t : Tile) : TileCore :=
  { (match t.windows with | w :: _ => w.ckpt | [] => t.core) with acts := [], vwait := [], mwait := [], writes := [] }

/-- The turnstile of a fenced tile closes: every held effect, every effect of an unconfirmed window and the logs are discarded,
those in the tile's own memory too, a slip, replay or halt under way ends, and the tile's waits are withdrawn (R111, R316). -/
def State.closeTurnstile (s : State) (t : Nat) : State :=
  let x := s.tile t
  (s.setTile t { x.withoutOpen with
    core := x.fencedCore, windows := [], releaseQ := [], loads := [], sloads := [], regReads := [], cur := none, slipNow := []
    ghosts := [], pathReq := [], haltPend := none, mode := .normal, fences := [] }).withdrawTile t

/-- Marks an operation of a fenced unit as not done to its issuer (R27). -/
def State.notDone (s : State) (u tile : Nat) (item : BitVec 2048) (tagAt : Nat) : State :=
  { s with job := { s.job with lost := s.job.lost ++ [{ unit := u, tile := tile, tag := fld item.toNat (8 * tagAt) 32 }] } }

/-- Lodge cycles in 86,400 s (R500). -/
def dayCycles : Nat := 8640000000000

/-- Lodge hardware fences a steward: EN cleared, held in reset, its stack cleared and its sources in service returned to
pending with COUNT one higher; fewer than four stewards are a degradation (R498, R500, R517). -/
def State.holdSteward (s : State) (k : Nat) : State :=
  let x := s.steward k
  let again := x.fencedAt.any fun t => decide (s.time.toNat < t + dayCycles)
  let s1 := (s.setSteward k { x with running := 16, stack := [], inReset := true, fencedAt := some s.time.toNat
                                     twice := again }).hostEvent 1
  let s2 := { s1 with lodge := { s1.lodge with stwEn := setBit s1.lodge.stwEn k false } }
  s2.lodge.ints.foldl (fun acc e =>
    if e.2.inSvc && decide (e.2.owner.toNat = k) then
      acc.setIntSrc e.1 { e.2 with inSvc := false, offered := false
                                   count := if e.2.count = 255#8 then 255#8 else e.2.count + 1
                                   sat := e.2.sat || decide (e.2.count = 255#8) }
    else if e.2.offered && decide (e.2.owner.toNat = k) then acc.setIntSrc e.1 { e.2 with offered := false }
    else acc) s2

/-- The owner of a duty (R494, R522). -/
def State.dutyOwner (s : State) (d : Nat) : Nat := fld s.lodge.duty.toNat (2 * d) 2

/-- Whether a duty's owner is enabled: while it is not, the duty's work waits for the takeover (R499). -/
def State.dutyUp (s : State) (d : Nat) : Bool := s.lodge.stwEn.getLsbD (s.dutyOwner d)

/-- A duty gets an owner. -/
def State.setDuty (s : State) (d k : Nat) : State :=
  let w := s.lodge.duty.toNat
  { s with lodge := { s.lodge with duty := BitVec.ofNat 16 (w - s.dutyOwner d * 2 ^ (2 * d) + k % 4 * 2 ^ (2 * d)) } }

/-- Each enabled steward that holds no duty is given those that it owns after reset (R494, R500; log entry 44). -/
def State.giveDuties (s : State) : State :=
  (List.range 4).foldl (fun acc k =>
    if !acc.lodge.stwEn.getLsbD k || (List.range 8).any fun d => decide (acc.dutyOwner d = k) then acc
    else ((List.range 8).filter fun d => decide (fld 0xF0A9 (2 * d) 2 = k)).foldl (fun a d => a.setDuty d k) acc) s

/-- The share of a failed engine in a DRAIN in progress reaches its destination with the poison flag set: its granules that are still on their
way, and those that have arrived (R208). -/
def State.loseShare (s : State) (k : Nat) (d : DrainRun) : State :=
  let gs := granulesOf d.addr d.len
  match decodeAddr d.addr with
  | some (.spad t o) =>
    let x := s.tile t
    let hit (m : InMsg) : Bool := decide (m.tile = 200 + k) && (granulesOf (d.addr - o + m.addr) m.bs.length).any gs.contains
    let inbox := x.inbox.map fun m => if hit m then { m with poison := true } else m
    s.setTile t ({ x with inbox := inbox }.remoteWrite o (memRead x.spad o d.len) 0 true)
  | some (.region g o) => s.setRegion g ((s.region g).write o (memRead (s.region g).mem o d.len) true)
  | _ => s

/-- What a fence does inside a unit (R27): a tile's turnstile closes; a bank engine gets no more rows, its shares of DRAINs in progress and
its walks' records are poisoned and its other undelivered results lost (R208, R284); the running operation of an engine without a turnstile is discarded
and marked as not done to its issuer; a link
leaves ACTIVE and waits in FAILED for its read-back (R442, R444). -/
def State.fenceInside (s : State) (u : Nat) : State :=
  let i := u % 4096
  match u / 4096 with
  | 0 => let l := (s.unit u).logical
         if l < 96 then s.closeTurnstile l else s
  | 1 =>
    let k := i / 64
    let pc := i % 64
    let x := s.stack k
    let prg := x.prg.map fun p => { p with failedEng := setBit p.failedEng pc true }
    let walks := match x.prg with
      | some p => p.walks.filter fun (w : WalkRun) => decide (w.pc = pc) && decide (x.cycle < w.done)
      | none => []
    let drains := match x.prg with
      | some p => p.drains.filter fun (d : DrainRun) => decide (d.pc = pc) && decide (x.cycle < d.until_)
      | none => []
    let bad := walks.foldl (fun l w => (List.range w.ncw).foldl (fun l c => setIns (w.cw + c) l) l) x.poisonCw
    let s1 := (s.setStack k { x with engAvail := setBit x.engAvail pc false, prg := prg, poisonCw := bad }).setEngine k pc
      { s.engine k pc with acc := [], accPoison := [], busyUntil := 0, accFinal := 0 }
    drains.foldl (fun acc d => acc.loseShare k d) s1
  | 2 =>
    let r := s.region i
    (match r.cpyRun with
     | some c => (s.setRegion i { r with cpyRun := none, cpyStop := some c.1 }).notDone u c.1.tile c.1.item 0x90
     | none => s)
  | 3 =>
    let r := s.region i
    (match r.hdmaQ with
     | c :: rest =>
       if r.hdmaRun then (s.setRegion i { r with hdmaRun := false, hdmaQ := rest, hdmaCut := some c }).notDone u c.tile c.item 0x1C else s
     | [] => s)
  | 4 => s.setStack i { s.stack i with prg := none, startQ := [] }
  | 5 => s.linkDown i 7 0 0
  | 6 =>
    (match (s.tombola i).running with
     | some c => (s.setTombola i { s.tombola i with running := none }).notDone u c.tile c.item 0x34
     | none => s)
  | 7 =>
    (match (s.band i).running with
     | some r => (s.setBand i { s.band i with running := none, coll := [] }).notDone u r.tile r.item 0x20
     | none => s)
  | 8 => s.holdSteward i
  | _ => s

/-- The Lodge fences a unit: ALLOWED becomes FENCED, the fence is counted, MISMATCH is set when a report caused it (R27). -/
def State.fence (s : State) (u : Nat) (mismatch : Bool) : State :=
  let s1 := s.allow u 4
  let x := s1.unit u
  (s1.setUnit u { x with mismatch := x.mismatch || mismatch, fences := satInc x.fences }).fenceInside u |>.trace u 6 0 |>.dutyBoundary 3

/-- The Lodge checks a unit's report and fences the unit if it is a mismatch (R27). -/
def State.checkUnit (s : State) (u : Nat) : State := if s.isMismatch u then s.fence u true else s

/-- A unit reports and raises a status event, and the Lodge checks the report (R27, R505). -/
def State.statusReport (s : State) (u rep kind : Nat) : State := (s.report u rep kind).checkUnit u

/-- A logical tile reports through its physical tile. -/
def State.statusTile (s : State) (t rep kind : Nat) : State :=
  match s.physTile t with
  | some u => s.statusReport u rep kind
  | none => s

/-- Whether the unit state table lets a tile issue: a fenced, retired or spare tile issues nothing (R25, R27). -/
def State.tileAllowed (s : State) (t : Nat) : Bool :=
  match s.physTile t with
  | some u => decide ((s.unit u).allowed = 2) || decide ((s.unit u).allowed = 3)
  | none => false

/-- A live-service command ends with a result (R512, R517, R523). -/
def State.liveEnd (s : State) (result : Nat) : State :=
  ({ s with lodge := { s.lodge with liveGo := false, liveResult := BitVec.ofNat 8 result, liveDone := satInc s.lodge.liveDone
                                    liveRun := none } }).hostEvent 4 |>.dutyBoundary 5

/-- A bank engine is retired: its bit of STK_ENG_AVAIL is cleared (R514). -/
def State.retireEngine (s : State) (u : Nat) : State :=
  let k := u % 4096 / 64
  let x := s.stack k
  ((s.setStack k { x with engAvail := setBit x.engAvail (u % 64) false }).allow u 5).liveEnd 0

/-- The bank engine that a RETIRE command names is retired at a step boundary, or when the serving job is over (R514). -/
def State.retirePending (s : State) : State :=
  match s.lodge.liveRun with
  | some r => if r.op = 4 ∧ r.unit.toNat / 4096 = 1 then s.retireEngine r.unit.toNat else s
  | none => s

/-- Every tile leaves the job; its state stays for readout (R395, R108). -/
def State.stopTiles (s : State) : State :=
  s.tiles.foldl (fun acc e => acc.setTile e.1 { acc.tile e.1 with active := false }) s

/-- Whether two semaphore ranges share a number. -/
def rangesMeet (a b : Nat × Nat) : Bool := decide (a.1 < b.1 + b.2) && decide (b.1 < a.1 + a.2)

/-- The semaphore range that a LDG_QUOTA_B word gives (R421). -/
def rangeOf (b : Reg64) : Nat × Nat := (fld b.toNat 0 16, fld b.toNat 16 17)

/-- Whether a change of a function's range waits for the running job's end: it touches the owner's range (R414). -/
def State.rangeWaits (s : State) (f : Nat) (b : Reg64) : Bool :=
  let own := s.quota s.job.owner
  s.jobLive && decide (rangeOf b ≠ s.quota f) && (rangesMeet (rangeOf b) own || rangesMeet (s.quota f) own)

/-- A range is copied into SEM_QUOTA_f (R414). -/
def State.setRange (s : State) (f : Nat) (b : Reg64) : State :=
  let s1 := s.setFn f { s.fn f with quotaB := b, quotaPendB := none }
  { s1 with sem := { s1.sem with quota := mput (0, 0) s1.sem.quota f (rangeOf b) } }

/-- The quota writes that wait take effect: at action 7, or at the end of the job (R413, R414). -/
def State.applyQuotas (s : State) (atEnd : Bool) : State :=
  s.fns.foldl (fun acc e =>
    let x := acc.fn e.1
    let s1 := match x.quotaPendA with
      | some a => acc.setFn e.1 { x with quotaA := a, quotaPendA := none }
      | none => acc
    match x.quotaPendB with
    | some b => if !atEnd && s1.rangeWaits e.1 b then s1 else s1.setRange e.1 b
    | none => s1) s

/-- The job goes to ENDED; the quota writes that waited for its end take effect; a CURVE that waits for its quiesce point ends with result 5 (R395, R402, R409, R513). -/
def State.endJob (s : State) (cause : Nat) : State :=
  let s1 := s.stopTiles
  let s2 := { s1 with job := { s1.job with state := 5, cause := BitVec.ofNat 4 cause, tearing := none } }.applyQuotas true
  match s2.lodge.liveRun with
  | some r => if r.op = 1 then s2.liveEnd 5 else s2.retirePending
  | none => s2

end Sys2Proof.Machine
end

