-- ==== Sys2Proof/Machine/Operands.lean ====
section
/-! DEFINITION. Every operand form: tensor descriptors with their checks, views, packed element streams and footprints
(R143 to R168, R611, R614), queue and selector operands (R56, R132, R612). -/

namespace Sys2Proof.Machine

/-! ### Descriptors -/

/-- A descriptor's fields (R147, R163). Extents and strides are listed for all six dimensions. -/
structure Desc where
  base : Nat
  fmt : Nat
  valid : Bool
  rank : Nat
  view : Nat
  block : Nat
  fill : Nat
  scaleOff : Int
  ext : List Nat
  str : List Int
  wout : Nat
  wpad : Nat
  wk : Nat
  wstride : Nat
  wdil : Nat
  wdim : Nat
  wrsv : Bool
  table : Bool
deriving DecidableEq, Repr

/-- `n` bytes at offset `o`, as a number. -/
def byteField (bs : List Byte) (o n : Nat) : Nat := ofBytes ((bs.drop o).take n)

/-- Entry 1,023, the table view: U8, rank 1, extent 65,472 (R143). A 65th byte marks it, so that no entry of the table can
spell it. -/
def tableViewBytes : List Byte :=
  toBytes 7 (15 * 2 ^ 52) ++ toBytes 1 0x09 ++ toBytes 1 0x09 ++ toBytes 13 0 ++ toBytes 3 65472 ++ toBytes 15 0 ++
    toBytes 4 1 ++ toBytes 20 0 ++ [1#8]

/-- The bytes of a tile's descriptor under a handle (R143). -/
def TileCore.descBytes (c : TileCore) (h : Nat) : List Byte :=
  if h = 1023 then tableViewBytes else memRead c.desc (h * 64) 64

/-- Reads a descriptor as tile `tile` uses it: a scratchpad-absolute view takes that tile's number (R147, R163, R166). -/
def parseDesc (bs : List Byte) (tile : Nat) : Desc :=
  let base0 := byteField bs 0 7
  let b8 := byteField bs 8 1
  let view := fld b8 4 2
  let base := if view = 2 ∧ base0 / 2 ^ 52 = 2 then
      base0 / 2 ^ 33 * 2 ^ 33 + tile % 1024 * 2 ^ 23 + base0 % 2 ^ 23 else base0
  { base := base, fmt := byteField bs 7 1, valid := fld b8 3 1 == 1, rank := fld b8 0 3, view := view, block := fld b8 6 2
    fill := byteField bs 0x0E 4, scaleOff := sext 32 (byteField bs 0x12 4)
    ext := (List.range 6).map fun d => byteField bs (0x16 + 3 * d) 3
    str := (List.range 6).map fun d => sext 32 (byteField bs (0x28 + 4 * d) 4)
    wout := byteField bs 0x22 3, wpad := byteField bs 0x25 3, wk := byteField bs 0x38 2
    wstride := byteField bs 0x3A 1, wdil := byteField bs 0x3B 1, wdim := fld (byteField bs 0x3C 1) 0 3
    wrsv := byteField bs 0x3C 4 / 8 != 0, table := decide (64 < bs.length) }

/-- Element width in bits. -/
def Desc.bits (d : Desc) : Nat := fmtBits d.fmt

/-- The block size B, 0 without block scales (R147). -/
def Desc.blockSize (d : Desc) : Nat := match d.block with | 1 => 16 | 2 => 32 | 3 => 64 | _ => 0

/-- The extents of the view (R148, R164): a sliding window's dimension becomes taps and output positions. -/
def Desc.exts (d : Desc) : List Nat :=
  if d.view = 1 then (d.ext.take d.wdim) ++ [d.wk + 1, d.wout] ++ ((d.ext.take d.rank).drop (d.wdim + 1))
  else d.ext.take d.rank

/-- The number of elements of the view (R148). -/
def Desc.count (d : Desc) : Nat := d.exts.foldl (· * ·) 1

/-- The indices of element `j`, dimension 0 fastest (R148). -/
def indicesOf : List Nat → Nat → List Nat
  | [], _ => []
  | e :: es, j => (j % e) :: indicesOf es (j / e)

/-- Where an element index leads: out of bounds (R157), padding (R165), or an element offset with its scale index (R148,
R150). -/
inductive Place where
  | out
  | pad
  | elem (o q : Int)
deriving DecidableEq, Repr

/-- Σ i_d × S_d. -/
def dotStrides : List Nat → List Int → Int
  | i :: is, st :: ss => (i : Int) * st + dotStrides is ss
  | _, _ => 0

/-- The scale index of source indices (R150). -/
def Desc.scaleIndex (d : Desc) (idx : List Nat) : Int :=
  let b := d.blockSize
  if b = 0 then 0
  else ((idx.headD 0) / b : Nat) + dotStrides (idx.drop 1) ((d.str.drop 1).map (· / (b : Int)))

/-- Where element `j` of a descriptor lies. -/
def Desc.place (d : Desc) (j : Int) : Place :=
  if j < 0 ∨ (d.count : Int) ≤ j then .out
  else
    let idx := indicesOf d.exts j.toNat
    if d.view = 1 then
      let k := idx.getD d.wdim 0
      let o := idx.getD (d.wdim + 1) 0
      let p : Int := (o * (d.wstride + 1) + k * (d.wdil + 1) : Nat) - (d.wpad : Int)
      if p < 0 ∨ (d.ext.getD d.wdim 0 : Int) ≤ p then .pad
      else
        let src := idx.take d.wdim ++ [p.toNat] ++ idx.drop (d.wdim + 2)
        .elem (dotStrides src d.str) (d.scaleIndex src)
    else .elem (dotStrides idx d.str) (d.scaleIndex idx)

/-- A reader of memory bytes by device address, with the poison flag of the granule. -/
abbrev Reader := Nat → Byte × Bool

/-- The byte address and number of bytes that hold element offset `o` of a `b`-bit array at `base` (R115, R148). -/
def elemSpan (base b : Nat) (o : Int) : Nat × Nat :=
  let bit : Int := o * b
  (((base : Int) + bit / 8).toNat, cdiv ((bit % 8).toNat + b) 8)

/-- The code of the element at offset `o`. -/
def elemCode (rd : Reader) (base b : Nat) (o : Int) : Nat :=
  let sp := elemSpan base b o
  let sh : Nat := (o * (b : Int) % 8).toNat
  ofBytes ((List.range sp.2).map fun i => (rd (sp.1 + i)).1) / 2 ^ sh % 2 ^ b

/-- Whether a span of bytes is poisoned. -/
def spanPoison (rd : Reader) (a n : Nat) : Bool := (List.range n).any fun i => (rd (a + i)).2

/-- The address of the scale with index `q` (R150). -/
def Desc.scaleAddr (d : Desc) (q : Int) : Nat :=
  ((d.base : Int) + d.scaleOff + tableBytes d.fmt + q * scaleBytes d.fmt).toNat

/-- The value table of a codebook descriptor (R120, R150). -/
def Desc.tableOf (d : Desc) (rd : Reader) : List Nat :=
  let a := ((d.base : Int) + d.scaleOff).toNat
  let n := tableBytes d.fmt
  if n = 0 then []
  else
    let w := if n = 16 then 1 else 2
    (List.range (n / w)).map fun i => ofBytes ((List.range w).map fun k => (rd (a + i * w + k)).1)

/-- The fill code (R158). -/
def Desc.fillCode (d : Desc) : Nat := d.fill % 2 ^ d.bits

/-- The code of element `j`, the fill code outside, with its poison flag and whether it is out of bounds (R157, R165). -/
def Desc.codeAt (d : Desc) (rd : Reader) (j : Int) : Nat × Bool × Bool :=
  match d.place j with
  | .out => (d.fillCode, false, true)
  | .pad => (d.fillCode, false, false)
  | .elem o _ =>
    let sp := elemSpan d.base d.bits o
    (elemCode rd d.base d.bits o, spanPoison rd sp.1 sp.2, false)

/-- The value of element `j`: decoded, scaled and rounded to binary32 where the product leaves its normal range (R117, R120, R122),
the fill value outside (R158), with its poison flag and whether it is out of bounds. -/
def Desc.valueAt (d : Desc) (rd : Reader) (table : List Nat) (j : Int) : Num × Bool × Bool :=
  match d.place j with
  | .out => (decodeElem d.fmt table d.fillCode, false, true)
  | .pad => (decodeElem d.fmt table d.fillCode, false, false)
  | .elem o q =>
    let sp := elemSpan d.base d.bits o
    let code := elemCode rd d.base d.bits o
    let sb := scaleBytes d.fmt
    let sc := ofBytes ((List.range sb).map fun i => (rd (d.scaleAddr q + i)).1)
    let v := decodeScaled d.fmt table code sc
    ((if fmtIsScaled d.fmt then dec32 (enc32 v) else v),
      spanPoison rd sp.1 sp.2 || spanPoison rd (d.scaleAddr q) sb, false)

/-! ### Packed element streams (R611) -/

/-- The elements whose bits item `k` of a stream of `b`-bit elements holds. -/
def itemElems (b k : Nat) : List Nat :=
  let lo := 2048 * k / b
  let hi := cdiv (2048 * (k + 1)) b
  (List.range (hi - lo)).map (· + lo)

/-- Item `k` of the packed stream that begins at element index `j`: its bytes, its poison flag, and the element indices that
are out of bounds and begin in it. -/
def Desc.itemAt (d : Desc) (rd : Reader) (j : Int) (k : Nat) : BitVec 2048 × Bool × List Int :=
  let b := d.bits
  (itemElems b k).foldl (fun (acc : BitVec 2048 × Bool × List Int) (e : Nat) =>
    let c := d.codeAt rd (j + e)
    let sh : Nat := e * b + 2048 - 2048 * k
    let v : Nat := c.1 * 2 ^ sh / 2 ^ 2048
    (acc.1 ||| BitVec.ofNat 2048 v, acc.2.1 || c.2.1,
      if c.2.2 && decide (2048 * k ≤ e * b) then acc.2.2 ++ [j + e] else acc.2.2)) (0#2048, false, [])

/-- The 64-byte granules of memory that item `k` reads. -/
def Desc.itemGranules (d : Desc) (j : Int) (k : Nat) : List Nat :=
  (itemElems d.bits k).foldl (fun acc (e : Nat) =>
    match d.place (j + (e : Int)) with
    | .elem o _ =>
      let sp := elemSpan d.base d.bits o
      (granulesOf sp.1 sp.2).foldl (fun a g => setIns g a) acc
    | _ => acc) []

/-- The element codes that a store of items writes: offset and code in stream order, with the dropped indices. Elements cut
off at the end are not written (R611). -/
def Desc.storeElems (d : Desc) (j : Int) (items : List (BitVec 2048)) : List (Int × Nat) × List Int :=
  let b := d.bits
  let n := items.length * 2048 / b
  let bits : Nat := (items.foldr (fun it acc => it.toNat + acc * 2 ^ 2048) 0)
  (List.range n).foldl (fun (acc : List (Int × Nat) × List Int) (e : Nat) =>
    match d.place (j + e) with
    | .elem o _ => (acc.1 ++ [(o, fld bits (e * b) b)], acc.2)
    | _ => (acc.1, acc.2 ++ [j + e])) ([], [])

/-- Runs of consecutive element offsets: the first offset and the codes. -/
def runsOf : List (Int × Nat) → List (Int × List Nat)
  | [] => []
  | (o, c) :: rest =>
    match runsOf rest with
    | (o', cs) :: rs => if o' = o + 1 then (o, c :: cs) :: rs else (o, [c]) :: (o', cs) :: rs
    | [] => [(o, [c])]

/-- The byte writes of a run: address, bytes, and the mask of the bits written in each byte. Bytes that are shared with
elements not written stand in pieces of their own. -/
def runPieces (base b : Nat) (o : Int) (codes : List Nat) : List (Nat × List Byte × Byte) :=
  let bit : Int := o * b
  let a := ((base : Int) + bit / 8).toNat
  let sh := (bit % 8).toNat
  let total := codes.length * b
  let v := (codes.foldr (fun c acc => c % 2 ^ b + acc * 2 ^ b) 0) * 2 ^ sh
  let n := cdiv (sh + total) 8
  let bs := toBytes n v
  let tail := (sh + total) % 8
  if n ≤ 1 then
    if sh = 0 ∧ tail = 0 then [(a, bs, 0xFF#8)] else [(a, bs, BitVec.ofNat 8 ((2 ^ total - 1) * 2 ^ sh))]
  else
    let first := if sh = 0 then [] else [(a, bs.take 1, BitVec.ofNat 8 (256 - 2 ^ sh))]
    let last := if tail = 0 then [] else [(a + n - 1, bs.drop (n - 1), BitVec.ofNat 8 (2 ^ tail - 1))]
    let lo := if sh = 0 then 0 else 1
    let hi := if tail = 0 then n else n - 1
    let mid := if hi ≤ lo then [] else [(a + lo, (bs.take hi).drop lo, 0xFF#8)]
    first ++ mid ++ last

/-- Of several writes to one offset, keeps the one that the free choice names (R156, stack memory). -/
def surviveOne (n : Nat) (l : List (Int × Nat)) : List (Int × Nat) :=
  l.filter fun e =>
    let same := l.filter fun e' => decide (e'.1 = e.1)
    decide (same[(Config.survivor n) % same.length]? = some e)

/-- The byte writes of stored elements, in order; in stack memory one of several colliding writes survives (R156). -/
def Desc.storePieces (d : Desc) (n : Nat) (els : List (Int × Nat)) : List (Nat × List Byte × Byte) :=
  let els' := if spaceOf d.base = 0 then surviveOne n els else els
  (runsOf els').foldl (fun acc r => acc ++ runPieces d.base d.bits r.1 r.2) []

/-- Cuts a byte write at 64-byte granules (R295, R304). -/
def granulePieces (a : Nat) (bs : List Byte) : List (Nat × List Byte) :=
  (granulesOf a bs.length).map fun g =>
    let lo := max a (g * 64)
    (lo, (bs.drop (lo - a)).take (g * 64 + 64 - lo))

/-! ### Checks at use (R151 to R156, R614) -/

/-- The uses of a descriptor, as the checks tell them apart (R141, R151). -/
inductive Use where
  | move (write : Bool)
  | copyItems (write : Bool)
  | scalar (write : Bool)
  | vecRead
  | vecWrite
  | curveLoad
  | matFixed
  | matStream
  | matDrain
  | copySrc
  | copyDst (code : Bool)
deriving DecidableEq, Repr

/-- Whether a use writes. -/
def Use.writes : Use → Bool
  | .move w => w
  | .copyItems w => w
  | .scalar w => w
  | .vecWrite => true
  | .matDrain => true
  | .copyDst _ => true
  | _ => false

/-- Formats the matrix engine accepts (R123, R141). -/
def matFormat (f : Nat) : Bool :=
  [0x02, 0x03, 0x04, 0x05, 0x08, 0x09, 0x0E, 0x0F].contains f || (0x10 ≤ f && f ≤ 0x15) || (0x18 ≤ f && f ≤ 0x1B) || fmtIsCode f

/-- Whether a format is accepted at a use (R120, R141, R172). -/
def useFormat (u : Use) (f : Nat) : Bool :=
  match u with
  | .vecWrite => !fmtIsCode f
  | .matDrain => !fmtIsCode f
  | .copyDst code => code || !fmtIsCode f
  | .matFixed => matFormat f
  | .matStream => matFormat f
  | _ => true

/-- Whether a use needs the own scratchpad (R124, R131). -/
def useOwn : Use → Bool
  | .vecRead => true
  | .vecWrite => true
  | .curveLoad => true
  | .matFixed => true
  | .matStream => true
  | .matDrain => true
  | _ => false

/-- Whether a space is allowed at a use (check 13 of R151). -/
def useSpace (u : Use) (sp : Nat) : Bool :=
  match u with
  | .scalar _ => true
  | .move w => sp != 4 || w
  | _ => sp != 3 && sp != 4

/-- g of R149. -/
def strideUnit (b : Nat) : Nat := if b = 4 then 2 else if b = 6 then 4 else if b = 1 then 8 else 1

/-- The stride rules of R149. -/
def Desc.stridesOk (d : Desc) : Bool :=
  let ss := d.str.take d.rank
  let outer := ss.drop 1
  let g := strideUnit d.bits
  let unit0 := ss.headD 1 == 1
  (g == 1 || (unit0 && outer.all fun x => x % (g : Int) == 0)) &&
  (!fmtIsScaled d.fmt || (unit0 && (d.blockSize == 0 || outer.all fun x => x % (d.blockSize : Int) == 0)))

/-- The first check of R151 that a descriptor fails at a use by a tile; none if all pass. The matrix and copy checks 12, 14
and 15 belong to those engines. -/
def Desc.check (d : Desc) (u : Use) (tile : Nat) : Option Nat :=
  if !d.valid then some 1
  else if fmtInfo d.fmt = none then some 2
  else if d.rank = 0 ∨ d.rank = 7 ∨ (d.view = 1 ∧ 4 < d.rank) then some 3
  else if (d.ext.take d.rank).any (· == 0) then some 4
  else if (fmtScale d.fmt == .none) != (d.block == 0) then some 5
  else if d.view = 3 ∨ (d.view = 2 ∧ d.base / 2 ^ 52 ≠ 2) then some 6
  else if !d.stridesOk then some 7
  else if d.view = 1 ∧ (d.rank ≤ d.wdim ∨ d.wrsv ∨ u.writes) then some 8
  else if !useFormat u d.fmt then some 9
  else if useOwn u && (d.table || spaceOf d.base != 2 || fld d.base 23 10 != tile) then some 10
  else if !d.table && !useSpace u (spaceOf d.base) then some 13
  else none

/-- The lowest dimension with a zero stride and an extent above 1 (R154). -/
def Desc.zeroStride (d : Desc) : Option Nat :=
  (List.range d.rank).find? fun i => d.str.getD i 1 == 0 && decide (1 < d.ext.getD i 0)

/-- Whether dimensions `a` and `b` meet at one element (R155). -/
def Desc.pairAliases (d : Desc) (a b : Nat) : Bool :=
  let sa := (d.str.getD a 0).natAbs
  let sb := (d.str.getD b 0).natAbs
  let ea := d.ext.getD a 0
  let eb := d.ext.getD b 0
  let meet (x y e : Nat) : Bool := 0 < x && y % x == 0 && 1 ≤ y / x && y / x ≤ e - 1
  decide (1 < ea) && decide (1 < eb) && (meet sa sb ea || meet sb sa eb)

/-- The first pair of dimensions that fails R155, as a bit mask. -/
def Desc.aliasMask (d : Desc) : Option Nat :=
  (List.range d.rank).foldl (fun acc a =>
    match acc with
    | some m => some m
    | none => ((List.range d.rank).find? fun b => decide (a < b) && d.pairAliases a b).map fun b => 2 ^ a + 2 ^ b) none

/-- The least and greatest source index that a dimension reaches; none if it reaches none (R152, R164). -/
def Desc.reach (d : Desc) (i : Nat) : Option (Nat × Nat) :=
  let e := d.ext.getD i 0
  if d.view = 1 ∧ i = d.wdim then
    let sg := d.wstride + 1
    (List.range (d.wk + 1)).foldl (fun acc k =>
      -- output positions o with 0 ≤ o σ + k δ − P < E
      let kd := k * (d.wdil + 1)
      let oLo := if kd ≤ d.wpad then cdiv (d.wpad - kd) sg else 0
      let top := e + d.wpad
      let oHi := if top ≤ kd then 0 else min d.wout (cdiv (top - kd) sg)
      if oLo < oHi then
        let lo := oLo * sg + kd - d.wpad
        let hi := (oHi - 1) * sg + kd - d.wpad
        match acc with
        | none => some (lo, hi)
        | some (l, h) => some (min l lo, max h hi)
      else acc) none
  else if e = 0 then none else some (0, e - 1)

/-- The least and greatest of Σ i_d × S_d over the indices that are reached. -/
def Desc.offsetRange (d : Desc) (str : List Int) : Option (Int × Int) :=
  (List.range d.rank).foldl (fun acc i =>
    match acc, d.reach i with
    | some (lo, hi), some (a, b) =>
      let st := str.getD i 0
      let x := (a : Int) * st
      let y := (b : Int) * st
      some (lo + min x y, hi + max x y)
    | _, _ => none) (some (0, 0))

/-- The byte ranges of a footprint, value array first: lowest byte and highest byte (R152). -/
def Desc.footprint (d : Desc) : List (Int × Int) :=
  match d.offsetRange d.str with
  | none => []
  | some (lo, hi) =>
    let b := d.bits
    let v := ((d.base : Int) + lo * b / 8, (d.base : Int) + (hi * b + b - 1) / 8)
    if !fmtIsScaled d.fmt then [v]
    else
      let bs := d.blockSize
      let t := tableBytes d.fmt
      let w := scaleBytes d.fmt
      let sBase := (d.base : Int) + d.scaleOff
      let str' := (1 : Int) :: (d.str.drop 1)
      match (if bs = 0 then none else d.offsetRange str') with
      | none => if t = 0 then [v] else [v, (sBase, sBase + t - 1)]
      | some (l, h) =>
        let ql := l / (bs : Int)
        let qh := h / (bs : Int)
        let lo' := sBase + t + ql * w
        let hi' := sBase + t + qh * w + w - 1
        [v, ((if t = 0 then lo' else min sBase lo'), hi')]

/-- The lowest offending address of a footprint, one of whose ranges ends outside the populated part of its space, or in another
space (R110, R152). -/
def State.footprintBad (s : State) (d : Desc) : Option Nat :=
  if d.table then none
  else
    let bad (x : Int) : Bool :=
      decide (x < 0) || spaceOf x.toNat != spaceOf d.base || !s.populated x.toNat ||
      (match decodeAddr x.toNat, decodeAddr d.base with
       | some (.spad t _), some (.spad t' _) => t != t'
       | _, _ => false)
    let lows := d.footprint.filterMap fun r =>
      if bad r.1 then some r.1 else if bad r.2 then some (s.firstBad r.1.toNat (r.2 - r.1 + 1).toNat : Int) else none
    match lows with
    | [] => none
    | x :: l => some (l.foldl min x % 2 ^ 56).toNat

/-- Whether every byte of a span lies within the footprint of a descriptor, in its value array or its scale array (R159). -/
def Desc.inFootprint (d : Desc) (a : Int) (n : Nat) : Bool :=
  if d.table then decide (0 ≤ a) && decide (a + n ≤ 65472)
  else (List.range n).all fun i => d.footprint.any fun r => decide (r.1 ≤ a + i) && decide (a + i ≤ r.2)

/-- A failure of a check: reason code and DETAIL (R110). -/
abbrev Failure := Nat × Nat

/-- The checks of R151 to R155 on one descriptor, without the footprint (R614). -/
def Desc.verify (d : Desc) (h : Nat) (u : Use) (tile : Nat) : Option Failure :=
  match d.check u tile with
  | some c => some (0x30, h + c * 1024)
  | none => none

/-- The checks of R154 and R155 on a write target (R614). -/
def Desc.verifyWrite (d : Desc) (h : Nat) : Option Failure :=
  match d.zeroStride with
  | some i => some (0x31, h + i * 1024)
  | none =>
    match d.aliasMask with
    | some m => some (0x32, h + m * 1024)
    | none => none

/-- The footprint check (R152, R614). -/
def State.verifySpace (s : State) (d : Desc) : Option Failure := (s.footprintBad d).map fun a => (0x20, a % 2 ^ 32)

/-- The first of several checks that fails. -/
def firstFailure : List (Option Failure) → Option Failure
  | [] => none
  | some f :: _ => some f
  | none :: l => firstFailure l

/-! ### Selectors (R56, R132, R612) -/

/-- What a 7-bit selector names. -/
inductive Sel where
  | vreg (n : Nat)
  | sreg (n : Nat)
  | queue (n : Nat)
  | stream
  | bad
deriving DecidableEq, Repr

/-- Decodes a selector (R56). -/
def selOf (x : BitVec 7) : Sel :=
  let n := x.toNat
  if n < 0x20 then .vreg n else if n < 0x40 then .sreg (n - 0x20) else if n < 0x44 then .queue (n - 0x40)
  else if n = 0x44 then .stream else .bad

/-- Registers of a group of `n` lanes (R131). -/
def groupRegs (v n : Nat) : List Nat := (List.range (cdiv n 256)).map (· + v)

/-- The width of a narrow format of vunpk and vpack, and its format code (R133). -/
def packFormat (f : Nat) : Option Nat :=
  match f with
  | 1 => some 0x02 | 2 => some 0x03 | 3 => some 0x04 | 4 => some 0x05 | 5 => some 0x08 | 6 => some 0x09
  | 7 => some 0x0E | 8 => some 0x0F | 9 => some 0x0A | 10 => some 0x0B | 11 => some 0x30
  | _ => none

/-- The format that OP[3:0] of an mmul names (R125). -/
def mmulFormat (f : Nat) : Option Nat :=
  match f with
  | 1 => some 0x02 | 2 => some 0x03 | 3 => some 0x04 | 4 => some 0x05 | 5 => some 0x08 | 6 => some 0x09
  | 7 => some 0x0E | 8 => some 0x0F
  | _ => none

/-- The second source of a scalar slot: the register, or the sign-extended immediate (R53, R58). -/
def src2Val (c : Nat → Reg64) (x : Src2) : Reg64 := if x.i then x.imm.signExtend 64 else c x.rb

end Sys2Proof.Machine
end

