-- ==== Sys2Proof/Machine/TileOps.lean ====
section
/-! DEFINITION. The tile between its commands: registers and pending writes, queues, windows, slips and replay, halts, the
work of one cycle, and the shared steps of a bundle's slots (R39 to R111, R598, R599, R613). -/

namespace Sys2Proof.Machine

/-! ### Register keys (R48): 0 to 31 s of A, 32 to 63 s of E, 64 a, 80 t, 96 v, 128 buffers, 130 curve slots, 1024 table
entries, 4096 accumulator units -/

/-- The key of a scalar register of a stream. -/
def sKey (st : Stream) (n : Nat) : Nat := match st with | .A => n | .E => 32 + n

/-- Scalar register of a stream; s0 reads as zero (R44). -/
def TileCore.getS (c : TileCore) (st : Stream) (n : Nat) : Reg64 :=
  if n = 0 then 0 else match st with | .A => mget 0 c.sA n | .E => mget 0 c.sE n

/-- Writes a scalar register; s0 discards (R44). -/
def TileCore.setS (c : TileCore) (st : Stream) (n : Nat) (v : Reg64) : TileCore :=
  if n = 0 then c
  else match st with
    | .A => { c with sA := mput 0 c.sA n v }
    | .E => { c with sE := mput 0 c.sE n v }

/-- Address and step registers (R45). -/
def TileCore.getA (c : TileCore) (n : Nat) : AReg := mget 0 c.aReg n
def TileCore.getT (c : TileCore) (n : Nat) : AReg := mget 0 c.tReg n

/-- Lane `i` of vector register `v` (R131). -/
def TileCore.getV (c : TileCore) (v i : Nat) : Lane := mget 0 c.vreg (v * 256 + i)

/-- The program counter, the stall, the loops and the next issue cycle of a stream. -/
def TileCore.pc (c : TileCore) : Stream → Nat | .A => c.pcA | .E => c.pcE
def TileCore.stall (c : TileCore) : Stream → Stall | .A => c.stallA | .E => c.stallE
def TileCore.loops (c : TileCore) : Stream → List LoopRec | .A => c.loopsA | .E => c.loopsE
def TileCore.next (c : TileCore) : Stream → Nat | .A => c.nextA | .E => c.nextE
def TileCore.setStall (c : TileCore) (st : Stream) (x : Stall) : TileCore :=
  match st with | .A => { c with stallA := x } | .E => { c with stallE := x }
def TileCore.setLoops (c : TileCore) (st : Stream) (x : List LoopRec) : TileCore :=
  match st with | .A => { c with loopsA := x } | .E => { c with loopsE := x }
def TileCore.setNext (c : TileCore) (st : Stream) (x : Nat) : TileCore :=
  match st with | .A => { c with nextA := x } | .E => { c with nextE := x }
def TileCore.setPc (c : TileCore) (st : Stream) (pc last : Nat) : TileCore :=
  match st with
  | .A => { c with pcA := pc, lastA := last }
  | .E => { c with pcE := pc, lastE := last }

/-- A queue of the tile: keys 0 to 3 LQ0 to LQ3, 4 to 7 SQ0 to SQ3. -/
def TileCore.queue (c : TileCore) (q : Nat) : List QItem := mget [] c.queues q
def TileCore.setQueue (c : TileCore) (q : Nat) (l : List QItem) : TileCore := { c with queues := mput [] c.queues q l }

/-- The queues a stream pops and pushes: E pops LQ and pushes SQ, A pops SQ and pushes LQ (R58). -/
def popQueue (st : Stream) (n : Nat) : Nat := match st with | .A => 4 + n | .E => n
def pushQueue (st : Stream) (n : Nat) : Nat := match st with | .A => n | .E => 4 + n

/-! ### Destinations of operations -/

/-- Whether a vector operation reduces to an E-stream scalar (R134). -/
def VOp.reduces : VOp → Bool
  | .redF _ => true
  | .redS _ => true
  | .redCnt => true
  | .redMaxI => true
  | _ => false

/-- How many sources an operation has (R133). -/
def VOp.arity : VOp → Nat
  | .ffma => 3 | .sel => 3
  | .fadd => 2 | .fsub => 2 | .fmul => 2 | .fmin => 2 | .fmax => 2 | .cmp => 2
  | .iadd => 2 | .isub => 2 | .imul => 2 | .saddS => 2 | .ssubS => 2 | .saddU => 2
  | .imin => 2 | .imax => 2 | .uminI => 2 | .umaxI => 2
  | .andB => 2 | .orB => 2 | .xorB => 2 | .shl => 2 | .shr => 2 | .sar => 2
  | .cload => 0
  | _ => 1

/-- The source selectors of a slot that an operation uses; the others are ignored (R133). -/
def vSources (op : VOp) (v : VSlot) : List Sel := ([v.src1, v.src2, v.src3].take op.arity).map selOf

/-- The queues that sources name, each once (R76). -/
def selPops (l : List Sel) : List Nat := (l.filterMap fun s => match s with | .queue q => some q | _ => none).eraseDups

/-- The width of the elements that a source queue of an operation carries (R132, R133). -/
def VOp.popBits (op : VOp) : Nat := match op with | .unpk f => (packFormat f).elim 32 fmtBits | _ => 32

/-- The register keys a vector operation writes (R48, R134, R140). -/
def vopDests (op : VOp) (v : VSlot) : List Nat :=
  if op.reduces then [32 + (v.dst.toNat - 0x20)]
  else if op = .cload then [130 + v.dst.toNat % 8]
  else match selOf v.dst with
    | .vreg n => (groupRegs n v.count.toNat).map (· + 96)
    | _ => []

/-- The rows of a drain or of a queue-streamed mmul (R125). -/
def slotRows (m : MSlot) : Nat := m.hb.toNat % 512 + 1

/-- The register keys a matrix operation writes (R48, R128, R130). -/
def mopDests (op : MOp) (m : MSlot) : List Nat :=
  match op with
  | .mld b => [128 + b.toNat]
  | .mmul _ _ => []
  | .mdrain wide =>
    match selOf m.dsel with
    | .vreg n => (List.range (cdiv (slotRows m * (if wide then 128 else 64)) 256)).map (· + (96 + n))
    | _ => []

/-- The table entries that bytes `lo` to `lo + len − 1` of the table view lie in (R143, R145). -/
def tableKeys (lo : Int) (len : Nat) : List Nat :=
  let a := if lo < 0 then 0 else lo.toNat
  let z : Nat := min (lo + len).toNat 65472
  if z ≤ a then [] else (List.range ((z - 1) / 64 - a / 64 + 1)).map (· + (1024 + a / 64))

/-- The table entries that a store of `items` items writes. -/
def CopyDest.tableEntries (d : CopyDest) (items : Nat) : List Nat :=
  if 64 < d.desc.length then tableKeys d.index (256 * items) else []

/-- The register keys that a running operation has still to write. -/
def Act.dests (a : Act) : List Nat :=
  match a.kind with
  | .popStore _ left got (.desc d) => d.tableEntries (got.length + left)
  | .copy _ _ _ d count _ _ _ => d.tableEntries count
  | .popReg _ r => [r]
  | .vector op v _ _ outs =>
    if op.reduces then vopDests op v
    else match selOf v.dst with
      | .vreg n => ((groupRegs n v.count.toNat).filter fun r => decide (outs.length < 256 * (r - n + 1)) &&
          decide (outs.length < v.count.toNat)).map (· + 96)
      | _ => []
  | .drain wide m _ rows step _ =>
    match selOf m.dsel with
    | .vreg _ => if step < rows then mopDests (.mdrain wide) m else []
    | _ => []
  | _ => []

/-- Whether a register's write is pending for a bundle other than `seq` (R48, R145). s0 never is. -/
def Tile.isPending (t : Tile) (seq key : Nat) : Bool :=
  if key = 0 ∨ key = 32 then false
  else
    t.core.writes.any (fun w => decide (w.key = key) && decide (t.cycle < w.due) && decide (w.seq ≠ seq)) ||
    t.sloads.any (fun l => decide (l.sreg = key) && decide (l.seq ≠ seq)) ||
    t.core.acts.any (fun a => decide (a.seq ≠ seq) && a.dests.contains key) ||
    t.core.vwait.any (fun w => decide (w.seq ≠ seq) && (vopDests w.op w.slot).contains key) ||
    t.core.mwait.any (fun w => decide (w.seq ≠ seq) && (mopDests w.op w.slot).contains key) ||
    decide (t.cycle < mget 0 t.core.ready key)

/-! ### Pending writes -/

/-- Appends a write that becomes readable at a cycle and that a rollback to a window up to `epoch` undoes. -/
def Tile.writeIn (t : Tile) (epoch key due win seq : Nat) (poison : Bool) (val : PendVal) : Tile :=
  { t with core := { t.core with writes := t.core.writes ++
      [{ key := key, due := due, win := win, epoch := epoch, seq := seq, poison := poison, val := val }] } }

/-- Appends a write that becomes readable at a cycle. -/
def Tile.write (t : Tile) (key due win seq : Nat) (poison : Bool) (val : PendVal) : Tile :=
  t.writeIn t.newest key due win seq poison val

/-- Sets or clears the poison mark of a register. -/
def TileCore.mark (c : TileCore) (key : Nat) (p : Bool) : TileCore :=
  { c with poisoned := if p then setIns key c.poisoned else setDel key c.poisoned }

/-- Writes lanes of a register. -/
def putLanes (m : SMap Lane) (v : Nat) : List (Nat × Lane) → SMap Lane
  | [] => m
  | (i, x) :: l => putLanes (mput 0 m (v * 256 + i) x) v l

/-- The registers and the table after a pending write. -/
def TileCore.land (c : TileCore) (w : PendWrite) : TileCore :=
  match w.val with
  | .sreg v =>
    if w.key = 0 ∨ w.key = 32 then c
    else (if w.key < 32 then c.setS .A w.key v else c.setS .E (w.key - 32) v).mark w.key w.poison
  | .areg v =>
    (if w.key < 80 then { c with aReg := mput 0 c.aReg (w.key - 64) v }
     else { c with tReg := mput 0 c.tReg (w.key - 80) v } : TileCore).mark w.key w.poison
  | .lanes vals =>
    let p := w.poison || (c.poisoned.contains w.key && decide (vals.length < 256))
    ({ c with vreg := putLanes c.vreg (w.key - 96) vals } : TileCore).mark w.key p
  | .table a bs mask => { c with desc := memWrite c.desc a (maskBytes c.desc a mask bs) }
  | .bytes _ _ _ => c
  | .mark => c

/-- Applies one pending write. A register write that an earlier window had under way is put into the checkpoints of the windows
opened since, so that no rollback to them takes it back or makes it twice (R91, R96, R97). -/
def Tile.applyWrite (t : Tile) (w : PendWrite) : Tile :=
  match w.val with
  | .bytes a bs mask => t.spadWrite w.epoch w.win a (maskBytes t.spad a mask bs) w.poison
  | _ =>
    { t with core := t.core.land w
             windows := t.windows.map fun x => if w.epoch < x.id then { x with ckpt := x.ckpt.land w } else x }

/-- Inserts a write by the order of its bundle, so that the later-issued bundle's write survives (R48). -/
def insertWrite (w : PendWrite) : List PendWrite → List PendWrite
  | [] => [w]
  | x :: l => if w.seq < x.seq then w :: x :: l else x :: insertWrite w l

/-- Applies the writes that are due by cycle `c`. -/
def Tile.applyDue (t : Tile) (c : Nat) : Tile :=
  let due := (t.core.writes.filter fun w => decide (w.due ≤ c)).foldl (fun l w => insertWrite w l) []
  let rest := t.core.writes.filter fun w => !decide (w.due ≤ c)
  due.foldl (fun x w => x.applyWrite w) { t with core := { t.core with writes := rest } }

/-! ### Queues (R73 to R77, R598) -/

/-- Adds one to 16-bit field `i` of a count register, saturating (R81). -/
def bump16 (x : BitVec 64) (i : Nat) : BitVec 64 :=
  if fld x.toNat (16 * i) 16 = 65535 then x else x + BitVec.ofNat 64 (2 ^ (16 * i))

/-- Adds one to 8-bit field `i` of a count register, saturating (R82). -/
def bump8 (x : BitVec 64) (i : Nat) : BitVec 64 :=
  if fld x.toNat (8 * i) 8 = 255 then x else x + BitVec.ofNat 64 (2 ^ (8 * i))

/-- Pops the head of a queue in the current cycle: none if it holds no item that can be popped, which is the idle item. The
check bits of word 0 are tested at the pop (R74, R77). -/
def Tile.pop (t : Tile) (q : Nat) : Tile × Option QItem :=
  match t.core.queue q with
  | [] => (t, none)
  | it :: rest =>
    if t.cycle < it.readyAt then (t, none)
    else
      let t1 := { t with core := t.core.setQueue q rest }
      if it.flips = 1 then
        (if q < 4 then { t1 with lqCe := bump16 t1.lqCe q } else { t1 with sqCe := bump16 t1.sqCe (q - 4) },
          some { it with flips := 0 })
      else if it.flips = 2 then
        ({ t1 with qUe := bump8 t1.qUe q, ueSeen := t1.ueSeen + 1 }, some { it with flips := 0, poison := true, payload := it.payload ^^^ 3#2048 })
      else (t1, some it)

/-- Pushes an item as it stands, check bits included: it can be popped from the next cycle on, POPDLY cycles later in a
perturbed queue, and takes a requested flip (R73, R77, R598). Gives the item as the queue stores it. -/
def Tile.push (t : Tile) (q : Nat) (item : QItem) : Tile × QItem :=
  let p := t.pert.toNat
  let dly := if (fld p 4 8).testBit q then fld p 0 4 else 0
  let go := p.testBit 33 && decide (fld p 30 3 = q)
  let mode := fld p 28 2
  let flip := if go && (mode == 1 || mode == 2) then mode else 0
  let it : QItem := { item with readyAt := t.cycle + 1 + dly, flips := if flip = 0 then item.flips else flip }
  ({ t with core := t.core.setQueue q (t.core.queue q ++ [it])
            pert := if go then setBit t.pert 33 false else t.pert
            pertFlips := if flip = 0 then t.pertFlips else satInc t.pertFlips }, it)

/-! ### Slips -/

/-- Records a slip detected in the current cycle (R88). -/
def Tile.slip (t : Tile) (kind : Nat) (st : Stream) (pc win : Nat) : Tile :=
  { t with slipNow := t.slipNow ++ [{ kind := kind, stream := st, pc := pc, win := win }] }

/-- A kernel range's slip count before any slip. -/
def SlipCnt.zero : SlipCnt := { count := 0, lastKind := 0, lastStream := false, lastPc := 0 }

/-- The kernel range that a bundle's address falls in; entry 15 if none (R101, R102). -/
def Tile.kernelOf (t : Tile) (pc : Nat) : Nat :=
  ((List.range 16).find? fun i =>
    let r := (mget 0 t.krange i).toNat
    r.testBit 23 && decide (fld r 0 23 ≤ pc) && decide (pc ≤ fld r 32 23)).getD 15

/-- Counts a slip by kernel and by kind (R101, R103, R104). -/
def Tile.countSlip (t : Tile) (x : SlipRec) : Tile :=
  let i := t.kernelOf x.pc
  let c := mget SlipCnt.zero t.slips i
  let c1 : SlipCnt := { count := satInc c.count, lastKind := BitVec.ofNat 2 x.kind, lastStream := x.stream == .E
                        lastPc := BitVec.ofNat 23 x.pc }
  { t with slips := mput SlipCnt.zero t.slips i c1, slipKind := bump16 t.slipKind (x.kind - 1) }

/-- Undoes the newest records of the newest window until `mark` of them are left. -/
def Tile.unwindTo (t : Tile) (mark : Nat) : Tile :=
  match t.windows.reverse with
  | [] => t
  | w :: ws =>
    let n := w.undo.length - mark
    let t1 := (w.undo.take n).foldl (fun x e => x.undoOne e.what) t
    { t1 with windows := (({ w with undo := w.undo.drop n } : Window) :: ws).reverse }

/-- The bytes of the own scratchpad that writes of unconfirmed windows are on their way to, each with its window, once for each
window; a window that records nothing is left out (R613). -/
def Tile.comingBytes (t : Tile) : List (Nat × Nat) :=
  (t.core.writes.foldl (fun (l : List (Nat × Nat)) w =>
    match w.val with
    | .bytes a bs _ =>
      if t.windows.any fun x => decide (x.id = w.win) && !x.solo then l ++ (List.range bs.length).map fun i => (w.win, a + i) else l
    | _ => l) []).eraseDups

/-- The bytes in the undo log (R91, R97, R105): those that unconfirmed windows have written, and those that they are about to
write in the own scratchpad. -/
def Tile.undoTotal (t : Tile) : Nat :=
  let done := t.windows.foldl (fun n w => w.undo.foldl (fun k e => if t.unconfirmed e.owner then k + e.bytes else k) n) 0
  done + (t.comingBytes.filter fun x => decide (undoHad x.1 (.spad x.2 0) t.windows = 0)).length

/-- Whether an operation makes a held effect when it ends: it will make it again if it runs again after a rollback. -/
def Act.makesEffect (a : Act) : Bool :=
  match a.kind with
  | .popStore _ _ _ _ => true
  | .copy _ _ _ _ _ _ _ _ => true
  | _ => false

/-- A window as it opens, with its checkpoint (R89, R91). A write that is still on its way then lands in the tile and in the
checkpoint whatever happens, and is not part of it. -/
def Window.fresh (id cycle : Nat) (c : TileCore) : Window :=
  { id := id, bundles := 0, closing := false, closed := false, opened := cycle, lastIssue := cycle, ckpt := { c with writes := [] }
    undo := [], items := [], held := [], solo := false, halting := false, lastPc := 0, lastStream := .A }

/-- Operations that were under way when a checkpoint was taken go on from there, `d` cycles later, and both streams issue from
cycle `c` on (R97). -/
def TileCore.resume (x : TileCore) (c d : Nat) : TileCore :=
  { x with acts := x.acts.map fun a => { a with start := a.start + d }, nextA := c, nextE := c }

/-- The queues' item log behind a checkpoint, in arrival order: the items of loads issued before it (R91, R97). -/
def itemsSince (id : Nat) (ws : List Window) : List (Nat × Nat × QItem) :=
  (ws.foldl (fun l x => l ++ x.items) []).filter fun i => decide (i.2.1 < id)

/-- Rolls the tile back to the checkpoint of window `id` (R97): later windows and their held effects go; every write made since,
by the windows that go and by earlier ones that were still running, is taken back; queues and registers come from the checkpoint,
from which the earlier windows' operations run again; the item log's items are to be pushed again first. The rollback takes
70 + ceil(U ÷ 512) cycles. -/
def Tile.rollback (t : Tile) (id : Nat) : Tile :=
  let older := t.windows.filter fun w => decide (w.id < id)
  let gone := t.windows.filter fun w => !decide (w.id < id)
  match gone with
  | [] => { t with slipNow := [] }
  | w :: _ =>
    let until_ := t.cycle + 71 + cdiv t.undoTotal 512
    let t1 := (gone.reverse.foldl (fun l x => l ++ x.undo) []).foldl (fun x e => x.undoOne e.what) t
    let again := itemsSince id gone
    let reload := (List.range again.length).filterMap fun k => again[k]?.map fun i =>
      ({ id := t.nextLoad + k, win := id, seq := 0, q := i.1, pc := 0, nextAt := until_, cls := 6, rate := 1, pushed := 0
         count := 1, items := [i.2.2], desc := [], index := 0, data := [], poison := [], missing := [] } : LoadIP)
    let redo := (w.ckpt.acts.filter (·.makesEffect)).map (·.seq)
    let older' := older.map fun x => { x with held := x.held.filter fun h => !(redo.contains (h.1 / 2) && h.1 % 2 == 0) }
    { t1 with
      core := { w.ckpt with writes := t.core.writes.filter fun x => decide (x.epoch < id) }
      windows := older' ++ [{ Window.fresh id w.opened w.ckpt with lastIssue := until_ }]
      loads := reload ++ t.loads.filter (fun l => decide (l.win < id))
      sloads := t.sloads.filter (fun l => decide (l.win < id))
      nextLoad := t.nextLoad + again.length
      classFree := [], pathReq := [], ghosts := []
      fences := t.fences.filter (fun f => decide (f.win < id))
      cur := none, blockA := none, blockE := none, haltPend := none, slipNow := [], mode := .rollback until_, consWin := id }

/-- Takes the slips of the current cycle: each is counted, and the tile rolls back to the oldest window charged (R97). -/
def Tile.takeSlips (t : Tile) : Tile :=
  match t.slipNow with
  | [] => t
  | x :: xs =>
    let id := xs.foldl (fun m y => min m y.win) x.win
    { ((x :: xs).foldl (fun a y => a.countSlip y) t).rollback id with slipSeen := x :: xs }

/-! ### Windows -/

/-- The open window. -/
def Tile.openWin (t : Tile) : Option Window :=
  match t.windows.reverse with
  | w :: _ => if w.closed then none else some w
  | [] => none

/-- Replaces the newest window. -/
def Tile.setLast (t : Tile) (w : Window) : Tile :=
  match t.windows.reverse with
  | [] => t
  | _ :: ws => { t with windows := (w :: ws).reverse }

/-- Items of issued loads that have not been pushed (R92). -/
def Tile.inFlight (t : Tile) : Nat := t.loads.foldl (fun n l => if l.q < 8 then n + (l.count - l.pushed) else n) 0

/-- Both streams have stopped (R42). -/
def TileCore.ended (c : TileCore) : Bool := c.stallA == .ended && c.stallE == .ended

/-- At the end of a cycle the open window closes when it is due and at most 512 items are in flight, and a new window opens
in the next cycle while fewer than four are unconfirmed (R89, R90, R92). `cycle` is the cycle that has ended. -/
def Tile.turnWindows (t : Tile) (cycle : Nat) : Tile :=
  let t1 := match t.openWin with
    | some w =>
      if (w.closing || decide (64 ≤ w.bundles) || t.core.ended) && decide (t.inFlight ≤ 512) then
        t.setLast { w with closed := true }
      else t
    | none => t
  match t1.openWin with
  | some _ => t1
  | none =>
    if t1.core.ended || decide (4 ≤ t1.windows.length) then t1
    else { t1 with windows := t1.windows ++ [Window.fresh t1.nextWin (cycle + 1) t1.core], nextWin := t1.nextWin + 1 }

/-- Adds a held effect to window `id`, in issue order: the store slot of bundle `seq` before its sync slot (R93, R94). -/
def insertHeld (k : Nat) (e : Held) : List (Nat × Held) → List (Nat × Held)
  | [] => [(k, e)]
  | h :: l => if k < h.1 then (k, e) :: h :: l else h :: insertHeld k e l

def Tile.hold (t : Tile) (id key : Nat) (o : Origin) (e : Effect) : Tile :=
  { t with windows := t.windows.map fun w =>
      if w.id = id then { w with held := insertHeld key { origin := o, eff := e } w.held } else w }

/-- The origin of what a bundle does. -/
def BundleIP.origin (b : BundleIP) : Origin := { stream := b.stream, pc := b.pc }

/-- Whether every slot action of window `id` has completed (R90). -/
def Tile.actionsDone (t : Tile) (id : Nat) : Bool :=
  !(t.loads.any fun l => decide (l.win = id) && decide (l.q < 8)) &&
  !(t.sloads.any fun l => decide (l.win = id)) &&
  !(t.core.acts.any fun a => decide (a.win = id)) &&
  !(t.core.vwait.any fun w => decide (w.win = id)) &&
  !(t.core.mwait.any fun w => decide (w.win = id)) &&
  !(t.core.writes.any fun w => decide (w.win = id) && decide (t.cycle < w.due))

/-- Whether the tile replays in conservative mode (R98). -/
def Tile.conservative (t : Tile) : Bool := t.mode == .conservative

/-- TIL_TS_STAT (R105). -/
def Tile.tsWord (t : Tile) : Nat :=
  min 4 t.windows.length + bitAt t.conservative 3 +
    min 1023 (t.releaseQ.length + t.windows.foldl (fun n w => n + w.held.length) 0) * 2 ^ 8 +
    min (2 ^ 20 - 1) t.undoTotal * 2 ^ 32 + min 512 (t.windows.foldl (fun n w => n + w.items.length) 0) * 2 ^ 52

/-! ### Scalar loads -/

/-- A scalar load whose data is complete: its register is written no earlier than the nominal figure, and the scalar cache takes its
lines if it may (R48, R64, R86, R296). The write belongs to the load's window: no rollback to a later one takes it back. -/
def Tile.landScalar (t : Tile) (l : ScalarLoad) : Tile :=
  let v := ofBytes (memRead l.data l.addr l.width)
  let t1 := { t with sloads := t.sloads.filter (fun x => x.id != l.id) }
  let t2 := if l.sreg = 0 then t1
    else t1.writeIn l.win l.sreg (max l.due (t.cycle + 1)) l.win l.seq (!l.poison.isEmpty) (.sreg (BitVec.ofNat 64 v))
  if l.fill && l.poison.isEmpty then
    (granulesOf l.addr l.width).foldl (fun x g =>
      let order := x.cacheOrder.filter (· != g) ++ [g]
      let out := order.length - 128
      let gone := order.take out
      { x with cacheOrder := order.drop out
               cache := mput 0 (x.cache.filter fun e => !gone.contains e.1) g (BitVec.ofNat 512 (ofBytes (memRead l.data (g * 64) 64))) })
      t2.logCache
  else t2

/-- Bytes of a scalar load return (R61): with the last of them its register is written. -/
def Tile.returnScalar (t : Tile) (id a : Nat) (bs : List Byte) (poison : Bool) : Tile :=
  match t.sloads.find? (fun l => l.id == id) with
  | none => t
  | some l =>
    let gs := granulesOf a bs.length
    let l1 := { l with data := memWrite l.data a bs, missing := l.missing.filter (fun g => !gs.contains g)
                       poison := if poison then l.poison ++ gs else l.poison }
    let t1 := { t with sloads := t.sloads.map fun x => if x.id = id then l1 else x }
    if l1.missing.isEmpty then t1.landScalar l1 else t1

/-! ### The reader of a tile -/

/-- Memory outside the tile as its loads see it: region memory and other tiles' scratchpads (R95). Stack and host memory
return through their own paths. -/
def State.outside (s : State) : Reader := fun a =>
  match decodeAddr a with
  | some (.region r o) => (memGet (s.region r).mem o, poisonRead (s.region r).poison o 1)
  | some (.spad t o) => ((s.tile t).outsideByte o, (s.tile t).outsidePoison o)
  | _ => (0, false)

/-- Memory as tile `n` with state `t` reads it: its own scratchpad and table directly. -/
def Tile.reader (t : Tile) (n : Nat) (out : Reader) : Reader := fun a =>
  if a / 2 ^ 52 = 15 then (memGet t.core.desc (a % 2 ^ 52), false)
  else match decodeAddr a with
    | some (.spad m o) => if m = n then (memGet t.spad o, poisonRead t.spadPoison o 1) else out a
    | _ => out a

/-- Memory as the returned pieces of a load hold it. -/
def LoadIP.reader (l : LoadIP) : Reader := fun a => (memGet l.data a, l.poison.contains (a / 64))

/-- Counts out-of-bounds elements (R157, R161, R162). -/
def TileCore.countOob (c : TileCore) (write : Bool) (st : Stream) (h : Nat) (idx : List Int) : TileCore :=
  match idx.getLast? with
  | none => c
  | some j =>
    let last := BitVec.ofNat 64 (h % 1024 + (if write then 1024 else 0) + (if st == .E then 2048 else 0) + ucode 32 j * 2 ^ 32)
    if write then { c with oobWrite := satAdd c.oobWrite idx.length, oobLast := last }
    else { c with oobRead := satAdd c.oobRead idx.length, oobLast := last }

/-! ### Stores through descriptors -/

/-- The bytes of items, one after another. -/
def itemsBytes (l : List QItem) : List Byte := l.foldl (fun acc it => acc ++ toBytes 256 it.payload.toNat) []

/-- The byte writes of stored items; those toward another module keep the items apart (R446). -/
def Desc.itemPieces (d : Desc) (seq : Nat) (index : Int) (items : List QItem) (els : List (Int × Nat)) : List (Nat × List Byte × Byte) :=
  if spaceOf d.base = 4 ∧ 0x1000000000 ≤ d.base % 2 ^ 52 ∧ 2048 % d.bits = 0 then
    (items.mapIdx fun k it => d.storePieces seq (d.storeElems (index + (k * (2048 / d.bits) : Nat)) [it.payload]).1).flatten
  else d.storePieces seq els

/-- Whether a byte address is in the tile's own scratchpad, or in its table view, where a store is applied at once (R93). -/
def ownPlace (n : Nat) (d : Desc) (a : Nat) : Bool := d.table || (decide (spaceOf a = 2) && decide (fld a 23 10 = n))

/-- Appends byte writes to the own scratchpad and table, pending until `due`. -/
def Tile.writeOwn (t : Tile) (n due win seq : Nat) (d : Desc) (p : Bool) (pcs : List (Nat × List Byte × Byte)) : Tile :=
  pcs.foldl (fun x pc =>
    if !ownPlace n d pc.1 then x
    else if d.table then
      (granulePieces pc.1 pc.2.1).foldl (fun y g =>
        y.write (1024 + g.1 % 2 ^ 52 / 64) due win seq p (.table (g.1 % 2 ^ 52) g.2 pc.2.2)) x
    else x.write 8192 due win seq p (.bytes (pc.1 % 2 ^ 23) pc.2.1 pc.2.2)) t

/-- The elements that the item after `before` completes, as byte writes; those out of bounds; the item's poison (R611). -/
def CopyDest.newPieces (d : CopyDest) (n seq : Nat) (before after : List QItem) : List (Nat × List Byte × Byte) × List Int × Bool :=
  let ds := parseDesc d.desc n
  let all := ds.storeElems d.index (after.map (·.payload))
  let old := ds.storeElems d.index (before.map (·.payload))
  (ds.storePieces seq (all.1.drop old.1.length), all.2.drop old.2.length, (after.drop before.length).any (·.poison))

/-- An item that a store pops: what it completes in the own scratchpad is pending until `due` (R62, R86, R93, R157). Table
entries wait for the store's last item (R145). -/
def Tile.storeItem (t : Tile) (n due : Nat) (st : Stream) (win seq : Nat) (d : CopyDest) (before after : List QItem) : Tile :=
  let ds := parseDesc d.desc n
  let x := d.newPieces n seq before after
  ({ t with core := t.core.countOob true st d.h x.2.1 } : Tile).writeOwn n due win seq ds x.2.2 (if ds.table then [] else x.1)

/-- The table entries that a store of items writes: all become readable at `due` (R145). -/
def Tile.storeTable (t : Tile) (n due win seq : Nat) (d : CopyDest) (items : List QItem) : Tile :=
  let ds := parseDesc d.desc n
  let p := items.any (·.poison)
  if ds.table then t.writeOwn n due win seq ds p (ds.storePieces seq (ds.storeElems d.index (items.map (·.payload))).1) else t

/-- The byte writes of the items that a st.cp has copied, in order, each with its poison flag. -/
def CopyDest.made (d : CopyDest) (n seq : Nat) (got : List QItem) : List ((Nat × List Byte × Byte) × Bool) :=
  ((List.range got.length).map fun k =>
    let x := d.newPieces n seq (got.take k) (got.take (k + 1))
    x.1.map fun pc => (pc, x.2.2)).flatten

/-- Memory as it reads once byte writes have been made over it. -/
def overReader (rd : Reader) (pcs : List ((Nat × List Byte × Byte) × Bool)) : Reader := fun a =>
  pcs.foldl (fun x y =>
    let lo := y.1.1
    let hi := lo + y.1.2.1.length
    let g := a / 64 * 64
    let v := if lo ≤ a ∧ a < hi then maskByte x.1 (y.1.2.1.getD (a - lo) 0) y.1.2.2 else x.1
    (v, if lo ≤ g ∧ g + 64 ≤ hi then y.2 else x.2 || (y.2 && decide (lo < g + 64) && decide (g < hi)))) (rd a)

/-- Memory as a st.cp reads it: where its source and its destination may overlap, with the items copied so far (R168). -/
def CopyDest.behind (d : CopyDest) (n seq : Nat) (src : Desc) (got : List QItem) (rd : Reader) : Reader :=
  let dst := parseDesc d.desc n
  if src.footprint.any fun x => dst.footprint.any fun y => decide (x.1 ≤ y.2) && decide (y.1 ≤ x.2) then
    overReader rd (d.made n seq got)
  else rd

/-- The byte writes that a store of items makes outside the tile: held effects of the bundle (R62, R93, R611). -/
def Tile.storeHeld (t : Tile) (n win seq at_ : Nat) (d : CopyDest) (items : List QItem) : Tile :=
  let ds := parseDesc d.desc n
  let els := ds.storeElems d.index (items.map (·.payload))
  let p := items.any (·.poison)
  (ds.itemPieces seq d.index items els.1).foldl (fun x pc =>
    if ownPlace n ds pc.1 then x else x.hold win (2 * seq) { stream := .A, pc := at_ } (.write pc.1 pc.2.1 pc.2.2 p d.acid)) t

/-- Bytes of own memory that a store through a descriptor may write, for the undo log's room (R89, R613). -/
def ownBytes (n : Nat) (d : Desc) (len : Nat) : Nat :=
  if d.table then 0 else if spaceOf d.base = 2 ∧ fld d.base 23 10 = n then len else 0

/-- The row writes of an item of a long-form store (R83, R85): the bytes of item `k` in the rows they belong to. -/
def Tile.storeRows (t : Tile) (due win seq : Nat) (f : LongForm) (base : Int) (k : Nat) (it : QItem) : Tile :=
  let rb := f.rowbytes.toNat + 1
  let total := rb * (f.rows.toNat + 1)
  let bytes := toBytes 256 it.payload.toNat
  let lo := 256 * k
  let hi := min total (lo + 256)
  let rows := (List.range (f.rows.toNat + 1)).filter fun r => decide (r * rb < hi) && decide (lo < (r + 1) * rb)
  rows.foldl (fun x (r : Nat) =>
    let a := max lo (r * rb)
    let z := min hi ((r + 1) * rb)
    let dst := (base + r * f.rowstride.toInt + (a - r * rb : Nat)).toNat
    x.write 8192 due win seq it.poison (.bytes dst ((bytes.drop (a - lo)).take (z - a)) 0xFF#8)) t

/-! ### Running operations, one cycle at a time -/

/-- What a cycle's work hands on: the tile, the queues popped, and the pushes to make after the pops. -/
structure CycleIO where
  tile : Tile
  popped : List Nat
  pushes : List (Nat × QItem × Act)
deriving DecidableEq, Repr

/-- One pop of an operation in the current cycle. A queue gives one item per cycle; the later-issued popper gets the idle
item (R74, R136). In conservative mode a missing item pauses the operation instead. -/
def CycleIO.pop (io : CycleIO) (q : Nat) : CycleIO × Option QItem :=
  if io.popped.contains q then (io, none)
  else
    let r := io.tile.pop q
    ({ io with tile := r.1, popped := q :: io.popped }, r.2)

/-- The idle item (R74). -/
def QItem.idle : QItem := { payload := 0, poison := false, readyAt := 0, flips := 0 }

/-- Pops for an operation: an idle item slips (R88), or pauses the operation in conservative mode (none). -/
def CycleIO.popFor (io : CycleIO) (q : Nat) (a : Act) : CycleIO × Option QItem :=
  let r := io.pop q
  match r.2 with
  | some it => (r.1, some it)
  | none =>
    if io.tile.conservative then (io, none)
    else ({ r.1 with tile := r.1.tile.slip 1 a.stream a.pc a.win }, some QItem.idle)

/-- Whether a queue's head can be popped in the current cycle. -/
def Tile.headReady (t : Tile) (q : Nat) : Bool :=
  match t.core.queue q with
  | [] => false
  | it :: _ => decide (it.readyAt ≤ t.cycle)

/-- The queues that a running operation pops in the current cycle (R75, R612). -/
def Tile.popsNow (t : Tile) (a : Act) : List Nat :=
  if t.cycle < a.start then []
  else match a.kind with
    | .popStore q _ _ _ => [q]
    | .popReg q _ => [q]
    | .vector op v _ _ _ => if (t.cycle - a.start) * 2048 < v.count.toNat * op.popBits then selPops (vSources op v) else []
    | .matmul b f m _ _ _ _ bits _ =>
      match selOf m.bsel with
      | .queue q => if bits < (if b then t.buf1 else t.buf0).k * fmtBits ((mmulFormat f).getD 0) then [q] else []
      | _ => []
    | _ => []

/-- Whether a push finds no free stage in the current cycle, after its pop (R74, R98). -/
def Tile.noStage (t : Tile) (q : Nat) : Bool :=
  decide (16 ≤ (t.core.queue q).length) && !(t.headReady q && t.core.acts.any fun a => (t.popsNow a).contains q)

/-- Whether an operation has a push that is due in the current cycle. -/
def Tile.pushBlocked (t : Tile) (seq : Nat) : Bool :=
  t.core.acts.any fun p => decide (p.seq = seq) && decide (p.start ≤ t.cycle) && match p.kind with
    | .pushItem q _ => t.noStage q
    | _ => false

/-- Whether an operation has to pause in the current cycle of conservative mode: the next item of a queue that it pops is absent,
or an earlier operation pops it, or its push finds no free stage (R98). -/
def Tile.pauses (t : Tile) (a : Act) : Bool :=
  decide (a.start ≤ t.cycle) &&
  ((t.popsNow a).any (fun q => !t.headReady q || t.core.acts.any fun b => decide (b.seq < a.seq) && (t.popsNow b).contains q) ||
   match a.kind with
    | .pushItem q _ => t.noStage q
    | .vector _ _ _ _ _ => t.pushBlocked a.seq
    | .drain _ _ _ _ _ _ => t.pushBlocked a.seq
    | _ => false)

/-- Delays an operation by one cycle. -/
def Act.later (a : Act) : Act := { a with start := a.start + 1 }

/-- Whether an operation is a push. -/
def Act.isPush (a : Act) : Bool := match a.kind with | .pushItem _ _ => true | _ => false

/-- Sorts by a number, entries with the same number in the order they stand. -/
def insertBy {α : Type} (f : α → Nat) (x : α) : List α → List α
  | [] => [x]
  | y :: l => if f x < f y then x :: y :: l else y :: insertBy f x l
def sortBy {α : Type} (f : α → Nat) (l : List α) : List α := l.foldl (fun acc x => insertBy f x acc) []

/-- Performs the pushes of a cycle after its pops: a second push to one queue, and a push that meets 16 items, is an overrun
(R74, R88, R136). In conservative mode it waits. Gives the queues pushed. -/
def Tile.doPushes (t : Tile) : List (Nat × QItem × Act) → List Nat → Tile × List Nat
  | [], done => (t, done)
  | (q, it, a) :: l, done =>
    if done.contains q || decide (16 ≤ (t.core.queue q).length) then
      if t.conservative then ({ t with core := { t.core with acts := t.core.acts ++ [a] } } : Tile).doPushes l done
      else (t.slip 3 a.stream a.pc a.win).doPushes l done
    else (t.push q it).1.doPushes l (q :: done)

/-! ### The load return path (R615) -/

/-- The next item of a load, if its data has returned (R61, R86). -/
def LoadIP.nextItem (l : LoadIP) (n : Nat) : Option QItem :=
  match l.items with
  | [] =>
    let d := parseDesc l.desc n
    if l.desc.isEmpty || (d.itemGranules l.index l.pushed).any (fun g => l.missing.contains g) then none
    else
      let it := d.itemAt l.reader l.index l.pushed
      some { payload := it.1, poison := it.2.1, readyAt := 0, flips := 0 }
  | _ => l.items[l.pushed]?

/-- One push of the return path for the oldest load of queue `q`: after the cycle's other pushes, at its path class's rate, which
earlier-issued loads use first (R61, R615). A full queue is an overrun of the load, or holds the item in conservative mode (R74,
R98). The item log keeps an item of a load issued before the newest window (R91). -/
def Tile.pathPush (t : Tile) (n : Nat) (l : LoadIP) (done : List Nat) : Tile × List Nat :=
  let first := (t.loads.find? fun x => x.q == l.q && decide (x.pushed < x.count)).map (·.id)
  let full := decide (16 ≤ (t.core.queue l.q).length)
  match l.nextItem n with
  | none => (t, done)
  | some it =>
    if t.cycle < l.nextAt ∨ done.contains l.q ∨ first ≠ some l.id ∨ (l.cls ≠ 6 ∧ t.cycle < mget 0 t.pathFree l.cls) ∨
        (t.conservative = true ∧ full = true) then (t, done)
    else
      let l1 := { l with pushed := l.pushed + 1, nextAt := t.cycle + l.rate }
      let loads := t.loads.filterMap fun x => if x.id = l.id then (if l1.pushed < l1.count then some l1 else none) else some x
      let t1 : Tile := { t with loads := loads, pathFree := if l.cls = 6 then t.pathFree else mput 0 t.pathFree l.cls (t.cycle + l.rate) }
      if full then (t1.slip 3 .A l.pc l.win, l.q :: done)
      else
        let r := t1.push l.q it
        let log (w : Window) : Window := if w.id = t.newest ∧ l.win < w.id then { w with items := w.items ++ [(l.q, l.win, r.2)] } else w
        ({ r.1 with windows := r.1.windows.map log }, l.q :: done)

/-- The pushes that the return path makes in a cycle, its loads in issue order. -/
def Tile.runPath (t : Tile) (n : Nat) (done : List Nat) : Tile :=
  { (t.loads.foldl (fun (acc : Tile × List Nat) l =>
      if t.pathReq.contains l.q then acc.1.pathPush n l acc.2 else acc) (t, done)).1 with pathReq := [] }

/-- The queue accesses that a halting bundle would make in its issue cycle, behind those of the bundles before it: an idle item or
an overrun is a slip, which goes before the halt (R88, R106). -/
def Tile.ghostSlip (t : Tile) (start : Tile) (popped done : List Nat) (a : Act) : Tile :=
  let idle := ((start.popsNow a).filter fun q => popped.contains q || !start.headReady q).isEmpty
  match a.kind with
  | .pushItem q _ => if done.contains q || decide (16 ≤ (t.core.queue q).length) then t.slip 3 a.stream a.pc a.win else t
  | _ => if idle then t else t.slip 1 a.stream a.pc a.win

end Sys2Proof.Machine
end

