-- ==== Sys2Proof/Machine/Bundle.lean ====
section
/-! DEFINITION. A bundle's words: the header, and the commands that its granules spell (R49 to R57, R60 to R62, R83, R125,
R133). -/

namespace Sys2Proof.Machine

/-! ### The header (R49, R50) -/

/-- Slot present bits of a header (R49): 0 scalar, 1 vector, 2 matrix, 3 load, 4 store, 5 sync. -/
def hdrSlot (h : BitVec 64) (i : Nat) : Bool := h.getLsbD i

/-- The slots present, as a list of their bits. -/
def hdrSlots (h : BitVec 64) : List Nat := (List.range 6).filter (hdrSlot h)

/-- LONG of a header (R49). -/
def hdrLong (h : BitVec 64) : Nat := fld h.toNat 7 2

/-- A bundle's length in granules (R50). -/
def hdrLength (h : BitVec 64) : Nat :=
  1 + ((List.range 5).filter (hdrSlot h)).length + (if hdrLong h = 0 then 0 else 1)

/-- Whether a header breaks R39 or R51 for the stream that fetched it. -/
def hdrIllegal (h : BitVec 64) (st : Stream) : Bool :=
  let e := st == .E
  (h.getLsbD 6 != e) ||
  (if e then hdrSlot h 3 || hdrSlot h 4 || decide (hdrLong h ≠ 0)
   else hdrSlot h 1 || hdrSlot h 2) ||
  decide (hdrLong h = 3) || (decide (hdrLong h = 1) && !hdrSlot h 3) || (decide (hdrLong h = 2) && !hdrSlot h 4)

/-! ### The slots -/

/-- The second source of a scalar slot (R53). -/
def slotSrc2 (w : Nat) : Src2 :=
  { i := fld w 23 1 == 1, rb := Fin.ofNat 32 (fld w 18 5), imm := BitVec.ofNat 40 (fld w 24 40) }

/-- The command of a scalar slot (R53, R58): OP [7:0], RD [12:8], RA [17:13], RB [22:18], I [23], IMM [63:24]. -/
def decodeScalar (u : Issue) (w : Nat) : Option Instr :=
  let rd : Fin 32 := Fin.ofNat 32 (fld w 8 5)
  let ra : Fin 32 := Fin.ofNat 32 (fld w 13 5)
  let rb : Fin 32 := Fin.ofNat 32 (fld w 18 5)
  let i := fld w 23 1 == 1
  let imm := BitVec.ofNat 40 (fld w 24 40)
  let x := slotSrc2 w
  let branch (op : BranchOp) : Option Instr := some (.condBranch u op ra rb i imm)
  match fld w 0 8 with
  | 0x01 => some (.aluOp u .add rd ra x)
  | 0x02 => some (.aluOp u .sub rd ra x)
  | 0x03 => some (.aluOp u .band rd ra x)
  | 0x04 => some (.aluOp u .bor rd ra x)
  | 0x05 => some (.aluOp u .bxor rd ra x)
  | 0x06 => some (.aluOp u .shl rd ra x)
  | 0x07 => some (.aluOp u .shr rd ra x)
  | 0x08 => some (.aluOp u .sar rd ra x)
  | 0x09 => some (.mul u rd ra x)
  | 0x0A => some (.minMax u .min rd ra x)
  | 0x0B => some (.minMax u .max rd ra x)
  | 0x0C => some (.minMax u .minu rd ra x)
  | 0x0D => some (.minMax u .maxu rd ra x)
  | 0x0E => some (.setCompare u .slt rd ra x)
  | 0x0F => some (.setCompare u .sltu rd ra x)
  | 0x10 => some (.setCompare u .seq rd ra x)
  | 0x11 => some (.li u rd imm)
  | 0x12 => some (.seta u (Fin.ofNat 16 rd.val) x)
  | 0x13 => some (.sett u (Fin.ofNat 16 rd.val) x)
  | 0x14 => some (.rda u rd (Fin.ofNat 16 ra.val))
  | 0x15 => some (.rdt u rd (Fin.ofNat 16 ra.val))
  | 0x16 => some (.bind u (Fin.ofNat 16 rd.val) imm)
  | 0x17 => some (.rdlc u rd (Fin.ofNat 4 ra.val))
  | 0x18 => some (.rdreg u rd imm)
  | 0x20 => some (.jmp u imm)
  | 0x21 => branch .beq
  | 0x22 => branch .bne
  | 0x23 => branch .blt
  | 0x24 => branch .bge
  | 0x25 => branch .bltu
  | 0x26 => branch .bgeu
  | 0x28 => some (.loop u (Fin.ofNat 4 rd.val) ra i imm)
  | 0x29 => some (.lexit u)
  | 0x30 => some (.qput u (Fin.ofNat 4 rd.val) ra)
  | 0x31 => some (.qget u rd (Fin.ofNat 4 ra.val))
  | 0x32 => some (.qcnt u rd (Fin.ofNat 4 ra.val))
  | _ => none

/-- The command of a sync slot, from the header (R54, R60): OP [23:16], RA [28:24], RB [33:29], IMM [47:34]. -/
def decodeSync (u : Issue) (h : Nat) : Option Instr :=
  let ra : Fin 32 := Fin.ofNat 32 (fld h 24 5)
  let rb : Fin 32 := Fin.ofNat 32 (fld h 29 5)
  let imm := BitVec.ofNat 14 (fld h 34 14)
  match fld h 16 8 with
  | 0x01 => some (.sig u ra rb imm)
  | 0x02 => some (.sigT u ra rb imm)
  | 0x03 => some (.wait u ra rb imm)
  | 0x04 => some (.obs u ra rb imm)
  | 0x05 => some (.await u rb imm)
  | 0x06 => some (.acset u rb imm)
  | 0x07 => some (.fence u imm)
  | 0x08 => some (.bell u ra imm)
  | 0x09 => some (.qwait u imm)
  | 0x0A => some (.endOp u)
  | _ => none

/-- The fields of a long-form slot: granule 1 and granule 2 (R83). -/
def decodeLong (w w2 : Nat) : LongForm :=
  { areg := Fin.ofNat 16 (fld w 8 4), queue := Fin.ofNat 4 (fld w 12 2), spaddr := BitVec.ofNat 23 (fld w 15 23)
    rowbytes := BitVec.ofNat 14 (fld w 38 14), rowstride := BitVec.ofNat 24 (fld w2 0 24), rows := BitVec.ofNat 16 (fld w2 24 16) }

/-- COUNT of a queue form, in its three pieces (R55). -/
def slotCount (w : Nat) : BitVec 8 := BitVec.ofNat 8 (fld w 24 3 + fld w 27 2 * 8 + fld w 29 3 * 32)

/-- SREG of a scalar form, in its two pieces (R55). -/
def slotSreg (w : Nat) : Fin 32 := Fin.ofNat 32 (fld w 22 2 + fld w 24 3 * 4)

/-- WIDTH of a scalar form (R55). -/
def slotWidth (w : Nat) : Width := match fld w 27 2 with | 0 => .b1 | 1 => .b2 | 2 => .b4 | _ => .b8

/-- The command of a load slot (R55, R61, R83). -/
def decodeLoad (u : Issue) (w w2 : Nat) : Option Instr :=
  let h : Fin 1024 := Fin.ofNat 1024 (fld w 8 10)
  let a : Fin 16 := Fin.ofNat 16 (fld w 18 4)
  let vol := fld w 32 1 == 1
  let imm := BitVec.ofNat 24 (fld w 40 24)
  match fld w 0 8 with
  | 0x01 => some (.ldQ u h a (Fin.ofNat 4 (fld w 22 2)) (slotCount w) vol imm)
  | 0x02 => some (.ldS u h a (slotSreg w) (slotWidth w) vol imm)
  | 0x03 => some (.ldQL u (decodeLong w w2))
  | _ => none

/-- The command of a store slot (R55, R62, R83). -/
def decodeStore (u : Issue) (w w2 : Nat) : Option Instr :=
  let h : Fin 1024 := Fin.ofNat 1024 (fld w 8 10)
  let a : Fin 16 := Fin.ofNat 16 (fld w 18 4)
  let acid : Fin 64 := Fin.ofNat 64 (fld w 34 6)
  let imm := BitVec.ofNat 24 (fld w 40 24)
  match fld w 0 8 with
  | 0x01 => some (.stQ u h a (Fin.ofNat 4 (fld w 22 2)) (slotCount w) acid imm)
  | 0x02 => some (.stS u h a (slotSreg w) (slotWidth w) acid imm)
  | 0x03 => some (.stQL u (decodeLong w w2))
  | 0x04 => some (.stCp u h (Fin.ofNat 1024 (fld w 18 10)) (Fin.ofNat 16 (fld w 28 4)) (Fin.ofNat 16 (fld w 32 4))
      (BitVec.ofNat 8 (fld w 36 8)) (Fin.ofNat 64 (fld w 44 6)))
  | _ => none

/-- The fields of a vector slot (R56): DST [14:8], SRC1 [21:15], SRC2 [28:22], SRC3 [35:29], COUNT [51:36], HANDLE [61:52], MOD
[63:62]. -/
def slotVector (w : Nat) : VSlot :=
  { dst := BitVec.ofNat 7 (fld w 8 7), src1 := BitVec.ofNat 7 (fld w 15 7), src2 := BitVec.ofNat 7 (fld w 22 7)
    src3 := BitVec.ofNat 7 (fld w 29 7), count := BitVec.ofNat 16 (fld w 36 16), handle := Fin.ofNat 1024 (fld w 52 10)
    md := BitVec.ofNat 2 (fld w 62 2) }

/-- The command of a vector slot (R56, R133). -/
def decodeVector (u : Issue) (w : Nat) : Option Instr :=
  let v := slotVector w
  let op := fld w 0 8
  match op with
  | 0x01 => some (.vaddF32 u .add v)
  | 0x02 => some (.vaddF32 u .sub v)
  | 0x03 => some (.vaddF32 u .mul v)
  | 0x04 => some (.vfma u v)
  | 0x05 => some (.vminVmaxF32 u .min v)
  | 0x06 => some (.vminVmaxF32 u .max v)
  | 0x07 => some (.vabsVneg u .abs v)
  | 0x08 => some (.vabsVneg u .neg v)
  | 0x09 => some (.vmov u v)
  | 0x0A => some (.vcmp u v)
  | 0x0B => some (.vsel u v)
  | 0x10 => some (.vintArith u .add v)
  | 0x11 => some (.vsatArith u .addS v)
  | 0x12 => some (.vintArith u .sub v)
  | 0x13 => some (.vsatArith u .subS v)
  | 0x14 => some (.vintArith u .mul v)
  | 0x15 => some (.vintMinMax u .min v)
  | 0x16 => some (.vintMinMax u .max v)
  | 0x17 => some (.vintMinMax u .minu v)
  | 0x18 => some (.vintMinMax u .maxu v)
  | 0x19 => some (.vbitwise u .band v)
  | 0x1A => some (.vbitwise u .bor v)
  | 0x1B => some (.vbitwise u .bxor v)
  | 0x1C => some (.vshift u .shl v)
  | 0x1D => some (.vshift u .shr v)
  | 0x1E => some (.vshift u .sar v)
  | 0x1F => some (.vsatArith u .addU v)
  | 0x20 => some (.vcvtF32S32 u v)
  | 0x21 => some (.vcvtS32F32 u v)
  | 0x22 => some (.viota u v)
  | 0x38 => some (.vcload u v)
  | 0x40 => some (.vredF32 u .sum v)
  | 0x41 => some (.vredF32 u .max v)
  | 0x42 => some (.vredF32 u .min v)
  | 0x43 => some (.vredS32 u .sum v)
  | 0x44 => some (.vredS32 u .max v)
  | 0x45 => some (.vredcnt u v)
  | 0x46 => some (.vredmaxi u v)
  | _ =>
    if 0x30 ≤ op ∧ op < 0x38 then some (.vcurve u (Fin.ofNat 8 op) v)
    else if op / 16 = 6 then some (.vunpk u (Fin.ofNat 16 op) v)
    else if op / 16 = 7 then some (.vpack u (Fin.ofNat 16 op) v)
    else none

/-- The fields of a matrix slot (R57): HA [17:8], BSEL [24:18], HB [34:25], ACC [45:35], ACCMODE [47:46], DSEL [54:48]. -/
def slotMatrix (w : Nat) : MSlot :=
  { ha := Fin.ofNat 1024 (fld w 8 10), bsel := BitVec.ofNat 7 (fld w 18 7), hb := BitVec.ofNat 10 (fld w 25 10)
    acc := BitVec.ofNat 11 (fld w 35 11), accmode := BitVec.ofNat 2 (fld w 46 2), dsel := BitVec.ofNat 7 (fld w 48 7) }

/-- The command of a matrix slot (R57, R125). -/
def decodeMatrix (u : Issue) (w : Nat) : Option Instr :=
  let m := slotMatrix w
  let op := fld w 0 8
  match op with
  | 0x01 => some (.mld u false m)
  | 0x02 => some (.mld u true m)
  | 0x30 => some (.mdrain u true m)
  | 0x31 => some (.mdrain u false m)
  | _ =>
    if op / 16 = 1 then some (.mmul u false (Fin.ofNat 16 op) m)
    else if op / 16 = 2 then some (.mmul u true (Fin.ofNat 16 op) m)
    else none

/-- The granule of slot `i` behind its header (R49, R83): the slots stand in the order of their bits, a long form in two granules. -/
def slotIndex (h : BitVec 64) (i : Nat) : Nat :=
  1 + ((List.range i).filter (hdrSlot h)).length + (if i = 4 ∧ hdrLong h = 1 then 1 else 0)

/-- The command of slot `i` of a bundle whose granules are `g`, the header first; none for an opcode that is not listed (R51). -/
def decodeSlot (u : Issue) (g : Nat → Nat) (i : Nat) : Option Instr :=
  let k := slotIndex u.hdr i
  match i with
  | 0 => decodeScalar u (g k)
  | 1 => decodeVector u (g k)
  | 2 => decodeMatrix u (g k)
  | 3 => decodeLoad u (g k) (g (k + 1))
  | 4 => decodeStore u (g k) (g (k + 1))
  | _ => decodeSync u u.hdr.toNat

/-- The commands that a bundle spells, in the order of its slots; none if a slot carries an opcode that is not listed (R51). -/
def decodeBundle (u : Issue) (g : Nat → Nat) : Option (List Instr) :=
  match hdrSlots u.hdr with
  | [] => some [.bundleNop u]
  | l => l.mapM (decodeSlot u g)

/-- A granule of the scratchpad. -/
def Tile.granule (t : Tile) (a : Nat) : Nat := ofBytes (memRead t.spad a 8)

/-- Whether the bundle that a stream fetches from the scratchpad has the given header and carries an opcode that is not listed
(R40, R51). No command stands for such a slot: the bundle halts when the first command with its header comes. -/
def Tile.unlisted (t : Tile) (u : Issue) : Bool :=
  let pc := t.core.pc u.stream
  decide (t.granule pc = u.hdr.toNat) && (decodeBundle u fun i => t.granule (pc + 8 * i)).isNone

end Sys2Proof.Machine
end

