-- ==== Sys2Proof/Machine/Flags.lean ====
section
/-! DEFINITION. Status and flag words: what the registers of a tile report (R78 to R82, R101 to R109, R161, R162, R308,
R309, R597), and the words of the unit state table, the semaphores and a function's error registers. -/

namespace Sys2Proof.Machine

/-- TIL_PC (R78). -/
def Tile.pcWord (t : Tile) : Nat :=
  t.core.lastA % 2 ^ 23 + bitAt (t.core.stallA == .ended) 23 + t.core.lastE % 2 ^ 23 * 2 ^ 32 + bitAt (t.core.stallE == .ended) 55

/-- TIL_QSTAT (R80). -/
def Tile.qstatWord (t : Tile) : Nat :=
  (List.range 8).foldl (fun n q => n + (t.core.queue q).length * 2 ^ (8 * q)) 0

/-- TIL_HALT (R109). -/
def Tile.haltWord (t : Tile) : Nat :=
  t.halt.reason.toNat + bitAt t.halt.streamE 8 + t.halt.pc.toNat * 2 ^ 9 + t.halt.detail.toNat * 2 ^ 32

/-- TIL_SLIP_CNT_n (R103). -/
def SlipCnt.word (c : SlipCnt) : Nat :=
  c.count.toNat + c.lastKind.toNat * 2 ^ 32 + bitAt c.lastStream 34 + c.lastPc.toNat * 2 ^ 40

/-- A register of the TIL_ block by its offset; none where no register stands (R78 to R82, R101 to R109, R161, R162, R308,
R309, R597). TIL_TS_STAT of a running tile is as it stood at the start of the cycle (R105). -/
def Tile.tilReg (t : Tile) (off : Nat) : Option Nat :=
  match off with
  | 0x0000 => some t.pcWord
  | 0x0008 => some t.cycle
  | 0x0010 => some t.qstatWord
  | 0x0018 => some t.lqCe.toNat
  | 0x0020 => some t.sqCe.toNat
  | 0x0028 => some t.qUe.toNat
  | 0x0030 => some (if t.runs then t.tsSnap.toNat else t.tsWord)
  | 0x0038 => some t.haltWord
  | 0x0040 => some (t.slipKind.toNat % 2 ^ 48)
  | 0x0048 => some t.replayCyc.toNat
  | 0x0050 => some (t.core.oobRead.toNat + t.core.oobWrite.toNat * 2 ^ 32)
  | 0x0058 => some t.core.oobLast.toNat
  | 0x0400 => some t.thr.length
  | 0x0600 => some (t.pert.toNat % 2 ^ 34)
  | 0x0608 => some (t.pertSlips.toNat + t.pertFlips.toNat * 2 ^ 32)
  | _ =>
    if off % 8 ≠ 0 then none
    else if 0x100 ≤ off ∧ off < 0x180 then some (mget 0 t.krange ((off - 0x100) / 8)).toNat
    else if 0x180 ≤ off ∧ off < 0x200 then some (mget SlipCnt.zero t.slips ((off - 0x180) / 8)).word
    else if 0x200 ≤ off ∧ off < 0x400 then
      let c := mget ArrCnt.zero t.ac ((off - 0x200) / 8)
      some (c.count.toNat + bitAt c.wrap 32)
    else none

/-- LDG_UST_ENTRY (R25). -/
def UstEntry.word (x : UstEntry) : Nat :=
  x.allowed + x.reported * 2 ^ 4 + bitAt x.mismatch 7 + x.logical * 2 ^ 8 + bitAt x.unavailable 18 + x.fences.toNat * 2 ^ 32

/-- SEM_VAL_n (R328). -/
def Sem.word (x : Sem) : Nat :=
  x.value + x.lastScope * 2 ^ 24 + x.lastSrc * 2 ^ 32 + min 255 x.queue.length * 2 ^ 48 + min 255 x.observers.length * 2 ^ 56

/-- SEM_NTF_A_m (R330). -/
def NtfSlot.wordA (x : NtfSlot) : Nat :=
  x.sem + bitAt x.kind 16 + bitAt x.armed 17 + x.func * 2 ^ 18 + x.thresh * 2 ^ 32 + x.fired.toNat * 2 ^ 56

/-- LDG_INT_SRC_s (R502, R518). -/
def IntSrc.word (x : IntSrc) : Nat :=
  x.prio.toNat + x.target.toNat * 2 ^ 4 + bitAt x.en 6 + bitAt x.tileOk 7 + bitAt x.hostOk 8 +
    bitAt (x.count != 0#8 && !x.inSvc) 10 + bitAt x.inSvc 11 + x.owner.toNat * 2 ^ 12 + bitAt x.sat 14 + x.count.toNat * 2 ^ 16

/-- LDG_INT_PRIO_k (R520). -/
def State.prioWord (s : State) (k : Nat) : Nat :=
  let x := s.steward k
  x.running + x.stack.length * 2 ^ 5 + x.eoiErr.toNat * 2 ^ 32 + (if k = 0 then s.lodge.drops.toNat * 2 ^ 48 else 0)

end Sys2Proof.Machine
end

