-- ==== Sys2Proof/Machine/Registers.lean ====
section
/-! DEFINITION. Reads of register space by tiles: the blocks, the words they answer with, and the path figures (R7, R610); the reset values of
the timing tables (R199, R226, R227). -/

namespace Sys2Proof.Machine

/-- A register's width in bytes with its word. -/
abbrev RegWord := Nat × Nat

/-- The word of a RGN_ register (R179, R180, R332, R492, R600). -/
def Region.rgnReg (r : Region) (off : Nat) : Option Nat :=
  match off with
  | 0x0100 =>
    let tag := match r.cpyRun with | some c => fld c.1.item.toNat (8 * 0x90) 32 | none => r.cpyTag.toNat
    some (r.cpyQ.length + (if r.cpyRun.isSome then 1 else 0) + bitAt r.cpyRun.isSome 6 +
      bitAt (match r.cpyRun with | some c => c.1.staged | none => false) 7 + tag * 2 ^ 32)
  | 0x0108 => some r.cpyDone.toNat
  | 0x0110 => some (r.cpyStaged.toNat + r.cpyRefused.toNat * 2 ^ 32)
  | 0x0118 => some r.cpyBytes.toNat
  | 0x0300 => some (r.atomDone.toNat + r.atomRefused.toNat * 2 ^ 32)
  | 0x0500 => some (r.hdmaQ.length + bitAt r.hdmaRun 6 + r.hdmaShown * 2 ^ 32)
  | 0x0508 => some (r.hdmaDone.toNat + r.hdmaStopped.toNat * 2 ^ 32)
  | 0x0600 => some r.pert.toNat
  | _ => none

/-- A word of the SEM_ block (R328 to R332). -/
def State.semReg (s : State) (off : Nat) : Option Nat :=
  if off % 8 ≠ 0 then none
  else if off < 0x80000 then some (s.sema (off / 8)).word
  else if off < 0x80000 + 8 * 4097 then
    let q := s.quota ((off - 0x80000) / 8)
    some (q.1 + q.2 * 2 ^ 16)
  else if 0x100000 ≤ off ∧ off < 0x110000 then
    let n := mget NtfSlot.zero s.sem.ntf ((off - 0x100000) / 16)
    some (if off % 16 = 0 then n.wordA else n.b.toNat)
  else match off with
    | 0x200000 => some (s.sem.signals.toNat + s.sem.releases.toNat * 2 ^ 32)
    | 0x200008 => some s.sem.mismatchCnt.toNat
    | 0x200010 => some s.sem.mismatchLast.toNat
    | _ => none

/-- Entry 0 and the reserved entries of a timing table, which hold 0 whatever is written (R199, R226, R227, R233). -/
def tableReserved (e : Nat) : Bool := decide (e = 0) || (decide (22 ≤ e) && decide (e ≤ 47)) || decide (53 ≤ e)

/-- The value of table entry `e` of a band after reset. -/
def tableReset (band e : Nat) : Nat :=
  let pick (a b c d : Nat) : Nat := match band with | 0 => a | 1 => b | 2 => c | _ => d
  match e with
  | 1 => pick 18 18 18 20
  | 2 => pick 18 18 18 20
  | 3 => pick 40 40 40 44
  | 4 => pick 58 58 58 64
  | 5 => 2
  | 6 => 16
  | 7 => 4
  | 8 => pick 18 18 18 22
  | 9 => 8
  | 10 => 6
  | 11 => 1
  | 12 => 24
  | 13 => 10
  | 14 => pick 146 146 73 36
  | 15 => pick 192 192 192 216
  | 16 => 6
  | 17 => 32
  | 18 => 8
  | 19 => pick 5 5 6 6
  | 20 => pick 3 4 4 5
  | 21 => pick 0x40 0x40 0x42 0x44
  | 48 => 144
  | 49 => 8
  | 50 => 24
  | 51 => 16
  | 52 => 2
  | _ => 0

/-- A band's table entry, and its shadow's. -/
def Stack.table (k : Stack) (band e : Nat) : Nat := mget (tableReset band e) k.tables (band * 64 + e)
def Stack.shadow (k : Stack) (band e : Nat) : Nat := mget (tableReset band e) k.shadows (band * 64 + e)

/-- Bit counts: the low `n` bits of a word that a test sets. -/
def bitsOf (n : Nat) (f : Nat → Bool) : Nat := (List.range n).foldl (fun w i => w + bitAt (f i) i) 0

/-- The next VALID page in order from a page number on. -/
def Stack.nextValid (c : Stack) (p : Nat) : Option Nat := c.valid.find? fun q => decide (p ≤ q)

/-- The page of the scrubber's next visit: a queued page, else the next VALID page in order, else a page whose visit was dropped (R251 to
R254). -/
def Stack.nextVisit (c : Stack) : Option Nat :=
  match c.scrubQ.head? with
  | some q => some q
  | none => match c.nextValid (c.scrubPc * 524288 + c.scrubPage) with
    | some q => some q
    | none => c.scrubLate.head?

/-- A word of the STK_ block of stack `k` (R212 to R218, R233, R234, R250, R254, R259, R260, R287 to R290, R601): its width and value. -/
def State.stkReg (s : State) (n off : Nat) : Option RegWord :=
  let k := s.stack n
  let row := match k.prg with | some p => p.row % 2 ^ 13 | none => 0
  let visit := k.nextVisit.getD 0
  let tag := match k.prg with | some p => p.cmd.tag.toNat | none => k.lastTag.toNat
  match off with
  | 0x100 => some (8, k.startQ.length + bitAt k.prg.isSome 5 + bitAt k.preempt 6 + row * 2 ^ 8 + tag * 2 ^ 32)
  | 0x108 => some (8, k.errCode.toNat + k.errRow.toNat * 2 ^ 8 + k.errTag.toNat * 2 ^ 32)
  | 0x110 => some (8, k.engAvail.toNat)
  | 0x118 => some (8, bitsOf 64 fun p => decide ((s.engine n p).sleep = .awake))
  | 0x120 => some (8, k.holdMax.toNat + bitAt k.holdLock 63)
  | 0x128 => some (8, k.heldCnt.toNat + k.preemptCnt.toNat * 2 ^ 32)
  | 0x130 => some (8, k.tvAccess.toNat + k.tvRow.toNat * 2 ^ 32)
  | 0x138 => some (8, k.tvLast.toNat)
  | 0x140 => some (8, k.prgDone.toNat)
  | 0x148 => some (8, k.throttle.toNat)
  | 0x200 => some (8, k.band.toNat + k.bandReq.toNat * 2 ^ 2 + k.swap.toNat * 2 ^ 8)
  | 0x210 => some (8, k.eccCorr.toNat + k.eccUncorr.toNat * 2 ^ 32 + k.eccPoison.toNat * 2 ^ 48)
  | 0x218 => some (8, k.parRetry.toNat + k.parExhaust.toNat * 2 ^ 32)
  | 0x220 => some (8, k.errLast.toNat)
  | 0x228 => some (8, k.odecc.toNat)
  | 0x230 => some (8, k.scrubInt.toNat)
  | 0x238 => some (8, visit % 524288 + visit / 524288 * 2 ^ 19 + k.scrubPasses.toNat * 2 ^ 32)
  | 0x240 => some (8, k.clrPage.toNat + k.clrNpage.toNat * 2 ^ 20 + bitAt k.clrGo 63)
  | 0x248 => some (8, k.clrMask.toNat)
  | 0x250 => some (8, k.valid.length)
  | 0x258 => some (8, k.remap.length + k.repairSoft.toNat * 2 ^ 32)
  | 0x300 => some (8, k.attCfg.toNat)
  | 0x308 => some (8, k.attTbase.toNat)
  | 0x310 => some (8, k.attSnap.toNat)
  | 0x318 => some (8, k.kvSrc.toNat + k.kvDst.toNat * 2 ^ 32 + bitAt k.kvErr 62 + bitAt k.kvGo 63)
  | 0x320 => some (8, k.attPages.toNat + k.attMiss.toNat * 2 ^ 32 + k.attSkip.toNat * 2 ^ 48)
  | 0x400 => some (8, k.pert.toNat % 2 ^ 57)
  | _ =>
    if 0xC0000 ≤ off ∧ off < 0xC0400 ∧ off % 4 = 0 then some (4, k.table ((off - 0xC0000) / 0x100) ((off - 0xC0000) % 0x100 / 4))
    else if 0xC0400 ≤ off ∧ off < 0xC0800 ∧ off % 4 = 0 then some (4, k.shadow ((off - 0xC0400) / 0x100) ((off - 0xC0400) % 0x100 / 4))
    else none

/-- A word of the window table; the bits that its kind reserves read as zero (R6, R225). -/
def State.winReg (s : State) (off : Nat) : Option RegWord :=
  if 0x400 ≤ off ∨ off % 8 ≠ 0 then none
  else match s.job.windows[off / 16]? with
    | none => some (8, 0)
    | some w =>
      if off % 16 = 0 then some (8, bitAt w.valid 0 + w.kind * 2 + bitAt w.rmostly 3 + w.base / 2 ^ 20 * 2 ^ 8)
      else some (8, w.pbase + (w.npage - 1) * 2 ^ 20 +
        (if w.kind = 1 then 0 else w.stack * 2 ^ 40) + (if w.kind = 2 then (w.scount - 1) * 2 ^ 43 else 0))

/-- A word of the TMB_ block (R389 to R392). -/
def Tombola.reg (t : Tombola) (off : Nat) : Option Nat :=
  match off with
  | 0x100 => some (t.vocab + t.ntree * 2 ^ 24)
  | 0x108 => some t.parBase.toNat
  | 0x110 => some t.penBase.toNat
  | 0x118 => 
    let tag := match t.running with | some r => fld r.item.toNat (8 * 0x34) 32 | none => t.tag.toNat
    some (t.q.length + bitAt t.running.isSome 6 + tag * 2 ^ 32)
  | 0x120 => some (t.err.toNat + t.errTag.toNat * 2 ^ 32)
  | 0x128 => some (t.commands.toNat + t.empty.toNat * 2 ^ 32 + t.poisonCnt.toNat * 2 ^ 48)
  | _ => if 0x200 ≤ off ∧ off < 0x300 ∧ off % 8 = 0 then some (mget 0 t.tree ((off - 0x200) / 8)).toNat else none

/-- A word of the SRV_ block (R369, R370). -/
def Serving.reg (v : Serving) (off : Nat) : Option Nat :=
  match off with
  | 0x0 => some v.stepArea.toNat
  | 0x8 => some v.step.toNat
  | 0x10 => some (v.reruns.toNat + v.withdrawn.toNat * 2 ^ 32)
  | 0x18 => some v.bndMax.toNat
  | _ => none

/-- A word of a link's registers (R462, R603). -/
def Link.reg (x : Link) (off : Nat) : Option Nat :=
  match off with
  | 0x00 => some (bitAt x.en 0 + x.lane.toNat * 2 ^ 4 + x.serthr.toNat * 2 ^ 8)
  | 0x08 => some (x.state % 8 + x.lanes.toNat * 2 ^ 4 + x.spare % 8 * 2 ^ 9 + x.width.toNat * 2 ^ 12 + x.inv.toNat * 2 ^ 16 +
      x.ver.toNat * 2 ^ 24 + x.peer % 2 ^ 12 * 2 ^ 32 + x.fail % 2 ^ 4 * 2 ^ 44)
  | 0x10 => some (x.fecCorr.toNat + x.crcErr.toNat * 2 ^ 32 + x.replayCnt.toNat * 2 ^ 48)
  | 0x18 => some (x.retrains.toNat + x.swaps.toNat * 2 ^ 16 + x.resent.toNat * 2 ^ 32 + x.dropped.toNat * 2 ^ 48)
  | 0x20 => some x.pert.toNat
  | _ => none

/-- A word of the LNK_ block (R459 to R462). -/
def State.lnkReg (s : State) (off : Nat) : Option Nat :=
  let l := s.lnk
  if off % 8 ≠ 0 then none
  else if off = 0 then some (l.node.toNat + bitAt l.lock 63)
  else if off = 8 then some (l.inbound.toNat + l.outbound.toNat * 2 ^ 32)
  else if 0x8000 ≤ off ∧ off < 0x10000 then some (mget 0 l.route ((off - 0x8000) / 8)).toNat
  else if 0x10000 ≤ off ∧ off < 0x10200 then some (mget 0 l.allow ((off - 0x10000) / 8)).toNat
  else if 0x20000 ≤ off ∧ off < 0x20000 + 24 * 0x100 then (s.link ((off - 0x20000) / 0x100)).reg ((off - 0x20000) % 0x100)
  else if 0x30000 ≤ off ∧ off < 0x30400 then
    let n := (off - 0x30000) / 16
    some (if off % 16 = 0 then (mget 0 l.rwinA n).toNat else (mget 0 l.rwinB n).toNat)
  else none

/-- A word of the BND_ block (R463). -/
def Bandstand.reg (b : Bandstand) (off : Nat) : Option Nat :=
  match off with
  | 0x180 =>
    let two := match b.running with | some r => r.two | none => false
    let tag := match b.running with | some r => fld r.item.toNat (8 * 0x20) 32 | none => b.tag.toNat
    some (b.q.length + bitAt b.running.isSome 5 + bitAt two 6 + tag * 2 ^ 32)
  | 0x188 => some (b.err.toNat + b.errTag.toNat * 2 ^ 32)
  | 0x190 => some b.commands.toNat
  | _ =>
    if off % 8 ≠ 0 then none
    else if 0x100 ≤ off ∧ off < 0x180 then some (mget 0 b.grp ((off - 0x100) / 8)).toNat
    else if 0x1000 ≤ off ∧ off < 0x1000 + 512 * 16 then some (mget 0 b.gmem ((off - 0x1000) / 8)).toNat
    else none

/-- A word of the PWR_ block (R549 to R551). -/
def Power.reg (p : Power) (off : Nat) : Option Nat :=
  let each (m : SMap Nat) : Nat := (List.range 8).foldl (fun w k => w + mget 0 m k % 4 * 2 ^ (2 * k)) 0
  if off = 0 then
    some (p.clevel % 4 + p.ctherm % 4 * 4 + p.ccap % 4 * 16 + p.cguard % 4 * 64 + each p.slevel * 2 ^ 8 + each p.band * 2 ^ 32 +
      (if p.flowLost then 0x3FF else p.distrust.toNat) * 2 ^ 48)
  else if off = 0x1000 then some (p.guardCnt.toNat + p.capCnt.toNat * 2 ^ 16 + p.bandCnt.toNat * 2 ^ 32 + p.failCnt.toNat * 2 ^ 48)
  else if off % 8 ≠ 0 then none
  else if 0x100 ≤ off ∧ off < 0x400 then
    let c := (off - 0x100) / 8
    some ((mget 0 p.ch c).toNat + bitAt (p.chFail.contains c) 32)
  else if 0x800 ≤ off ∧ off < 0x800 + 8 * 136 then some (mget 0 p.hs ((off - 0x800) / 8)).toNat
  else none

/-- A register of register space as a tile reads it: its width in bytes and its word; none where no register stands or no
tile may read. -/
def State.devReg (s : State) (off : Nat) : Option RegWord :=
  if 0x10000000 ≤ off ∧ off < 0x10000000 + 96 * 0x10000 then
    let o := off - 0x10000000
    ((s.tile (o / 0x10000)).tilReg (o % 0x10000)).map fun w => (8, w)
  else if 0x20000000 ≤ off ∧ off < 0x20000000 + 8 * 0x10000 then
    let o := off - 0x20000000
    ((s.region (o / 0x10000)).rgnReg (o % 0x10000)).map fun w => (8, w)
  else if 0x30000000 ≤ off ∧ off < 0x30000000 + 8 * 0x100000 then
    s.stkReg ((off - 0x30000000) / 0x100000) ((off - 0x30000000) % 0x100000)
  else if 0x38000000 ≤ off ∧ off < 0x38000000 + 0x400 then s.winReg (off - 0x38000000)
  else if 0x40000000 ≤ off ∧ off < 0x40000000 + 0x1000000 then (s.semReg (off - 0x40000000)).map fun w => (8, w)
  else if 0x50000000 ≤ off ∧ off < 0x50000000 + 0x100000 then (s.serving.reg (off - 0x50000000)).map fun w => (8, w)
  else if 0x60000000 ≤ off ∧ off < 0x60000000 + 2 * 0x100000 then
    ((s.tombola ((off - 0x60000000) / 0x100000)).reg ((off - 0x60000000) % 0x100000)).map fun w => (8, w)
  else if 0x70000000 ≤ off ∧ off < 0x70000000 + 0x100000 then (s.lnkReg (off - 0x70000000)).map fun w => (8, w)
  else if 0x78000000 ≤ off ∧ off < 0x78000000 + 2 * 0x100000 then
    ((s.band ((off - 0x78000000) / 0x100000)).reg ((off - 0x78000000) % 0x100000)).map fun w => (8, w)
  else if 0x90000000 ≤ off ∧ off < 0x90000000 + 0x100000 then (s.power.reg (off - 0x90000000)).map fun w => (8, w)
  else none

/-- The register block that an offset of register space lies in, as the ld.q figure of the path from tile `n` (R610). -/
def regFigure (n off : Nat) : Nat :=
  let die := regionDie (tileRegion n)
  let cls (c : Nat) (a b d : Nat) : Nat := if c = 0 then a else if c = 1 then b else d
  if 0x10000000 ≤ off ∧ off < 0x20000000 then
    let t := (off - 0x10000000) / 0x10000
    if t = n then 6 else cls (pathClass (tileRegion n) (tileRegion t)) 24 48 96
  else if 0x20000000 ≤ off ∧ off < 0x30000000 then
    cls (pathClass (tileRegion n) ((off - 0x20000000) / 0x10000)) 32 56 104
  else if 0x30000000 ≤ off ∧ off < 0x38000000 then
    cls (pathClass (tileRegion n) ((off - 0x30000000) / 0x100000)) 176 208 272
  else if 0x38000000 ≤ off ∧ off < 0x40000000 then 176
  else if 0x40000000 ≤ off ∧ off < 0x50000000 then (if die = 0 then 56 else 104)
  else if 0x60000000 ≤ off ∧ off < 0x70000000 then (if (off - 0x60000000) / 0x100000 = die then 56 else 104)
  else if 0x70000000 ≤ off ∧ off < 0x78000000 then (if die = 0 then 80 else 128)
  else if 0x78000000 ≤ off ∧ off < 0x80000000 then (if (off - 0x78000000) / 0x100000 = die then 80 else 128)
  else if 0x1000000000 ≤ off then (if die = 0 then 80 else 128)
  else 400

/-- A read within the apertures of a stack controller: programme memory as it stands, vector staging as zero (R211). -/
def State.aperRead (s : State) (off w : Nat) : Option Nat :=
  if off < 0x30000000 ∨ 0x30000000 + 8 * 0x100000 ≤ off then none
  else
    let o := (off - 0x30000000) % 0x100000
    if o < 0x40000 ∨ 0xC0000 ≤ o ∨ off % w ≠ 0 then none
    else if o < 0x80000 then some (ofBytes (memRead (s.stack ((off - 0x30000000) / 0x100000)).prgMem (o - 0x40000) w))
    else some 0

/-- A tile's read of register space: the word, or zero with a register access error (R7). -/
def State.readReg (s : State) (a w : Nat) : State × Nat :=
  let off := a % 2 ^ 52
  match s.aperRead off w with
  | some v => (s, v)
  | none => match s.devReg off with
  | some (width, v) => if width = w ∧ off % w = 0 then (s, v) else (s.jobRegError a, 0)
  | none => (s.jobRegError a, 0)

end Sys2Proof.Machine
end

