-- ==== Sys2Proof/Machine/TileEngines.lean ====
section
/-! DEFINITION. What the vector and matrix engines compute (R123 to R140): lane operations, reductions, curve functions,
stream conversions, matrix rows and drains. -/

namespace Sys2Proof.Machine

/-! ### Lane types (R132, R133) -/

/-- How a lane's 32 bits are read. -/
inductive LaneTy where
  | f32
  | s32
  | u32
deriving DecidableEq, Repr

/-- The natural lane type of a format (R132). -/
def naturalTy (f : Nat) : LaneTy :=
  if fmtIsScaled f then .f32
  else match fmtInfo f with
    | some (.int true _, _) => .s32
    | some (.int false _, _) => .u32
    | some (.bit, _) => .u32
    | _ => .f32

/-- The lane type of the widened elements of vunpk and of the lanes that vpack narrows (R133). -/
def packTy (f : Nat) : LaneTy := match packFormat f with | some c => naturalTy c | none => .f32

/-- The lane type in which an operation takes its sources; none if it names no type. -/
def VOp.srcTy : VOp → Option LaneTy
  | .fadd => some .f32 | .fsub => some .f32 | .fmul => some .f32 | .ffma => some .f32
  | .fmin => some .f32 | .fmax => some .f32 | .fabs => some .f32 | .fneg => some .f32
  | .cmp => some .f32 | .cvtI => some .f32 | .curve _ => some .f32
  | .redF _ => some .f32 | .redMaxI => some .f32
  | .iadd => some .s32 | .isub => some .s32 | .imul => some .s32 | .saddS => some .s32 | .ssubS => some .s32
  | .imin => some .s32 | .imax => some .s32 | .cvtF => some .s32 | .iota => some .s32 | .sar => some .s32
  | .redS _ => some .s32
  | .saddU => some .u32 | .uminI => some .u32 | .umaxI => some .u32
  | .pack f => some (packTy f)
  | .unpk f => some (packTy f)
  | .mov => none | .sel => none | .andB => none | .orB => none | .xorB => none | .shl => none | .shr => none
  | .redCnt => none | .cload => none

/-- The lane type of an operation's result; none if it names no type. -/
def VOp.dstTy : VOp → Option LaneTy
  | .cmp => some .u32
  | .cvtF => some .f32
  | .cvtI => some .s32
  | op => op.srcTy

/-- Whether MOD is a rounding mode of an operation with this destination (R121, R132, R133). -/
def modRounds (op : VOp) (v : VSlot) : Bool :=
  match op with
  | .cmp => false
  | .cvtF => true
  | .cvtI => true
  | .pack f => packTy f == .f32
  | op => !op.reduces && selOf v.dst == .stream

/-- A value as a lane of a type (R122, R132). A stream element that its lane cannot hold exactly is rounded by mode 0, whatever the
operation's MOD names (DESIGN CHOICE, log entry 67). -/
def laneOfNum (ty : LaneTy) (v : Num) : Lane :=
  match ty with
  | .f32 => enc32 v
  | .s32 => BitVec.ofNat 32 (encodeInt true 32 0 v)
  | .u32 => BitVec.ofNat 32 (encodeInt false 32 0 v)

/-- The value of a lane read as a type. -/
def numOfLane (ty : LaneTy) (x : Lane) : Num :=
  match ty with
  | .f32 => dec32 x
  | .s32 => numOfInt x.toInt
  | .u32 => numOfInt x.toNat

/-- One bit of truth. -/
def lane1 (b : Bool) : Lane := if b then 1#32 else 0#32

/-- Saturation to signed and unsigned 32 bits. -/
def satS32 (i : Int) : Lane := BitVec.ofInt 32 (clampInt (-(2 ^ 31)) (2 ^ 31 - 1) i)
def satU32 (i : Int) : Lane := BitVec.ofInt 32 (clampInt 0 (2 ^ 32 - 1) i)

/-! ### Curve functions (R138, R139) -/

/-- A binary32 field of a curve table. -/
def curveF (m : Memory) (o : Nat) : Lane := BitVec.ofNat 32 (ofBytes (memRead m o 4))

/-- The polynomial of segment `s` at `d`, every step rounded. -/
def curvePoly (m : Memory) (s : Nat) (d : Lane) : Lane :=
  let c0 := curveF m (16 + 16 * s)
  let c1 := curveF m (16 + 16 * s + 4)
  let c2 := curveF m (16 + 16 * s + 8)
  f32Add c0 (f32Mul d (f32Add c1 (f32Mul d c2)))

/-- Whether a table's header is valid (R139). -/
def curveValid (m : Memory) : Bool :=
  let mode := (memGet m 0).toNat
  let aux := (memGet m 2).toNat
  let rules := (memGet m 3).toNat
  decide (mode ≤ 2) && decide ((memGet m 1).toNat ≠ 0) && decide (rules % 16 ≤ 3) && decide (rules / 16 ≤ 4) &&
    (if mode = 0 then decide (aux ≤ 2) else if mode = 2 then decide (aux = 1) || decide (aux = 2) else true)

/-- The value of a lane whose reduced argument lies at or beyond NSEG in an EXP2 or MANT table, which the manual leaves
open (a free value). -/
def curveOpen (x : Lane) : Lane := (Config.free64 x.toNat).truncate 32

/-- A segment polynomial at the fraction of `t`. -/
def curveSeg (m : Memory) (x t : Lane) : Lane :=
  let i := numFloor (dec32 t)
  if i < 0 ∨ ((memGet m 1).toNat : Int) ≤ i then curveOpen x
  else curvePoly m i.toNat (f32Sub t (enc32 (numOfInt i)))

/-- x × 2^k, exactly and then rounded as binary32 rounds. -/
def scale2 (x : Lane) (k : Int) : Lane := enc32 (numMul (dec32 x) (.fin false 1 (clampInt (-1000) 1000 k)))

/-- A curve function on one lane (R139). -/
def curveLane (m : Memory) (x : Lane) : Lane :=
  if isNan32 x ∨ curveValid m = false then nan32
  else
    let nseg : Int := (memGet m 1).toNat
    let aux := (memGet m 2).toNat
    let below := (memGet m 3).toNat % 16
    let above := (memGet m 3).toNat / 16
    let lo := curveF m 4
    let scale := curveF m 8
    match (memGet m 0).toNat with
    | 0 =>
      let u : Lane := if aux = 0 then x else x &&& 0x7FFFFFFF#32
      let t := f32Mul (f32Sub u lo) scale
      let at_ (rule : Nat) (seg : Nat) (dEdge : Lane) : Lane :=
        match rule with
        | 0 => curvePoly m seg dEdge
        | 1 => curvePoly m seg (f32Sub t (enc32 (numOfInt seg)))
        | 2 => u
        | 3 => 0#32
        | _ => 0x7F800000#32
      let r : Lane := match dec32 t with
        | .nan => nan32
        | .inf neg => if neg then at_ below 0 0#32 else at_ above (nseg.toNat - 1) 0x3F800000#32
        | v =>
          let i := numFloor v
          if i < 0 then at_ below 0 0#32
          else if nseg ≤ i then at_ above (nseg.toNat - 1) 0x3F800000#32
          else curvePoly m i.toNat (f32Sub t (enc32 (numOfInt i)))
      if aux = 1 ∧ numLt (dec32 x) (.fin false 0 0) = true then
        (if isNan32 r then r else r ^^^ 0x80000000#32) else r
    | 1 =>
      match dec32 x with
      | .inf neg => if neg then 0#32 else 0x7F800000#32
      | v =>
        let i := numFloor v
        let f := f32Sub x (enc32 (numOfInt i))
        scale2 (curveSeg m x (f32Mul f scale)) i
    | _ =>
      match dec32 x with
      | .inf neg => if aux = 1 then (if neg then 0x80000000#32 else 0#32) else if neg then nan32 else 0#32
      | .fin neg mm e =>
        if mm = 0 then (if neg then 0xFF800000#32 else 0x7F800000#32)
        else if aux = 2 ∧ neg = true then nan32
        else
          let k : Int := e + Nat.log2 mm
          let q : Int := k / (aux : Int)
          let mant := enc32 (.fin false mm (e - q * aux))
          let t := f32Mul (f32Sub mant 0x3F800000#32) scale
          let r := scale2 (curveSeg m x t) (-q)
          if neg then (if isNan32 r then r else r ^^^ 0x80000000#32) else r
      | .nan => nan32

/-! ### Lane operations (R133) -/

/-- One lane of an operation: MOD, element index, the sources, and the curve memory. -/
def laneOp (op : VOp) (md : Nat) (curve : SMap Memory) (i : Nat) (a b c : Lane) : Lane :=
  match op with
  | .fadd => f32Add a b
  | .fsub => f32Sub a b
  | .fmul => f32Mul a b
  | .ffma => f32Fma a b c
  | .fmin => f32MinMax false a b
  | .fmax => f32MinMax true a b
  | .fabs => a &&& 0x7FFFFFFF#32
  | .fneg => a ^^^ 0x80000000#32
  | .mov => a
  | .cmp =>
    let x := dec32 a
    let y := dec32 b
    match md with
    | 0 => lane1 (numEq x y)
    | 1 => lane1 (numLt x y)
    | 2 => lane1 (numLt x y || numEq x y)
    | _ => lane1 (isNan32 a || isNan32 b)
  | .sel => if c = 0#32 then b else a
  | .iadd => a + b
  | .isub => a - b
  | .imul => a * b
  | .saddS => satS32 (a.toInt + b.toInt)
  | .ssubS => satS32 (a.toInt - b.toInt)
  | .saddU => satU32 (a.toNat + b.toNat)
  | .imin => if a.slt b then a else b
  | .imax => if a.slt b then b else a
  | .uminI => if a.ult b then a else b
  | .umaxI => if a.ult b then b else a
  | .andB => a &&& b
  | .orB => a ||| b
  | .xorB => a ^^^ b
  | .shl => a <<< (b.toNat % 32)
  | .shr => a >>> (b.toNat % 32)
  | .sar => a.sshiftRight (b.toNat % 32)
  | .cvtF => BitVec.ofNat 32 (encodeFloat fmtF32 md (numOfInt a.toInt))
  | .cvtI => BitVec.ofNat 32 (encodeInt true 32 md (dec32 a))
  | .iota => BitVec.ofNat 32 i + a
  | .curve slot => curveLane (mget [] curve slot) a
  | .unpk _ => a
  | .pack f =>
    match packFormat f with
    | some c => BitVec.ofNat 32 (encodeElem c (if packTy f == .f32 then md else 0) (numOfLane (packTy f) a))
    | none => 0#32
  | _ => 0#32

/-! ### Reductions (R135) -/

/-- Combines adjacent entries. -/
def pairUp (f : Lane → Lane → Lane) : List Lane → List Lane
  | a :: b :: l => f a b :: pairUp f l
  | l => l

/-- Eight levels of the tree over 256 lanes. -/
def treePass (f : Lane → Lane → Lane) (l : List Lane) : Lane :=
  (pairUp f (pairUp f (pairUp f (pairUp f (pairUp f (pairUp f (pairUp f (pairUp f l)))))))).headD 0#32

/-- A reduction in the fixed order: 256 lanes a pass, passes combined in order. -/
def reduceLanes (f : Lane → Lane → Lane) (idn : Lane) (l : List Lane) : Lane :=
  let padded (x : List Lane) : List Lane := x ++ List.replicate (256 - x.length) idn
  match (chunks 256 (l.length + 1) l).map fun x => treePass f (padded x) with
  | [] => idn
  | t :: ts => ts.foldl f t

/-- The result of a reduction as the scalar register takes it (R134). -/
def reduceResult (op : VOp) (l : List Lane) : Reg64 :=
  let fmax := reduceLanes (f32MinMax true) 0xFF800000#32 l
  match op with
  | .redF .sum => (reduceLanes f32Add 0x80000000#32 l).zeroExtend 64
  | .redF .max => (if l.all isNan32 then nan32 else fmax).zeroExtend 64
  | .redF .min => (if l.all isNan32 then nan32 else reduceLanes (f32MinMax false) 0x7F800000#32 l).zeroExtend 64
  | .redS .sum => (reduceLanes (· + ·) 0#32 l).signExtend 64
  | .redS .max => (reduceLanes (fun a b => if a.slt b then b else a) 0x80000000#32 l).signExtend 64
  | .redCnt => BitVec.ofNat 64 (l.filter (· != 0#32)).length
  | .redMaxI =>
    if l.all isNan32 then 0xFFFFFFFF#64
    else BitVec.ofNat 64 (l.findIdx (· == fmax))
  | _ => 0

/-! ### Streams and items of the vector engine -/

/-- Lanes of 32 bits of an item (R132). -/
def itemLanes (it : QItem) : List (Lane × Bool) :=
  (List.range 64).map fun i => (it.payload.extractLsb' (32 * i) 32, it.poison)

/-- The widened elements of an item of a narrow format (R133). -/
def itemNarrow (f : Nat) (it : QItem) : List (Lane × Bool) :=
  match packFormat f with
  | some c =>
    let b := fmtBits c
    (List.range (2048 / b)).map fun i =>
      (laneOfNum (packTy f) (decodeElem c [] (fld it.payload.toNat (b * i) b)), it.poison)
  | none => []

/-- Packs lanes of `w` bits into an item, zeros behind them. -/
def packItem (w : Nat) (l : List (Lane × Bool)) : QItem :=
  let v := l.foldr (fun x acc => x.1.toNat % 2 ^ w + acc * 2 ^ w) 0
  { payload := BitVec.ofNat 2048 v, poison := l.any (·.2), readyAt := 0, flips := 0 }

/-- Element `e` of a stream source as a lane, with poison, and whether it is out of bounds (R132, R157). -/
def streamLane (d : Desc) (rd : Reader) (table : List Nat) (ty : LaneTy) (e : Nat) : (Lane × Bool) × Bool :=
  let r := d.valueAt rd table e
  ((laneOfNum ty r.1, r.2.1), r.2.2)

/-- Elements of an operand that have been delivered by the end of busy cycle `i` (R612): `w` is the element width of a queue
or stream operand. -/
def delivered (sel : Sel) (w i : Nat) : Nat :=
  match sel with
  | .queue _ => 2048 * (i + 1) / w
  | .stream => 2048 * (i + 1) / w
  | _ => 256 * (i + 1)

/-- The width that a queue or stream operand of an operation counts with (R132, R133, R612). -/
def operandWidth (op : VOp) (isDst : Bool) (sel : Sel) (d : Desc) : Nat :=
  match sel with
  | .stream => max 1 d.bits
  | .queue _ =>
    match op with
    | .unpk f => if isDst then 32 else (packFormat f).elim 32 fmtBits
    | .pack f => if isDst then (packFormat f).elim 32 fmtBits else 32
    | _ => 32
  | _ => 32

/-- The code writes of lanes to an unscaled stream destination, and the dropped indices (R132). -/
def streamStore (d : Desc) (ty : LaneTy) (mode lo : Nat) (l : List (Lane × Bool)) : List (Int × Nat) × List Int :=
  (List.range l.length).foldl (fun acc i =>
    let x := (l.getD i (0#32, false)).1
    match d.place (lo + i : Nat) with
    | .elem o _ => (acc.1 ++ [(o, encodeElem d.fmt mode (numOfLane ty x))], acc.2)
    | _ => (acc.1, acc.2 ++ [((lo + i : Nat) : Int)])) ([], [])

/-- The writes of lanes to a scaled stream destination of `n` elements: block by block along the innermost dimension, a block that
the count ends in filled with +0 (R118, R119, R132). The blocks whose last element is one of elements `lo` to `hi − 1` are
written. Gives element codes and scale writes. -/
def scaledStore (d : Desc) (ty : LaneTy) (mode n lo hi : Nat) (l : List (Lane × Bool)) :
    List (Int × Nat) × List (Nat × List Byte) × List Int :=
  let b := max 1 d.blockSize
  let e0 := max 1 (d.ext.headD 1)
  -- a block: its first element index and its length, which the end of a row cuts short
  let starts := (List.range n).filter fun j =>
    let e := min n (j + min b (e0 - j % e0))
    j % e0 % b == 0 && decide (lo < e) && decide (e ≤ hi)
  starts.foldl (fun (acc : List (Int × Nat) × List (Nat × List Byte) × List Int) (j : Nat) =>
    let len := min b (e0 - j % e0)
    let vals := (List.range len).map fun i =>
      if j + i < n then numOfLane ty (l.getD (j + i) (0#32, false)).1 else .fin false 0 0
    match d.place (j : Int) with
    | .elem o q =>
      let enc := encodeBlock d.fmt mode vals
      (acc.1 ++ (List.range len).map (fun (i : Nat) => (o + (i : Int), enc.2.getD i 0)),
        acc.2.1 ++ [(d.scaleAddr q, toBytes (scaleBytes d.fmt) enc.1)], acc.2.2)
    | _ => (acc.1, acc.2.1, acc.2.2 ++ (List.range (min len (n - j))).map fun i => ((j + i : Nat) : Int))) ([], [], [])

/-- Latency L of an elementwise operation and of a curve function (R86, R612). -/
def VOp.lat : VOp → Nat
  | .curve _ => 8
  | _ => 4

/-- The lanes of an operand at element `e`: a scalar is one lane for every element. -/
def srcLane (sel : Sel) (l : List (Lane × Bool)) (e : Nat) : Lane × Bool :=
  match sel with
  | .sreg _ => l.headD (0#32, false)
  | _ => l.getD e (0#32, false)

/-- Bytes of a stream destination are pending until visible. -/
def Tile.writePieces (t : Tile) (due win seq : Nat) (p : Bool) (l : List (Nat × List Byte × Byte)) : Tile :=
  l.foldl (fun x pc => x.write 8192 due win seq p (.bytes (pc.1 % 2 ^ 23) pc.2.1 pc.2.2)) t

/-- One busy cycle of a vector operation (R132, R133, R612): pops, stream reads, lane results, and their writes and pushes.
None for the operation when it has ended. An element of a block-scaled stream destination is written with the last element of its
block, whose scale it needs (DESIGN CHOICE, log entry 68). -/
def vectorCycle (n : Nat) (out : Reader) (io : CycleIO) (a : Act) (op : VOp) (v : VSlot) (desc : List Byte)
    (srcs : List (List (Lane × Bool))) (outs : List (Lane × Bool)) : CycleIO × Option Act :=
  let i := io.tile.cycle - a.start
  let cnt := v.count.toNat
  let d := parseDesc desc n
  let sels := vSources op v
  let dsel := selOf v.dst
  -- pops: one item of each named queue in each busy cycle that needs one
  let qs := selPops sels
  let w1 := operandWidth op false (.queue 0) d
  let r := qs.foldl (fun (acc : CycleIO × List (Nat × QItem)) q =>
    if i * 2048 < cnt * w1 then
      let x := acc.1.popFor q a
      (x.1, acc.2 ++ [(q, x.2.getD QItem.idle)])
    else acc) (io, [])
  let got := r.2
  let ty := fun (_ : Unit) => (op.srcTy.getD (naturalTy d.fmt))
  let rd := r.1.tile.reader n out
  let table := d.tableOf rd
  let fill := (List.range sels.length).foldl (fun (acc : List (List (Lane × Bool)) × List Int) k =>
    let have_ := srcs.getD k []
    match sels.getD k .bad with
    | .queue q =>
      let new := match got.find? (fun x => x.1 == q) with
        | some x => (match op with | .unpk f => itemNarrow f x.2 | _ => itemLanes x.2)
        | none => []
      (acc.1 ++ [have_ ++ new], acc.2)
    | .stream =>
      let hi := min cnt (delivered .stream (max 1 d.bits) i)
      let new := (List.range (hi - have_.length)).map fun e => streamLane d rd table (ty ()) (have_.length + e)
      let oob := ((List.range new.length).filter fun e => (new.getD e ((0#32, false), false)).2).map
        fun e => ((have_.length + e : Nat) : Int)
      (acc.1 ++ [have_ ++ new.map (·.1)], acc.2 ++ oob)
    | _ => (acc.1 ++ [have_], acc.2)) ([], [])
  let srcs' := fill.1
  let t1 : Tile := { r.1.tile with core := r.1.tile.core.countOob false .E v.handle.val fill.2 }
  let lo := outs.length
  let availS := (List.range sels.length).foldl (fun m k =>
    let s := sels.getD k .bad
    min m (delivered s (operandWidth op false s d) i)) cnt
  let hi := if op.reduces then availS else min availS (delivered dsel (operandWidth op true dsel d) i)
  let md := v.md.toNat
  let new := (List.range (hi - lo)).map fun k =>
    let e := lo + k
    let g (j : Nat) := srcLane (sels.getD j .bad) (srcs'.getD j []) e
    let x := g 0
    let y := g 1
    let z := g 2
    let p := (List.range sels.length).any fun j => (g j).2
    (if op.reduces then (x.1, p) else (laneOp op md t1.curve e x.1 y.1 z.1, p))
  let outs' := outs ++ new
  let L := op.lat
  let due := a.start + L + i
  let last := decide (hi = cnt)
  let t2 : Tile :=
    if op.reduces then
      (if last then t1.write (32 + (v.dst.toNat - 0x20)) (a.start + 11 + i + 1) a.win a.seq (outs'.any (·.2))
          (.sreg (reduceResult op (outs'.map (·.1)))) else t1)
    else match dsel with
      | .vreg r0 =>
        (groupRegs r0 cnt).foldl (fun x reg =>
          let base := (reg - r0) * 256
          let idx := (List.range 256).filter fun k => decide (lo ≤ base + k) && decide (base + k < hi)
          if idx.isEmpty then x
          else x.write (96 + reg) due a.win a.seq (idx.any fun k => (outs'.getD (base + k) (0#32, false)).2)
            (.lanes (idx.map fun k => (k, (outs'.getD (base + k) (0#32, false)).1)))) t1
      | .queue q =>
        let w := operandWidth op true dsel d
        let per := 2048 / w
        let items := (List.range (cdiv cnt per)).filter fun k =>
          let e := min cnt ((k + 1) * per)
          decide (lo < e) && decide (e ≤ hi)
        items.foldl (fun x k =>
          let it := packItem w ((outs'.drop (k * per)).take per)
          { x with core := { x.core with acts := x.core.acts ++
              [{ start := due, win := a.win, seq := a.seq, pc := a.pc, stream := .E, kind := .pushItem (4 + q) it }] } }) t1
      | .stream =>
        let dty := op.dstTy.getD (naturalTy d.fmt)
        let mode := if op == .cmp then 0 else md
        if fmtIsScaled d.fmt then
          let r := scaledStore d dty mode cnt lo hi outs'
          let p := outs'.any (·.2)
          let x := { t1 with core := t1.core.countOob true .E v.handle.val r.2.2 }
          let x := x.writePieces (due + 3) a.win a.seq p (d.storePieces a.seq r.1)
          x.writePieces (due + 3) a.win a.seq p (r.2.1.map fun y => (y.1, y.2, 0xFF#8))
        else
          let r := streamStore d dty mode lo new
          let x := { t1 with core := t1.core.countOob true .E v.handle.val r.2 }
          x.writePieces (due + 3) a.win a.seq (new.any (·.2)) (d.storePieces a.seq r.1)
      | _ => t1
  ({ r.1 with tile := t2 },
    if last then none else some { a with kind := .vector op v desc srcs' outs' })

/-! ### The matrix engine (R123 to R130) -/

/-- Width classes: 0 the 4-bit class, 1 the 8-bit class, 2 the 16-bit class (R123). -/
def matClass (f : Nat) : Nat :=
  if [0x0E, 0x0F, 0x14, 0x19, 0x1B].contains f then 0
  else if f = 0x02 ∨ f = 0x03 ∨ (0x23 ≤ f ∧ f ≤ 0x25) then 2 else 1

/-- K and N limits and accumulator units per row of a class (R123). -/
def classK (c : Nat) : Nat := if c = 0 then 512 else if c = 1 then 256 else 128
def classN (c : Nat) : Nat := if c = 2 then 64 else 128
def classUnits (c : Nat) : Nat := if c = 2 then 2 else 4

/-- The scale code of 1.0 (R158). -/
def oneScale (f : Nat) : Nat := match fmtScale f with | .half => 0x3C00 | _ => 127

/-- The scale code of element `j`: its block's scale, and 1.0 for a fill element (R150, R158). -/
def Desc.scaleCodeAt (d : Desc) (rd : Reader) (j : Int) : Nat :=
  match d.place j with
  | .elem _ q => ofBytes ((List.range (scaleBytes d.fmt)).map fun i => (rd (d.scaleAddr q + i)).1)
  | _ => oneScale d.fmt

/-- A buffer as an mld loads it from a descriptor in the own scratchpad (R125, R126), by the extents of its view. -/
def loadBuf (d : Desc) (rd : Reader) (h : Nat) : StatBuf :=
  let k := d.exts.headD 0
  let n := (d.exts.drop 1).headD 0
  let els := (List.range (k * n)).map fun (j : Nat) => d.codeAt rd (j : Int)
  let scales := if d.blockSize = 0 then [] else (List.range (k * n)).map fun (j : Nat) => d.scaleCodeAt rd (j : Int)
  { loaded := true, handle := h, fmt := d.fmt, k := k, n := n, block := d.blockSize, codes := els.map (·.1), scales := scales
    table := d.tableOf rd, poison := els.any (·.2.1) }

/-- The bytes of values, scales and table that an mld moves (R129). -/
def mldBytes (d : Desc) : Nat :=
  let k := d.exts.headD 0
  let n := (d.exts.drop 1).headD 0
  let b := d.blockSize
  cdiv (k * n * d.bits) 8 + (if b = 0 then 0 else cdiv k b * n * scaleBytes d.fmt) + tableBytes d.fmt

/-- Pairwise tree of binary32 additions in ascending order (R127). -/
def treeAdd : Nat → List Lane → Lane
  | 0, l => l.headD 0#32
  | fuel + 1, l => match l with
    | [] => 0#32
    | [x] => x
    | l => treeAdd fuel (pairUp f32Add l)

/-- Whether the numbers of a list are all the same. -/
def allSame (l : List Nat) : Bool := l.all fun x => x == l.headD 0

/-- The sum of a group whose positions share their scales: the products summed exactly and rounded once, then multiplied by the
product of the scales with one rounding (R127). -/
def groupSum (scaled : Bool) (prods : List Num) (sa sr : Num) : Lane :=
  let r := enc32 (numSum prods)
  if scaled then enc32 (numMul (dec32 r) (numMul sa sr)) else r

/-- One output value: groups summed exactly and rounded once, scaled in binary32, added in a tree (R127). The spec leaves open,
and the model settles (DESIGN CHOICE, log entry 66): an exactly zero group sum is +0, since `numSum` starts there; G is 32 for a
codebook operand without block scales, or the other operand's block size; a group of a sliding-window view in which the scales
differ is the exact sum of its scaled products, rounded once, after positions that contribute zero are left out. -/
def dotValue (sb : StatBuf) (col : Nat) (fmtR : Nat) (blockR : Nat) (rowCodes : List Nat) (rowScales : List Nat)
    (rowTable : List Nat) : Lane :=
  let g0 := if sb.block = 0 then blockR else if blockR = 0 then sb.block else min sb.block blockR
  let g := if g0 = 0 then 32 else g0
  let scaled := decide (g0 ≠ 0)
  let ca (k : Nat) : Nat := if sb.block = 0 then 0 else sb.scales.getD (col * sb.k + k) 0
  let cr (k : Nat) : Nat := if blockR = 0 then 0 else rowScales.getD k 0
  let sa (k : Nat) : Num := if sb.block = 0 then Num.fin false 1 0 else decodeScale sb.fmt (ca k)
  let sr (k : Nat) : Num := if blockR = 0 then Num.fin false 1 0 else decodeScale fmtR (cr k)
  let prod (k : Nat) : Num :=
    numMul (decodeElem sb.fmt sb.table (sb.codes.getD (col * sb.k + k) 0)) (decodeElem fmtR rowTable (rowCodes.getD k 0))
  let same (ks : List Nat) : Bool := allSame (ks.map ca) && allSame (ks.map cr)
  let groups := (List.range (cdiv sb.k g)).map fun x =>
    let ks := (List.range (min g (sb.k - x * g))).map (· + x * g)
    if same ks then groupSum scaled (ks.map prod) (sa (x * g)) (sr (x * g))
    else
      let live := ks.filter fun k => !numIsZero (numMul (prod k) (numMul (sa k) (sr k)))
      if same live then groupSum scaled (live.map prod) (sa (live.headD 0)) (sr (live.headD 0))
      else enc32 (numSum (live.map fun k => numMul (prod k) (numMul (sa k) (sr k))))
  treeAdd groups.length groups

/-- Writes one accumulator lane and its poison bit, with undo (R91). -/
def Tile.putAcc (t : Tile) (win lane : Nat) (v : Lane) (p : Bool) : Tile :=
  let t1 := (t.logUndo t.newest win (.acc lane (mget 0 t.acc lane)) (.acc lane v) 4).logUndo t.newest win
    (.accPoison lane (t.accPoison.contains lane)) (.accPoison lane p) 0
  { t1 with acc := mput 0 t1.acc lane v
            accPoison := if p then setIns lane t1.accPoison else setDel lane t1.accPoison }

/-- The accumulator lane of column `n` of row `r` (R127). -/
def accLane (acc r units n : Nat) : Nat := (acc + r * units + n / 32) % 2048 * 32 + n % 32

/-- Marks a row's accumulator units final at a cycle (R129). -/
def Tile.rowFinal (t : Tile) (acc r units due : Nat) : Tile :=
  let rd := (List.range units).foldl (fun m i => mput 0 m (4096 + (acc + r * units + i) % 2048) due) t.core.ready
  { t with core := { t.core with ready := rd } }

/-- Whether row `r` is final in the current cycle. -/
def Tile.rowReady (t : Tile) (acc r units : Nat) : Bool :=
  (List.range units).all fun i => decide (mget 0 t.core.ready (4096 + (acc + r * units + i) % 2048) ≤ t.cycle)

/-- The streamed row of an mmul: element codes, block scales, table, poison, and the indices out of bounds. A queue gives the
row's bits, selector 0x44 its descriptor's elements (R126, R127, R157). -/
def streamedRow (d : Desc) (rd : Reader) (sel : Sel) (k row buf w : Nat) (poison : Bool) :
    List Nat × List Nat × List Nat × Bool × List Int :=
  match sel with
  | .queue _ => ((List.range k).map (fun i => fld buf (i * w) w), [], [], poison, [])
  | _ =>
    let els : List (Nat × Bool × Bool) := (List.range k).map fun (i : Nat) => d.codeAt rd ((row * k + i : Nat) : Int)
    let sc : List Nat := if d.blockSize = 0 then [] else (List.range k).map fun (i : Nat) => d.scaleCodeAt rd ((row * k + i : Nat) : Int)
    let oob : List Int := ((List.range k).filter fun i => (els.getD i (0, false, false)).2.2).map fun i => ((row * k + i : Nat) : Int)
    (els.map (fun e => e.1), sc, d.tableOf rd, els.any (fun e => e.2.1), oob)

/-- One busy cycle of an mmul: one row (R126, R127, R129). -/
def mmulCycle (n : Nat) (out : Reader) (io : CycleIO) (a : Act) (b : Bool) (f : Nat) (m : MSlot) (desc : List Byte)
    (rows row buf bits : Nat) (poison : Bool) : CycleIO × Option Act :=
  let sb := if b then io.tile.buf1 else io.tile.buf0
  let d := parseDesc desc n
  let sel := selOf m.bsel
  let fmtR := match sel with | .queue _ => (mmulFormat f).getD 0 | _ => d.fmt
  let w := fmtBits fmtR
  let need := sb.k * w
  let more := match sel with | .queue _ => decide (bits < need) | _ => false
  let q := match sel with | .queue q => q | _ => 0
  let r := if more then io.popFor q a else (io, some QItem.idle)
  match r.2 with
  | none => (io, some a.later)
  | some it =>
    let buf' := if more then buf + it.payload.toNat * 2 ^ bits else buf
    let bits' := if more then bits + 2048 else bits
    let rd := r.1.tile.reader n out
    let streamed := streamedRow d rd sel sb.k row buf' w (poison || (more && it.poison))
    let codes := streamed.1
    let p := streamed.2.2.2.1 || sb.poison
    let blockR := match sel with | .queue _ => 0 | _ => d.blockSize
    let units := classUnits (max (matClass sb.fmt) (matClass fmtR))
    let t0 := { r.1.tile with core := r.1.tile.core.countOob false .E m.hb.toNat streamed.2.2.2.2 }
    let t1 := (List.range sb.n).foldl (fun x c =>
      let lane := accLane m.acc.toNat row units c
      let v := dotValue sb c fmtR blockR codes streamed.2.1 streamed.2.2.1
      if m.accmode = 1#2 then x.putAcc a.win lane (f32Add (mget 0 x.acc lane) v) (p || x.accPoison.contains lane)
      else x.putAcc a.win lane v p) t0
    let t2 := t1.rowFinal m.acc.toNat row units (a.start + 28 + row)
    let left := match sel with | .queue _ => streamed.2.2.2.1 && decide (need < bits') | _ => false
    let a' := { a with kind := .matmul b f m desc rows (row + 1) (buf' / 2 ^ need) (bits' - need) left }
    ({ r.1 with tile := t2 }, if row + 1 < rows then some a' else none)

/-- The lanes and units of a row of a drain (R125, R129). -/
def drainLanes (wide : Bool) : Nat := if wide then 128 else 64
def drainUnits (wide : Bool) : Nat := if wide then 4 else 2

/-- Reads a row of the accumulator for a drain. -/
def Tile.readRow (t : Tile) (wide : Bool) (acc r : Nat) : List (Lane × Bool) :=
  (List.range (drainLanes wide)).map fun n =>
    let l := accLane acc r (drainUnits wide) n
    (mget 0 t.acc l, t.accPoison.contains l)

/-- The rows that a drain reads in its current step: those up to the item, or the row, that the step hands on (R129, R130). -/
def drainRows (n : Nat) (wide : Bool) (m : MSlot) (desc : List Byte) (rows step done : Nat) : List Nat :=
  let lanes := drainLanes wide
  let d := parseDesc desc n
  let w := match selOf m.dsel with | .stream => max 1 d.bits | _ => 32
  let upto := match selOf m.dsel with | .vreg _ => step + 1 | _ => min rows (cdiv (2048 * (step + 1)) (lanes * w))
  (List.range (upto - done)).map (· + done)

/-- Whether a drain's next rows are not final in the current cycle (R128, R98). -/
def Tile.drainHeld (t : Tile) (n : Nat) (a : Act) : Bool :=
  match a.kind with
  | .drain wide m desc rows step outs =>
    decide (a.start ≤ t.cycle) && !((drainRows n wide m desc rows step (outs.length / drainLanes wide)).all fun r =>
      t.rowReady m.acc.toNat r (drainUnits wide))
  | _ => false

/-- One busy cycle of a drain (R129, R130): one item to a queue or to a stream, one row to registers. A row that is not final
slips (R128), or pauses the drain in conservative mode. -/
def drainCycle (n : Nat) (io : CycleIO) (a : Act) (wide : Bool) (m : MSlot) (desc : List Byte) (rows step : Nat)
    (outs : List (Lane × Bool)) : CycleIO × Option Act :=
  let acc := m.acc.toNat
  let u := drainUnits wide
  let lanes := drainLanes wide
  let d := parseDesc desc n
  let sel := selOf m.dsel
  let w := match sel with | .stream => max 1 d.bits | _ => 32
  let total := match sel with | .vreg _ => rows | _ => cdiv (rows * lanes * w) 2048
  let news := drainRows n wide m desc rows step (outs.length / lanes)
  let ready := news.all fun r => io.tile.rowReady acc r u
  if !ready && io.tile.conservative then (io, some a.later)
  else
    let t0 := if ready then io.tile else io.tile.slip 2 a.stream a.pc a.win
    let outs' := news.foldl (fun l r => l ++ t0.readRow wide acc r) outs
    let last := decide (total ≤ step + 1)
    let t1 : Tile := match sel with
      | .queue q =>
        let it := packItem 32 ((outs'.drop (64 * step)).take 64)
        { t0 with core := { t0.core with acts := t0.core.acts ++
            [{ start := a.start + 6 + step, win := a.win, seq := a.seq, pc := a.pc, stream := .E, kind := .pushItem (4 + q) it }] } }
      | .vreg r0 =>
        let per := 256 / lanes
        let vals : List (Lane × Bool) := (outs'.drop (step * lanes)).take lanes
        t0.write (96 + r0 + step / per) (a.start + 6 + step) a.win a.seq (vals.any (·.2))
          (.lanes ((List.range lanes).map fun i => (step % per * lanes + i, (vals.getD i (0#32, false)).1)))
      | .stream =>
        if last then
          let due := a.start + 8 + total
          let p := outs'.any (·.2)
          if fmtIsScaled d.fmt then
            let r := scaledStore d .f32 0 outs'.length 0 outs'.length outs'
            let x := { t0 with core := t0.core.countOob true .E m.ha.val r.2.2 }
            let x := x.writePieces due a.win a.seq p (d.storePieces a.seq r.1)
            x.writePieces due a.win a.seq p (r.2.1.map fun y => (y.1, y.2, 0xFF#8))
          else
            let r := (List.range outs'.length).foldl (fun (acc : List (Int × Nat) × List Int) (i : Nat) =>
              match d.place (i : Int) with
              | .elem o _ => (acc.1 ++ [(o, encodeElem d.fmt 0 (dec32 (outs'.getD i (0#32, false)).1))], acc.2)
              | _ => (acc.1, acc.2 ++ [(i : Int)])) ([], [])
            let x := { t0 with core := t0.core.countOob true .E m.ha.val r.2 }
            x.writePieces due a.win a.seq p (d.storePieces a.seq r.1)
        else t0
      | _ => t0
    ({ io with tile := t1 }, if last then none else some { a with kind := .drain wide m desc rows (step + 1) outs' })

end Sys2Proof.Machine
end

