-- ==== Sys2Proof/Machine/TileCycle.lean ====
section
/-! DEFINITION. A tile's cycle, the start of engine operations, and the issue of a bundle slot by slot (R39 to R76, R87 to
R107, R128, R613). -/

namespace Sys2Proof.Machine

/-! ### Starting engine operations (R87, R128, R129, R140) -/

/-- The vector engine is free (R87). -/
def Tile.vectorFree (t : Tile) : Bool :=
  decide (t.core.vbusy ≤ t.cycle) && !(t.core.acts.any fun a => match a.kind with | .vector _ _ _ _ _ => true | _ => false)

/-- The multiply pipeline is free (R128). -/
def Tile.multiplyFree (t : Tile) : Bool :=
  !(t.core.acts.any fun a => match a.kind with
    | .matmul _ _ _ _ _ _ _ _ _ => true
    | .drain _ _ _ _ _ _ => true
    | _ => false)

/-- Whether a vector operation may start without a slip: a curve slot must be complete (R140). -/
def Tile.vectorReady (t : Tile) (op : VOp) : Bool :=
  match op with
  | .curve slot => decide (mget 0 t.core.ready (130 + slot) ≤ t.cycle)
  | _ => true

/-- Loads a curve slot from 4,096 bytes of a descriptor's element stream (R133, R137, R140). -/
def Tile.loadCurve (t : Tile) (n : Nat) (out : Reader) (win slot : Nat) (desc : List Byte) (h : Nat) : Tile :=
  let d := parseDesc desc n
  let items := (List.range 16).map fun k => d.itemAt (t.reader n out) 0 k
  let bytes := items.foldl (fun acc it => acc ++ toBytes 256 it.1.toNat) []
  let new := memWrite [] 0 bytes
  let t1 := t.logUndo t.newest win (.curve slot (mget [] t.curve slot)) (.curve slot new) 4096
  let c := t1.core.countOob false .E h (items.foldl (fun acc it => acc ++ it.2.2) [])
  { t1 with curve := mput [] t1.curve slot new
            core := { c with vbusy := t.cycle + 16, ready := mput 0 c.ready (130 + slot) (t.cycle + 40) } }

/-- Starts a vector operation in the current cycle; on a curve slot still loading it slips (R140). -/
def Tile.startVector (t : Tile) (n : Nat) (out : Reader) (w : VWait) : Tile :=
  let t1 := if t.vectorReady w.op then t else t.slip 2 .E w.pc w.win
  if w.op = .cload then t1.loadCurve n out w.win (w.slot.dst.toNat % 8) w.desc w.slot.handle.val
  else
    let a : Act := { start := t.cycle, win := w.win, seq := w.seq, pc := w.pc, stream := .E
                     kind := .vector w.op w.slot w.desc w.srcs [] }
    { t1 with core := { t1.core with acts := t1.core.acts ++ [a] } }

/-- Whether a waiting mld of a buffer was issued before bundle `seq`. -/
def Tile.mldBefore (t : Tile) (b : Bool) (seq : Nat) : Bool :=
  t.core.mwait.any fun w => decide (w.op = .mld b) && decide (w.seq < seq)

/-- Whether a matrix operation can start in the current cycle: its pipeline is free, and an mld has no earlier mmul of its
buffer running or waiting (R128). -/
def Tile.matrixCanStart (t : Tile) (w : MWait) : Bool :=
  match w.op with
  | .mld b =>
    decide (t.core.mlbusy ≤ t.cycle) &&
    !(t.core.acts.any fun a => match a.kind with | .matmul b' _ _ _ _ _ _ _ _ => b == b' | _ => false) &&
    !(t.core.mwait.any fun x => decide (x.seq < w.seq) && match x.op with | .mmul b' _ => b == b' | _ => false)
  | _ => t.multiplyFree

/-- Whether an mmul finds its buffer complete (R128). -/
def Tile.matrixReady (t : Tile) (w : MWait) : Bool :=
  match w.op with
  | .mmul b _ => decide (mget 0 t.core.ready (128 + b.toNat) ≤ t.cycle) && !t.mldBefore b w.seq
  | _ => true

/-- Starts a matrix operation in the current cycle (R128, R129): an mmul before its buffer is complete slips. -/
def Tile.startMatrix (t : Tile) (n : Nat) (out : Reader) (w : MWait) : Tile :=
  let d := parseDesc w.desc n
  match w.op with
  | .mld b =>
    let sz := mldBytes d
    let old := if b then t.buf1 else t.buf0
    let nb := loadBuf d (t.reader n out) w.slot.ha.val
    let t1 := t.logUndo t.newest w.win (.buf b old) (.buf b nb) sz
    let ready := t.cycle + 8 + cdiv sz 1024 + (if fmtIsCode d.fmt then 8 else 0)
    let c := { t1.core with mlbusy := t.cycle + cdiv sz 1024, ready := mput 0 t1.core.ready (128 + b.toNat) ready }
    if b then { t1 with buf1 := nb, core := c } else { t1 with buf0 := nb, core := c }
  | .mmul b f =>
    let t1 := if t.matrixReady w then t else t.slip 2 .E w.pc w.win
    let sb := if b then t.buf1 else t.buf0
    let rows := match selOf w.slot.bsel with
      | .queue _ => slotRows w.slot
      | _ => if sb.k = 0 then 1 else d.count / sb.k
    let a : Act := { start := t.cycle, win := w.win, seq := w.seq, pc := w.pc, stream := .E
                     kind := .matmul b f w.slot w.desc rows 0 0 0 false }
    { t1 with core := { t1.core with acts := t1.core.acts ++ [a] } }
  | .mdrain wide =>
    let a : Act := { start := t.cycle, win := w.win, seq := w.seq, pc := w.pc, stream := .E
                     kind := .drain wide w.slot w.desc (slotRows w.slot) 0 [] }
    { t with core := { t.core with acts := t.core.acts ++ [a] } }

/-- Whether a vector operation finds a place: the free engine, or one of four waiting places (R87). -/
def Tile.vectorPlace (t : Tile) : Bool := (t.core.vwait.isEmpty && t.vectorFree) || decide (t.core.vwait.length < 4)

/-- Issues a vector operation: it starts at once on a free engine, waits, or overruns the waiting list (R87, R88). -/
def Tile.issueVector (t : Tile) (n : Nat) (out : Reader) (w : VWait) : Tile :=
  if t.core.vwait.isEmpty && t.vectorFree && (t.vectorReady w.op || !t.conservative) then t.startVector n out w
  else if t.core.vwait.length < 4 then { t with core := { t.core with vwait := t.core.vwait ++ [w] } }
  else t.slip 3 .E w.pc w.win

/-- Whether a waiting matrix operation of the same pipeline stands before a new one. -/
def Tile.matrixAhead (t : Tile) (op : MOp) : Bool :=
  t.core.mwait.any fun w => match w.op, op with
    | .mld _, .mld _ => true
    | .mld _, _ => false
    | _, .mld _ => false
    | _, _ => true

/-- Issues a matrix operation (R87, R88, R128). -/
def Tile.issueMatrix (t : Tile) (n : Nat) (out : Reader) (w : MWait) : Tile :=
  if !t.matrixAhead w.op && t.matrixCanStart w && (t.matrixReady w || !t.conservative) then t.startMatrix n out w
  else if t.core.mwait.length < 4 then { t with core := { t.core with mwait := t.core.mwait ++ [w] } }
  else t.slip 3 .E w.pc w.win

/-! ### One cycle -/

/-- Item `k` of a st.cp: its data behind the items copied before it, or none while stack data is missing (R168). -/
def Tile.copyItem (t : Tile) (n : Nat) (out : Reader) (seq : Nat) (src : List Byte) (index : Int) (dest : CopyDest) (k : Nat)
    (got : List QItem) (load : Option Nat) : Option (BitVec 2048 × Bool × List Int) :=
  let d := parseDesc src n
  match load with
  | none => some (d.itemAt (dest.behind n seq d got (t.reader n out)) index k)
  | some id =>
    match t.loads.find? (fun l => l.id == id) with
    | none => none
    | some l =>
      if (d.itemGranules index k).any (fun g => l.missing.contains g) then none
      else some (d.itemAt (dest.behind n seq d got l.reader) index k)

/-- The current cycle's part of a running operation (R75, R98, R136): what is left of it. -/
def stepAct (n : Nat) (out : Reader) (io : CycleIO) (a : Act) : CycleIO × Option Act :=
  if io.tile.cycle < a.start then (io, some a)
  else match a.kind with
    | .popStore q left got dest =>
      let r := io.popFor q a
      match r.2 with
      | none => (io, some a.later)
      | some it =>
        let got' := got ++ [it]
        let due := r.1.tile.cycle + 4
        let t := match dest with
          | .desc d => r.1.tile.storeItem n due .A a.win a.seq d got got'
          | .long f base => r.1.tile.storeRows due a.win a.seq f base got.length it
        if left ≤ 1 then
          let t1 := match dest with
            | .desc d => (t.storeTable n due a.win a.seq d got').storeHeld n a.win a.seq a.pc d got'
            | .long _ _ => t
          ({ r.1 with tile := t1 }, none)
        else ({ r.1 with tile := t }, some { a with kind := .popStore q (left - 1) got' dest })
    | .copy src hs index dest count k got load =>
      match io.tile.copyItem n out a.seq src index dest k got load with
      | none => (io, some a)
      | some it =>
        let got' := got ++ [({ payload := it.1, poison := it.2.1, readyAt := 0, flips := 0 } : QItem)]
        let due := io.tile.cycle + 4
        let t0 : Tile := { io.tile with core := io.tile.core.countOob false .A hs it.2.2 }
        let t1 := t0.storeItem n due .A a.win a.seq dest got got'
        if count ≤ k + 1 then
          ({ io with tile := (t1.storeTable n due a.win a.seq dest got').storeHeld n a.win a.seq a.pc dest got' }, none)
        else ({ io with tile := t1 }, some { a with kind := .copy src hs index dest count (k + 1) got' load })
    | .popReg q r =>
      let x := io.popFor q a
      match x.2 with
      | none => (io, some a.later)
      | some it =>
        ({ x.1 with tile := x.1.tile.write r (x.1.tile.cycle + 2) a.win a.seq it.poison (.sreg (it.payload.truncate 64)) }, none)
    | .pushItem q it => ({ io with pushes := io.pushes ++ [(q, it, a)] }, none)
    | .vector op v desc srcs outs => vectorCycle n out io a op v desc srcs outs
    | .matmul b f m desc rows row buf bits p => mmulCycle n out io a b f m desc rows row buf bits p
    | .drain wide m desc rows step outs => drainCycle n io a wide m desc rows step outs

/-- Runs the operations of a cycle, each as `run` has it or, where it pauses, one cycle later. -/
def runActs (n : Nat) (out : Reader) (pause : Act → Bool) : List Act → CycleIO → CycleIO
  | [], io => io
  | a :: l, io =>
    let r := if pause a then (io, some a.later) else stepAct n out io a
    let io' := match r.2 with
      | some a' => { r.1 with tile := { r.1.tile with core := { r.1.tile.core with acts := r.1.tile.core.acts ++ [a'] } } }
      | none => r.1
    runActs n out pause l io'

/-- Whether an operation pauses in the current cycle, which only conservative mode makes it do (R98). -/
def Tile.held (t : Tile) (n : Nat) (a : Act) : Bool :=
  t.conservative && !a.isPush && (t.pauses a || t.drainHeld n a)

/-- Ends the stalls whose condition holds at the start of the cycle: queue and arrival waits (R43, R60). The next bundle issues in
the cycle after, also where the stalled bundle holds a taken branch, whose own delay of three cycles (R59) then ends with the stall
(DESIGN CHOICE, log entry 71). -/
def Tile.endStall (t : Tile) (st : Stream) : Tile :=
  let go : Bool := match t.core.stall st with
    | .qwait q k => decide (k ≤ (t.core.queue q).length)
    | .await ac n => decide (n ≤ (t.arrival ac).toNat)
    | _ => false
  if go then { t with core := (t.core.setStall st .run).setNext st (t.cycle + 1) } else t

/-- The queue accesses of a cycle: the operations in issue order, their pushes in the order in which they fall due, then those of
the load return path, then those that a halting bundle would have made (R74, R88, R106, R136, R615). -/
def Tile.runQueues (t : Tile) (n : Nat) (out : Reader) : Tile :=
  let io := runActs n out (t.held n) (sortBy (·.seq) t.core.acts)
    { tile := { t with core := { t.core with acts := [] } }, popped := [], pushes := [] }
  let r := io.tile.doPushes (sortBy (fun x => x.2.2.start) (sortBy (fun x => x.2.2.seq) io.pushes)) []
  let t1 := r.1.runPath n r.2
  let t2 := if t.conservative then t1 else t.ghosts.foldl (fun x a => x.ghostSlip t io.popped r.2 a) t1
  { t2 with ghosts := [] }

/-- The next cycle: the writes that become readable, and TIL_TS_STAT as it stands at its start (R48, R105). -/
def Tile.nextCycle (t : Tile) : Tile :=
  let t1 := { t with cycle := t.cycle + 1 }.applyDue (t.cycle + 1)
  { t1 with tsSnap := BitVec.ofNat 64 t1.tsWord }

/-- One tile cycle: stalls, pops, pushes, slips, windows, and the writes that become readable (R48, R74, R88 to R98). -/
def Tile.endCycle (t : Tile) (n : Nat) (out : Reader) : Tile :=
  match t.mode with
  | .rollback _ => { t with replayCyc := satInc t.replayCyc }.nextCycle
  | _ =>
    let t1 := ((t.endStall .A).endStall .E).runQueues n out
    let t2 := (t1.turnWindows t1.cycle).takeSlips
    { t2 with replayCyc := if t.conservative then satInc t2.replayCyc else t2.replayCyc }.nextCycle

/-- Whether everything that earlier bundles started has completed, as a precise halt waits for (R106). -/
def Tile.quiet (t : Tile) : Bool :=
  t.core.acts.isEmpty && t.core.vwait.isEmpty && t.core.mwait.isEmpty && !(t.loads.any fun l => decide (l.q < 8)) &&
  t.sloads.isEmpty && !(t.core.writes.any fun w => decide (t.cycle < w.due)) && t.slipNow.isEmpty

/-- The effects that the windows of a tile hold, in issue order. -/
def Tile.heldEffects (t : Tile) : List Held := t.windows.foldl (fun l w => l ++ w.held.map (·.2)) []

/-- The windows of a tile without the effects that they hold: their logs stay for readout (R108). -/
def Tile.dropHeld (t : Tile) : Tile := { t with windows := t.windows.map fun w => { w with held := [] } }

/-- Records a halt whose earlier effects have been released: the tile reports HALTED, and the job's teardown is asked for (R106, R108). -/
def State.recordHalt (s : State) (n : Nat) (h : HaltRec) : State :=
  let t := s.tile n
  let s1 := s.setTile n { t with halt := h, haltPend := none, mode := .normal, cur := none, fences := [] }
  ((s1.traceHalt n h).statusTile n 3 2).requestTeardown 4 (some n)

/-- A halt that waits: once every earlier bundle has completed its slot actions, the held effects of those bundles are released, and then the
halt is recorded (R106). -/
def State.settleHalt (s : State) (n : Nat) (h : HaltRec) : State :=
  let t := s.tile n
  if !t.quiet then s
  else if t.heldEffects.isEmpty && t.releaseQ.isEmpty then s.recordHalt n h
  else s.setTile n { t.dropHeld with releaseQ := t.releaseQ ++ t.heldEffects }

/-- A tile halts where it stands: no operation of it goes on (R100). -/
def Tile.haltHere (t : Tile) (h : HaltRec) : Tile :=
  { t with haltPend := some h, haltSeq := 0, mode := .normal, cur := none, fences := [], loads := [], sloads := [], regReads := [], slipNow := []
           core := { t.core with acts := [], vwait := [], mwait := [] } }

/-- Records a deferred halt: the tile stops and discards every effect still held (R107). -/
def State.recordDeferred (s : State) (n : Nat) (h : HaltRec) : State :=
  let t := s.tile n
  let s1 := s.setTile n { t.dropHeld with halt := h, haltPend := none, releaseQ := [], mode := .normal, cur := none, fences := [], loads := []
                                          sloads := [], regReads := [], slipNow := [], refusals := t.refusals.drop 1 }
  ((s1.traceHalt n h).statusTile n 3 2).requestTeardown 4 (some n)

/-- What a tile's cycle leads to outside it: a waiting halt is recorded, a finished tile reports IDLE (R42, R106). -/
def State.settleTile (s : State) (n : Nat) : State :=
  let t := s.tile n
  match t.haltPend with
  | some h => s.settleHalt n h
  | none =>
    if t.active && t.core.ended && t.windows.isEmpty && t.releaseQ.isEmpty && decide (t.halt.reason = 0#8) &&
        (match s.physTile n with | some u => (s.unit u).reported != 1 | none => false)
    then s.statusTile n 1 1 else s

/-- The reads of register space that reach their blocks by the current cycle: the block answers, or records an error (R7, R610). -/
def State.serveReads (s : State) (n : Nat) : State :=
  let t := s.tile n
  let due := t.regReads.filter fun r => decide (r.at_ ≤ t.cycle)
  if due.isEmpty then s
  else due.foldl (fun acc r =>
      let x := acc.readReg r.addr r.width
      x.1.setTile n ((x.1.tile n).returnScalar r.id r.addr (toBytes r.width x.2) false))
    (s.setTile n { t with regReads := t.regReads.filter fun r => !decide (r.at_ ≤ t.cycle) })

/-- The status events of the uncorrectable words that a tile has popped (R77). -/
def State.reportUe (s : State) (n : Nat) : Nat → State
  | 0 => s
  | k + 1 => (s.statusTile n ((s.physTile n).elim 0 fun u => (s.unit u).reported) 3).reportUe n k

/-- One cycle of a tile that is clocked (R34, R77); a tile that is awake and runs no job only counts it. -/
def State.tickTile (s : State) (n : Nat) : State :=
  let t := s.tile n
  if t.runs then
    let t1 := t.endCycle n s.outside
    let s0 := t1.slipSeen.foldl (fun acc x => acc.traceSlip n x.kind x.stream x.pc) (s.setTile n { t1 with slipSeen := [], ueSeen := 0 })
    ((s0.settleTile n).serveReads n).reportUe n t1.ueSeen
  else if t.sleep = .awake then s.setTile n { t with cycle := t.cycle + 1 }
  else s

/-- `dt` cycles of a tile. -/
def State.advanceTile (s : State) (n : Nat) : Nat → State
  | 0 => s
  | dt + 1 => (s.tickTile n).advanceTile n dt

/-! ### Issuing a bundle -/

/-- What a slot reads, writes, pops and pushes, as the checks of a bundle need it: `loads` are the queues that a load feeds,
`accs` the accumulator units that a drain reads. -/
structure SlotInfo where
  legal : Bool
  srcs : List Nat
  accs : List Nat
  dests : List Nat
  pops : List Nat
  pushes : List Nat
  loads : List Nat
  bytes : Nat
  engine : Option EngineSel
deriving DecidableEq, Repr

/-- A slot that touches nothing. -/
def SlotInfo.none_ : SlotInfo :=
  { legal := true, srcs := [], accs := [], dests := [], pops := [], pushes := [], loads := [], bytes := 0, engine := none }

/-- A slot's outcome: the state and the bundle after it, or a halt with reason and DETAIL. -/
inductive SlotRes where
  | ok (s : State) (b : BundleIP)
  | halt (reason detail : Nat)
deriving DecidableEq, Repr

/-- Whether the E stream has issued in the current cycle: the A stream's bundle of a cycle comes first (R89). -/
def Tile.eIssued (t : Tile) : Bool :=
  match t.openWin with
  | some w => decide (0 < w.bundles) && w.lastStream == .E && decide (w.lastIssue = t.cycle)
  | none => false

/-- The number of a bundle in issue order: by its cycle, the A stream's bundle first (R89). -/
def Tile.bundleSeq (t : Tile) (st : Stream) : Nat := 2 * t.cycle + (match st with | .A => 1 | .E => 2)

/-- Whether a stream may issue in the current cycle (R43, R89, R97, R98, R106, R297). -/
def State.canIssue (s : State) (n : Nat) (st : Stream) : Bool :=
  let t := s.tile n
  t.runs && s.tileAllowed n && (t.haltPend.isNone || decide (t.bundleSeq st < t.haltSeq)) && t.cur.isNone &&
  (match t.mode with | .rollback _ => false | _ => true) &&
  t.core.stall st == .run && decide (t.core.next st ≤ t.cycle) &&
  (match t.openWin with | some w => !(w.solo && decide (0 < w.bundles)) | none => false) &&
  !(st == .A && t.eIssued) &&
  t.fences.all (fun f => decide (f.issued = t.cycle)) &&
  !(t.core.acts.any fun a => a.stream == st && t.held n a)

/-- Takes a bundle back as if it had not issued: the state it issued in, without its loads and held effects. -/
def Tile.dropBundle (t : Tile) (b : BundleIP) : Tile :=
  let t1 := t.unwindTo b.undoMark
  { t1 with
    core := b.start, cur := none
    loads := t1.loads.filter (fun l => decide (l.seq ≠ b.seq))
    sloads := t1.sloads.filter (fun l => decide (l.seq ≠ b.seq))
    regReads := t1.regReads.filter (fun r => !(t1.sloads.any fun l => decide (l.seq = b.seq) && decide (l.id = r.id)))
    windows := t1.windows.map fun w => { w with held := w.held.filter fun h => decide (h.1 / 2 ≠ b.seq) }
    fences := t1.fences.filter (fun f => !(decide (f.issued = t1.cycle) && f.stream == b.stream)) }

/-- The halt of a bundle before any of its slots is taken: its place and its header (R39, R40, R50, R51). -/
def Tile.openHalt (t : Tile) (u : Issue) : Option HaltRec :=
  let pc := t.core.pc u.stream
  let h (r : Nat) (d : Nat) : Option HaltRec :=
    some { reason := BitVec.ofNat 8 r, streamE := u.stream == .E, pc := BitVec.ofNat 23 pc, detail := BitVec.ofNat 32 d }
  if 0x600000 ≤ pc then h 0x20 pc
  else if hdrIllegal u.hdr u.stream then h 0x10 (fld u.hdr.toNat 0 32)
  else if 0x600000 < pc + 8 * hdrLength u.hdr then h 0x20 0x600000
  else if t.unlisted u then h 0x10 (fld u.hdr.toNat 0 32)
  else none

/-- The start of a bundle: the record that its slots share. -/
def Tile.openBundle (t : Tile) (u : Issue) : Tile :=
  match t.openWin with
  | none => t
  | some w =>
    { t with cur := some { stream := u.stream, hdr := u.hdr, pc := t.core.pc u.stream, win := w.id, seq := t.bundleSeq u.stream
                           start := t.core, undoMark := w.undo.length, halt := t.openHalt u, done := 0, dests := [], pops := []
                           pushes := [], loads := [], branch := none, skip := none, closes := false, solo := false, bytes := 0 } }

/-- Auto-increments at the end of a trip of loop `k` (R46, R47): on the value the ending bundle wrote, if it wrote one. The spec
leaves open whether a bind or a sett of the ending bundle counts for its own trip end: the bind does, and the increment is tN as
it stood when the bundle issued (DESIGN CHOICE, log entry 69). -/
def Tile.autoIncrement (t : Tile) (b : BundleIP) (k : Nat) : Tile :=
  (List.range 16).foldl (fun x n =>
    if mget 0 x.core.binds n = k + 1 then
      let own := (x.core.writes.filter fun w => decide (w.key = 64 + n) && decide (w.seq = b.seq)).getLast?
      let base := match own with | some w => (match w.val with | .areg v => v | _ => x.core.getA n) | none => x.core.getA n
      x.write (64 + n) (x.cycle + 1) b.win b.seq (x.core.poisoned.contains (64 + n)) (.areg (base + x.core.getT n))
    else x) t

/-- The trip ends of the loops that end on this bundle, innermost first (R67, R69): the loops left, the loop to repeat. -/
def tripEnds (pc : Nat) : List LoopRec → List LoopRec × Option LoopRec
  | [] => ([], none)
  | l :: ls =>
    if l.endAddr = pc then
      if l.exit || decide (l.remaining ≤ 1) then tripEnds pc ls
      else ({ l with remaining := l.remaining - 1 } :: ls, some l)
    else (l :: ls, none)

/-- Ends every loop whose body a branch target lies outside, and the loops inside it (R71). Innermost first. -/
def leaveLoops (target : Nat) (l : List LoopRec) : List LoopRec :=
  let n := l.length
  let bad := (List.range n).filter fun i =>
    match l[i]? with
    | some x => !(decide (x.first ≤ target) && decide (target ≤ x.endAddr))
    | none => false
  match bad.getLast? with
  | some i => l.drop (i + 1)
  | none => l

/-- The next program counter, the loops and the issue cycle after a bundle (R59, R66, R67, R69, R71). A loop without trips skips its
body as R66 says and processes no trip end of an enclosing loop that ends on the same bundle: that loop stays active with the
program counter behind its end (DESIGN CHOICE, log entry 70). -/
def Tile.advancePc (t : Tile) (b : BundleIP) : Tile :=
  let st := b.stream
  let set (t : Tile) (pc next : Nat) (loops : List LoopRec) : Tile :=
    { t with core := ((t.core.setPc st pc b.pc).setNext st next).setLoops st loops }
  match b.branch, b.skip with
  | some tgt, _ => set t tgt (t.cycle + 3) (leaveLoops tgt (t.core.loops st))
  | none, some a => set t a (t.cycle + 1) (t.core.loops st)
  | none, none =>
    let r := tripEnds b.pc (t.core.loops st)
    match r.2 with
    | some l => set (if st == .A then t.autoIncrement b l.k else t) l.first (t.cycle + 1) r.1
    | none => set t (b.pc + 8 * hdrLength b.hdr) (t.cycle + 1) r.1

/-- Notes the queue that a stream's next bundle waits for. -/
def Tile.block (t : Tile) (st : Stream) (q : Option Nat) : Tile :=
  match st with | .A => { t with blockA := q } | .E => { t with blockE := q }

/-- A halting bundle is taken back, and its halt waits for the bundles before it. Of two in one cycle the A stream's comes first.
The queue accesses that the bundle was to make in this cycle are kept, since a slip of theirs goes before the halt (R88, R106). -/
def Tile.haltBundle (t : Tile) (b : BundleIP) (h : HaltRec) : Tile :=
  let t1 := t.dropBundle b
  if t.haltPend.isSome && decide (t.haltSeq ≤ b.seq) then t1
  else
    { t1 with haltPend := some h, haltSeq := b.seq
              ghosts := t.core.acts.filter fun a => decide (a.seq = b.seq) && decide (a.start ≤ t.cycle)
              windows := t1.windows.map fun w => if w.id = b.win then { w with halting := true } else w }

/-- The end of a bundle: a halting bundle is taken back; another bundle counts in its window and moves its stream on (R89, R106). -/
def Tile.endBundle (t : Tile) (b : BundleIP) : Tile :=
  match b.halt with
  | some h => t.haltBundle b h
  | none =>
    let t1 := { (t.advancePc b).block b.stream none with cur := none }
    { t1 with windows := t1.windows.map fun w =>
        if w.id = b.win then
          { w with bundles := w.bundles + 1, lastPc := b.pc, lastStream := b.stream, lastIssue := t1.cycle
                   closing := w.closing || b.closes || b.solo, solo := w.solo || b.solo }
        else w
              mode := if b.solo then .conservative else t1.mode
              consWin := if b.solo then b.win else t1.consWin }

/-- The kind and number of a resource named twice, as DETAIL of reason code 0x11 gives it (R110). -/
def dupDetail (key : Nat) : Nat :=
  if key < 32 then key else if key < 64 then key - 32 else if key < 128 then 256 + (key - 96) else key % 32

/-- The lowest key of a list that another list holds too; s0 never counts (R48). -/
def firstDup (a b : List Nat) : Option Nat :=
  (a.filter fun k => b.contains k && k != 0 && k != 32).foldl (fun m k =>
    match m with | none => some k | some x => some (min x k)) none

/-- The undo log's capacity in bytes (R91). -/
def undoCap : Nat := 524288

/-- Whether accumulator units can be read: no multiply still writes them, and their values are final (R98, R129). -/
def Tile.accReady (t : Tile) (units : List Nat) : Bool :=
  let writes (acc rows : Nat) (k : Nat) : Bool := decide ((k + 2048 - acc) % 2048 < rows * 4)
  units.all fun k => decide (mget 0 t.core.ready (4096 + k) ≤ t.cycle) &&
    !(t.core.acts.any fun a => match a.kind with | .matmul _ _ m _ rows _ _ _ _ => writes m.acc.toNat rows k | _ => false) &&
    !(t.core.mwait.any fun w => match w.op with | .mmul _ _ => writes w.slot.acc.toNat 512 k | _ => false)

/-- Whether a slot can go on in conservative mode (R98). -/
def Tile.slotReady (t : Tile) (b : BundleIP) (i : SlotInfo) : Bool :=
  (i.srcs.all fun k => !t.isPending b.seq k) && t.accReady i.accs &&
  (i.pops.all fun q => t.headReady q && !(t.core.acts.any fun a => decide (a.seq ≠ b.seq) && (t.popsNow a).contains q)) &&
  (i.pushes.all fun q => !t.noStage q && !(t.core.acts.any fun a => decide (a.seq ≠ b.seq) && decide (a.start ≤ t.cycle) &&
    (match a.kind with | .pushItem q' _ => q == q' | _ => false))) &&
  (match i.engine with
   | some .vector => t.vectorPlace
   | some _ => decide (t.core.mwait.length < 4)
   | none => true)

/-- The queue that keeps a bundle from issuing in conservative mode: an empty one it pops or a full one it pushes (R98). -/
def Tile.queueWait (t : Tile) (b : BundleIP) (i : SlotInfo) : Option Nat :=
  let idle := { i with pops := [], pushes := [] }
  if !t.slotReady b idle then none
  else match i.pops.find? (fun q => !t.slotReady b { idle with pops := [q] }) with
    | some q => some q
    | none => i.pushes.find? (fun q => !t.slotReady b { idle with pushes := [q] })

/-- The first halt of a bundle stands (R106). -/
def BundleIP.stop (b : BundleIP) (reason detail : Nat) : BundleIP :=
  if b.halt.isSome then b
  else { b with halt := some { reason := BitVec.ofNat 8 reason, streamE := b.stream == .E, pc := BitVec.ofNat 23 b.pc
                               detail := BitVec.ofNat 32 detail } }

/-- A stream issues a bundle, if it may: one that carries an opcode that is not listed, for which no command stands, halts at
once (R51). `first` says that the command at hand is the bundle's first. -/
def State.issueBundle (s : State) (u : Issue) (first : Bool) : State :=
  let t := s.tile u.tile
  if !s.canIssue u.tile u.stream then s
  else if t.unlisted u then
    let t1 := t.openBundle u
    s.setTile u.tile (match t1.cur with | some b => t1.endBundle b | none => t1)
  else if first then s.setTile u.tile (t.openBundle u)
  else s

/-- The state in which a slot is taken: the first slot of a bundle lets the tile's time pass and opens the bundle, if the stream may issue. -/
def State.beginSlot (s : State) (u : Issue) (bit : Nat) : State :=
  let first := (hdrSlots u.hdr).headD 6 == bit
  if first || bit == 6 then (s.advanceTile u.tile u.dt).issueBundle u first else s

/-- The bundle whose next slot is the one at hand. -/
def State.slotBundle (s : State) (u : Issue) (bit : Nat) : Option BundleIP :=
  let slots := hdrSlots u.hdr
  match (s.tile u.tile).cur with
  | none => none
  | some b =>
    if b.hdr ≠ u.hdr ∨ b.stream ≠ u.stream ∨ !(slots.contains bit || (bit == 6 && slots.isEmpty)) ∨
        b.done ≠ (slots.takeWhile (· != bit)).length then none
    else some b

/-- The bytes that a stream destination of a vector operation has still to write. -/
def vectorOwes (op : VOp) (v : VSlot) (d : Desc) (done : Nat) : Nat :=
  if op.reduces || op == .cload then 0
  else match selOf v.dst with
    | .stream => cdiv ((v.count.toNat - done) * d.bits) 8
    | _ => 0

/-- The bytes that rows of a matrix operation write. -/
def Tile.matrixOwes (t : Tile) (op : MOp) (m : MSlot) (d : Desc) (rows : Nat) : Nat :=
  match op with
  | .mld _ => mldBytes d
  | .mmul b _ => rows * (max 1 (if b then t.buf1 else t.buf0).n * 4)
  | .mdrain wide => match selOf m.dsel with | .stream => cdiv (rows * (if wide then 128 else 64) * d.bits) 8 | _ => 0

/-- The bytes that a running operation has still to write into places that the undo log covers. -/
def Tile.actOwes (t : Tile) (n : Nat) (a : Act) : Nat :=
  match a.kind with
  | .popStore _ left _ (.desc d) => ownBytes n (parseDesc d.desc n) (256 * left)
  | .popStore _ left _ (.long _ _) => 256 * left
  | .copy _ _ _ d count k _ _ => ownBytes n (parseDesc d.desc n) (256 * (count - k))
  | .vector op v desc _ outs => vectorOwes op v (parseDesc desc n) outs.length
  | .matmul b f m desc rows row _ _ _ => t.matrixOwes (.mmul b f) m (parseDesc desc n) (rows - row)
  | .drain wide m desc rows _ _ => t.matrixOwes (.mdrain wide) m (parseDesc desc n) rows
  | _ => 0

/-- The bytes that issued bundles have still to write into places that the undo log covers (R89, R91). -/
def Tile.undoOwed (t : Tile) (n : Nat) : Nat :=
  let ofActs := t.core.acts.foldl (fun k a => k + t.actOwes n a) 0
  let ofVec := t.core.vwait.foldl (fun k w =>
    k + if w.op = .cload then 4096 else vectorOwes w.op w.slot (parseDesc w.desc n) 0) 0
  let ofMat := t.core.mwait.foldl (fun k w =>
    let d := parseDesc w.desc n
    let rows := match w.op, selOf w.slot.bsel with
      | .mmul _ _, .queue _ => slotRows w.slot
      | .mmul b _, _ => d.count / max 1 (if b then t.buf1 else t.buf0).k
      | _, _ => slotRows w.slot
    k + t.matrixOwes w.op w.slot d rows) 0
  ofActs + ofVec + ofMat

/-- Whether the local writes of a slot overfill the undo log (R89), and whether they are more than the whole log with no other window open
(R613). -/
def Tile.spills (t : Tile) (n : Nat) (i : SlotInfo) : Bool := decide (undoCap < t.undoTotal + t.undoOwed n + i.bytes)
def Tile.alone (t : Tile) : Bool :=
  match t.openWin with
  | some w => decide (w.bundles = 0) && decide (t.windows.length = 1)
  | none => false

/-- A bundle after one more slot: with more writes than the undo log holds it forms a window of its own (R613). -/
def BundleIP.count (b : BundleIP) (i : SlotInfo) : BundleIP :=
  { b with done := b.done + 1, bytes := b.bytes + i.bytes, solo := b.solo || decide (undoCap < b.bytes + i.bytes) }

/-- The halt of a slot that is illegal, or names a resource that an earlier slot of the bundle names too (R48, R51, R52, R110). -/
def BundleIP.clash (b : BundleIP) (i : SlotInfo) : Option (Nat × Nat) :=
  if i.legal = false then some (0x10, fld b.hdr.toNat 0 32)
  else match firstDup i.dests b.dests with
    | some k => some (0x11, dupDetail k)
    | none =>
      match firstDup (i.pops.map (· + 1)) (b.pops.map (· + 1)),
        firstDup ((i.pushes ++ i.loads).map (· + 1)) ((b.pushes ++ b.loads).map (· + 1)) with
      | some q, _ => some (0x11, 512 + (q - 1))
      | none, some q => some (0x11, 512 + (q - 1))
      | none, none => none

/-- A bundle with the destinations and queues of one more slot. -/
def BundleIP.name (b : BundleIP) (i : SlotInfo) : BundleIP :=
  { b with dests := b.dests ++ i.dests, pops := b.pops ++ i.pops, pushes := b.pushes ++ i.pushes, loads := b.loads ++ i.loads }

/-- After a slot: the last one ends the bundle. -/
def State.closeSlot (s : State) (u : Issue) (b : BundleIP) : State :=
  let t := s.tile u.tile
  s.setTile u.tile (if (hdrSlots u.hdr).length ≤ b.done then t.endBundle b else { t with cur := some b })

/-- The slips of the current cycle that are charged to a bundle. -/
def BundleIP.ownSlip (b : BundleIP) (x : SlipRec) : Bool := x.stream == b.stream && decide (x.pc = b.pc) && decide (x.win = b.win)

/-- Whether a bundle issues as in conservative mode: in a replay, or because its writes are more than the whole undo log (R98,
R613). -/
def Tile.careful (t : Tile) (b : BundleIP) (i : SlotInfo) : Bool := t.conservative || b.solo || decide (undoCap < b.bytes + i.bytes)

/-- A slot that waits in conservative mode, or stalls until the undo log has room: the whole bundle is taken back, with the slips that
its slots have taken before it was known to be too large for the log (R89, R98, R613). -/
def State.stallSlot (s : State) (u : Issue) (b : BundleIP) (i : SlotInfo) : Option State :=
  let t := s.tile u.tile
  let large := b.solo || decide (undoCap < b.bytes + i.bytes)
  let earlier := { SlotInfo.none_ with pops := b.pops, pushes := b.pushes }
  let slipped := large && t.slipNow.any b.ownSlip
  if !i.legal then none
  else if t.careful b i && (!t.slotReady b i || slipped || (large && !t.slotReady b earlier)) then
    let t1 := (t.dropBundle b).block b.stream (t.queueWait b i)
    some (s.setTile u.tile { t1 with slipNow := t1.slipNow.filter fun x => !(large && b.ownSlip x) })
  else if t.spills u.tile i && decide (0 < i.bytes) && !(decide (undoCap < b.bytes + i.bytes) && t.alone) then
    let t1 := t.dropBundle b
    some (s.setTile u.tile { t1 with windows := t1.windows.map fun w =>
      if w.id = b.win ∧ 0 < w.bundles then { w with closing := true } else w })
  else none

/-- A slot that reads a register whose write is pending slips (R88); none does in conservative mode (R98). -/
def State.slotSlip (s : State) (u : Issue) (b : BundleIP) (i : SlotInfo) : State :=
  let t := s.tile u.tile
  if (i.srcs.any fun k => t.isPending b.seq k) && !t.careful b i then s.setTile u.tile (t.slip 2 b.stream b.pc b.win) else s

/-- One slot of a bundle (R48, R51, R52, R88, R98, R106). A slot that cannot issue now changes nothing but the time. -/
def State.slot (s : State) (u : Issue) (bit : Nat) (info : Tile → BundleIP → SlotInfo)
    (body : State → BundleIP → SlotRes) : State :=
  let s1 := s.beginSlot u bit
  match s1.slotBundle u bit with
  | none => s1
  | some b =>
    let i := info (s1.tile u.tile) b
    match s1.stallSlot u b i with
    | some s2 => s2
    | none =>
      let s2 := s1.slotSlip u b i
      let b0 := b.count i
      match b0.clash i with
      | some c => s2.closeSlot u (b0.stop c.1 c.2)
      | none =>
        match body s2 (b0.name i) with
        | .ok s3 b2 => s3.closeSlot u b2
        | .halt reason detail => s2.closeSlot u ((b0.name i).stop reason detail)

end Sys2Proof.Machine
end

