-- ==== Sys2Proof/Machine/TileScalar.lean ====
section
/-! DEFINITION. The scalar slot of a bundle (R53, R58 to R72), and the bundle with no slot (R50). -/

namespace Sys2Proof.Machine

/-- What every meaning answers: the next state. -/
abbrev Answer := Host.Outcome State Fault Refusal

/-- The scalar register a slot reads, as it stood when the bundle issued (R48). -/
def BundleIP.s (b : BundleIP) (n : Nat) : Reg64 := b.start.getS b.stream n

/-- Whether one of the registers a slot reads was poisoned (R77). -/
def BundleIP.poisoned (b : BundleIP) (keys : List Nat) : Bool := keys.any fun k => b.start.poisoned.contains k

/-- A scalar result: readable `lat` cycles after issue; s0 discards it (R44, R58). -/
def State.putS (s : State) (u : Issue) (b : BundleIP) (rd lat : Nat) (v : Reg64) (p : Bool) : State :=
  if rd = 0 then s
  else
    let t := s.tile u.tile
    s.setTile u.tile (t.write (sKey b.stream rd) (t.cycle + lat) b.win b.seq p (.sreg v))

/-- The key of the second source, if it is a register. -/
def src2Keys (st : Stream) (x : Src2) : List Nat := if x.i then [] else [sKey st x.rb.val]

/-- A scalar slot whose sources are registers and whose destination is one scalar register. -/
def State.scalarOp (s : State) (u : Issue) (legal : Bool) (srcs : List Nat) (rd lat : Nat)
    (f : State → BundleIP → Reg64) : State :=
  s.slot u 0 (fun _ _ => { SlotInfo.none_ with legal := legal, srcs := srcs, dests := [sKey u.stream rd] })
    fun s b => .ok (s.putS u b rd lat (f s b) (b.poisoned srcs)) b

/-- Operations 0x01 to 0x08 on 64-bit values, wrapping; shifts use src2[5:0] (R44, R58). -/
def aluVal (op : AluOp) (a b : Reg64) : Reg64 :=
  match op with
  | .add => a + b
  | .sub => a - b
  | .band => a &&& b
  | .bor => a ||| b
  | .bxor => a ^^^ b
  | .shl => a <<< (b.toNat % 64)
  | .shr => a >>> (b.toNat % 64)
  | .sar => a.sshiftRight (b.toNat % 64)

/-- Signed and unsigned minimum and maximum (R58). -/
def minMaxVal (op : MinMaxOp) (a b : Reg64) : Reg64 :=
  match op with
  | .min => if a.slt b then a else b
  | .max => if a.slt b then b else a
  | .minu => if a.ult b then a else b
  | .maxu => if a.ult b then b else a

/-- Relations that give 1 or 0 (R58). -/
def setVal (op : SetOp) (a b : Reg64) : Reg64 :=
  let r := match op with
    | .slt => a.slt b
    | .sltu => a.ult b
    | .seq => a == b
  if r then 1 else 0

/-- Branch relations (R58). -/
def branchTaken (op : BranchOp) (a b : Reg64) : Bool :=
  match op with
  | .beq => a == b
  | .bne => a != b
  | .blt => a.slt b
  | .bge => !a.slt b
  | .bltu => a.ult b
  | .bgeu => !a.ult b

/-- A bundle with no slot present: one cycle of nothing (R50). -/
def execBundleNop (u : Issue) (s : State) : Answer :=
  .next (s.slot u 6 (fun _ _ => SlotInfo.none_) fun s b => .ok s b)

def execAluOp (u : Issue) (op : AluOp) (rd ra : Fin 32) (src : Src2) (s : State) : Answer :=
  .next (s.scalarOp u true (sKey u.stream ra.val :: src2Keys u.stream src) rd.val 1
    fun _ b => aluVal op (b.s ra.val) (src2Val (fun n => b.s n) src))

/-- The low 64 bits of the product, latency 3 (R58). -/
def execMul (u : Issue) (rd ra : Fin 32) (src : Src2) (s : State) : Answer :=
  .next (s.scalarOp u true (sKey u.stream ra.val :: src2Keys u.stream src) rd.val 3
    fun _ b => b.s ra.val * src2Val (fun n => b.s n) src)

def execMinMax (u : Issue) (op : MinMaxOp) (rd ra : Fin 32) (src : Src2) (s : State) : Answer :=
  .next (s.scalarOp u true (sKey u.stream ra.val :: src2Keys u.stream src) rd.val 1
    fun _ b => minMaxVal op (b.s ra.val) (src2Val (fun n => b.s n) src))

def execSetCompare (u : Issue) (op : SetOp) (rd ra : Fin 32) (src : Src2) (s : State) : Answer :=
  .next (s.scalarOp u true (sKey u.stream ra.val :: src2Keys u.stream src) rd.val 1
    fun _ b => setVal op (b.s ra.val) (src2Val (fun n => b.s n) src))

/-- sD := IMM, sign-extended (R53, R58). -/
def execLi (u : Issue) (rd : Fin 32) (imm : BitVec 40) (s : State) : Answer :=
  .next (s.scalarOp u true [] rd.val 1 fun _ _ => imm.signExtend 64)

/-- A write of an address or step register of the A stream from src2[39:0] (R45, R58). -/
def State.setAddr (s : State) (u : Issue) (key : Nat) (src : Src2) : State :=
  s.slot u 0 (fun _ _ => { SlotInfo.none_ with legal := u.stream == .A, srcs := src2Keys u.stream src, dests := [key] })
    fun s b =>
      let t := s.tile u.tile
      let v : AReg := (src2Val (fun n => b.s n) src).truncate 40
      .ok (s.setTile u.tile (t.write key (t.cycle + 1) b.win b.seq (b.poisoned (src2Keys u.stream src)) (.areg v))) b

def execSeta (u : Issue) (n : Fin 16) (src : Src2) (s : State) : Answer := .next (s.setAddr u (64 + n.val) src)

def execSett (u : Issue) (n : Fin 16) (src : Src2) (s : State) : Answer := .next (s.setAddr u (80 + n.val) src)

/-- sD := aN, sign-extended from bit 39 (R45, R58). -/
def execRda (u : Issue) (rd : Fin 32) (n : Fin 16) (s : State) : Answer :=
  .next (s.scalarOp u (u.stream == .A) [64 + n.val] rd.val 1 fun _ b => (b.start.getA n.val).signExtend 64)

def execRdt (u : Issue) (rd : Fin 32) (n : Fin 16) (s : State) : Answer :=
  .next (s.scalarOp u (u.stream == .A) [80 + n.val] rd.val 1 fun _ b => (b.start.getT n.val).signExtend 64)

/-- Binds aN to loop IMM[2:0], 4 unbinds, 5 to 7 are illegal (R46, R58). The binding stands from the issue on, also for a trip that
this bundle ends (DESIGN CHOICE, log entry 69). -/
def execBind (u : Issue) (n : Fin 16) (imm : BitVec 40) (s : State) : Answer :=
  let k := imm.toNat % 8
  .next (s.slot u 0 (fun _ _ => { SlotInfo.none_ with legal := (u.stream == .A) && decide (k ≤ 4) }) fun s b =>
    let t := s.tile u.tile
    .ok (s.setTile u.tile { t with core := { t.core with binds := mput 0 t.core.binds n.val (if k = 4 then 0 else k + 1) } }) b)

/-- The trips that remain of loop K, including the current one; 0 when it is inactive (R72). -/
def liveCount (l : List LoopRec) (k : Nat) : Nat := match l.find? (fun x => x.k == k) with | some x => x.remaining | none => 0

def execRdlc (u : Issue) (rd : Fin 32) (k : Fin 4) (s : State) : Answer :=
  .next (s.scalarOp u true [] rd.val 1 fun _ b => BitVec.ofNat 64 (liveCount (b.start.loops b.stream) k.val))

/-- A TIL_ register of the own tile, 0 where none stands; latency 4 (R58). -/
def execRdreg (u : Issue) (rd : Fin 32) (imm : BitVec 40) (s : State) : Answer :=
  .next (s.scalarOp u true [] rd.val 4 fun s _ =>
    if imm.toInt < 0 then 0 else BitVec.ofNat 64 (((s.tile u.tile).tilReg imm.toNat).getD 0))

/-- The address a branch names: the bundle's address + 8 × IMM (R58). -/
def branchTarget (pc : Nat) (imm : BitVec 40) : Int := (pc : Int) + 8 * imm.toInt

/-- A taken branch: a target below 0 wraps in the 23 bits of a program counter (R40; log entry 20). -/
def BundleIP.take (b : BundleIP) (imm : BitVec 40) : BundleIP :=
  { b with branch := some ((branchTarget b.pc imm % (2 ^ 23 : Int)).toNat) }

def execJmp (u : Issue) (imm : BitVec 40) (s : State) : Answer :=
  .next (s.slot u 0 (fun _ _ => SlotInfo.none_) fun s b => .ok s (b.take imm))

/-- Conditional branches; I = 1 is illegal (R51, R58, R59). -/
def execCondBranch (u : Issue) (op : BranchOp) (ra rb : Fin 32) (i : Bool) (imm : BitVec 40) (s : State) : Answer :=
  .next (s.slot u 0 (fun _ _ => { SlotInfo.none_ with legal := !i, srcs := [sKey u.stream ra.val, sKey u.stream rb.val] })
    fun s b => .ok s (if branchTaken op (b.s ra.val) (b.s rb.val) then b.take imm else b))

/-- Hardware loop entry (R65, R66, R68): the checks come first, a trip count of zero skips the body. The spec does not say that the
end offset is signed, nor which halt stands where the loop-count fault and a fault of R68 coincide: the model reads IMM[39:16] as
signed, so that 2^23 and above halts, and takes the loop-count halt first (DESIGN CHOICE, log entry 72). -/
def execLoop (u : Issue) (k : Fin 4) (ra : Fin 32) (i : Bool) (imm : BitVec 40) (s : State) : Answer :=
  .next (s.slot u 0
    (fun _ _ => { SlotInfo.none_ with srcs := if i then [] else [sKey u.stream ra.val] })
    fun s b =>
      let t := s.tile u.tile
      let loops := b.start.loops b.stream
      let len := hdrLength b.hdr
      let off : Int := (imm.extractLsb' 16 24).toInt
      let endA : Int := (b.pc : Int) + 8 * off
      let trips : Int := if i then imm.toNat % 2 ^ 16 else (b.s ra.val).toInt
      if trips < 0 ∨ 65535 < trips then .halt 0x12 (ucode 32 trips)
      else if (loops.any fun l => l.k == k.val) || decide (off < len) || (loops.any fun l => decide ((l.endAddr : Int) < endA)) ||
          decide (4 ≤ loops.length) then .halt 0x11 (3 * 256 + k.val)
      else if trips = 0 then
        -- the bundle after the body: the last body bundle's own length decides where it stands
        let lastHdr := BitVec.ofNat 64 (ofBytes (memRead t.spad endA.toNat 8))
        .ok s { b with skip := some (endA.toNat + 8 * hdrLength lastHdr) }
      else
        let l : LoopRec := { k := k.val, first := b.pc + 8 * len, endAddr := endA.toNat, remaining := trips.toNat, exit := false }
        .ok (s.setTile u.tile { t with core := t.core.setLoops b.stream (l :: t.core.loops b.stream) }) b)

/-- Marks the innermost active loop to end with its current trip (R70). -/
def execLexit (u : Issue) (s : State) : Answer :=
  .next (s.slot u 0 (fun _ _ => SlotInfo.none_) fun s b =>
    let t := s.tile u.tile
    match t.core.loops b.stream with
    | [] => .ok s b
    | l :: ls => .ok (s.setTile u.tile { t with core := t.core.setLoops b.stream ({ l with exit := true } :: ls) }) b)

/-- Pushes one item with the register in bytes [7:0]: E to SQn, A to LQn (R58, R74). -/
def execQput (u : Issue) (q : Fin 4) (ra : Fin 32) (s : State) : Answer :=
  let key := pushQueue u.stream q.val
  .next (s.slot u 0 (fun _ _ => { SlotInfo.none_ with srcs := [sKey u.stream ra.val], pushes := [key] }) fun s b =>
    let t := s.tile u.tile
    let it : QItem := { payload := (b.s ra.val).zeroExtend 2048, poison := b.poisoned [sKey u.stream ra.val], readyAt := 0, flips := 0 }
    let a : Act := { start := t.cycle, win := b.win, seq := b.seq, pc := b.pc, stream := b.stream, kind := .pushItem key it }
    .ok (s.setTile u.tile { t with core := { t.core with acts := t.core.acts ++ [a] } }) b)

/-- Pops one item into sD from its bytes [7:0]: E pops LQn, A pops SQn; latency 2 (R58, R74). -/
def execQget (u : Issue) (rd : Fin 32) (q : Fin 4) (s : State) : Answer :=
  let key := popQueue u.stream q.val
  .next (s.slot u 0 (fun _ _ => { SlotInfo.none_ with dests := [sKey u.stream rd.val], pops := [key] }) fun s b =>
    let t := s.tile u.tile
    let a : Act := { start := t.cycle, win := b.win, seq := b.seq, pc := b.pc, stream := b.stream
                     kind := .popReg key (sKey b.stream rd.val) }
    .ok (s.setTile u.tile { t with core := { t.core with acts := t.core.acts ++ [a] } }) b)

/-- The occupancy, at the start of the cycle, of the queue the stream pops; never a slip (R58). -/
def execQcnt (u : Issue) (rd : Fin 32) (q : Fin 4) (s : State) : Answer :=
  .next (s.scalarOp u true [] rd.val 1 fun _ b => BitVec.ofNat 64 (b.start.queue (popQueue u.stream q.val)).length)

end Sys2Proof.Machine
end

