-- ==== Sys2Proof/Machine/TileSync.lean ====
section
/-! DEFINITION. The sync slot of a bundle (R42, R43, R54, R60, R93, R297, R305, R311). -/

namespace Sys2Proof.Machine

/-- A sync slot that reads scalar registers. -/
def State.syncSlot (s : State) (u : Issue) (legal : Bool) (srcs : List Nat) (body : State → BundleIP → SlotRes) : State :=
  s.slot u 5 (fun _ _ => { SlotInfo.none_ with legal := legal, srcs := srcs }) body

/-- The turnstile holds an effect of the sync slot, behind that of the store slot (R93, R94). -/
def State.holdSync (s : State) (u : Issue) (b : BundleIP) (e : Effect) : State :=
  s.setTile u.tile ((s.tile u.tile).hold b.win (2 * b.seq + 1) b.origin e)

/-- n = s[RB] + IMM, a signed 64-bit value (R60, R312). -/
def syncAmount (b : BundleIP) (rb : Fin 32) (imm : BitVec 14) : Int := (b.s rb.val + imm.zeroExtend 64).toInt

/-- The stream stalls, and the window closes if the operation ends it (R43, R89). -/
def State.stallFor (s : State) (u : Issue) (b : BundleIP) (x : Stall) (closes : Bool) : SlotRes :=
  let t := s.tile u.tile
  .ok (s.setTile u.tile { t with core := t.core.setStall b.stream x }) { b with closes := b.closes || closes }

/-- A signal of +n is held until its window is confirmed (R60, R93). -/
def execSig (u : Issue) (ra rb : Fin 32) (imm : BitVec 14) (s : State) : Answer :=
  .next (s.syncSlot u true [sKey u.stream ra.val, sKey u.stream rb.val] fun s b =>
    .ok (s.holdSync u b (.sig (b.s ra.val) (syncAmount b rb imm))) b)

/-- A threshold signal; a TILE of 96 or above halts before the bundle issues (R60, R311). -/
def execSigT (u : Issue) (ra rb : Fin 32) (imm : BitVec 14) (s : State) : Answer :=
  .next (s.syncSlot u true [sKey u.stream ra.val, sKey u.stream rb.val] fun s b =>
    let v := b.s ra.val
    if 96 ≤ fld v.toNat 16 10 then .halt 0x20 (fld v.toNat 0 32)
    else .ok (s.holdSync u b (.sigT v imm.toNat ((b.s rb.val).truncate 32))) b)

/-- A consuming wait: the window ends with it, and it goes out at confirmation (R60, R89, R93, R313). -/
def execWait (u : Issue) (ra rb : Fin 32) (imm : BitVec 14) (s : State) : Answer :=
  .next (s.syncSlot u true [sKey u.stream ra.val, sKey u.stream rb.val] fun s b =>
    (s.holdSync u b (.wait b.stream (b.s ra.val) (syncAmount b rb imm))).stallFor u b .semWait true)

/-- An observing wait (R60, R314). -/
def execObs (u : Issue) (ra rb : Fin 32) (imm : BitVec 14) (s : State) : Answer :=
  .next (s.syncSlot u true [sKey u.stream ra.val, sKey u.stream rb.val] fun s b =>
    (s.holdSync u b (.obs b.stream (b.s ra.val) (syncAmount b rb imm))).stallFor u b .semWait true)

/-- Waits until arrival counter IMM[5:0] of the own tile is at least s[RB], as unsigned 32-bit values (R60, R305). -/
def execAwait (u : Issue) (rb : Fin 32) (imm : BitVec 14) (s : State) : Answer :=
  .next (s.syncSlot u true [sKey u.stream rb.val] fun s b =>
    s.stallFor u b (.await (imm.toNat % 64) ((b.s rb.val).toNat % 2 ^ 32)) true)

/-- Sets arrival counter IMM[5:0] to s[RB][31:0] at confirmation (R60, R93, R305). -/
def execAcset (u : Issue) (rb : Fin 32) (imm : BitVec 14) (s : State) : Answer :=
  .next (s.syncSlot u true [sKey u.stream rb.val] fun s b =>
    .ok (s.holdSync u b (.acset (imm.toNat % 64) ((b.s rb.val).truncate 32))) b)

/-- A fence of scope IMM[1:0]: it closes its window, and neither stream issues until it completes; scope 3 is illegal
(R51, R89, R297). -/
def execFence (u : Issue) (imm : BitVec 14) (s : State) : Answer :=
  .next (s.syncSlot u (decide (imm.toNat % 4 ≠ 3)) [] fun s b =>
    let t := s.tile u.tile
    let f : FenceRec := { stream := b.stream, scope := imm.toNat % 4, win := b.win, issued := t.cycle }
    .ok (s.setTile u.tile { t with fences := t.fences ++ [f] }) { b with closes := true })

/-- Fires interrupt source (s[RA] + IMM)[10:0] (R60, R93). -/
def execBell (u : Issue) (ra : Fin 32) (imm : BitVec 14) (s : State) : Answer :=
  .next (s.syncSlot u true [sKey u.stream ra.val] fun s b =>
    .ok (s.holdSync u b (.bell ((b.s ra.val + imm.zeroExtend 64).truncate 11))) b)

/-- Waits until the queue holds at least k = IMM[6:2] + 1 items; more than 16 is illegal (R51, R60). -/
def execQwait (u : Issue) (imm : BitVec 14) (s : State) : Answer :=
  let k := imm.toNat / 4 % 32
  .next (s.syncSlot u (decide (k ≤ 15)) [] fun s b =>
    s.stallFor u b (.qwait (popQueue b.stream (imm.toNat % 4)) (k + 1)) false)

/-- Stops the stream (R42). -/
def execEndOp (u : Issue) (s : State) : Answer :=
  .next (s.syncSlot u true [] fun s b => s.stallFor u b .ended false)

end Sys2Proof.Machine
end

