-- ==== Sys2Proof/Machine/TileMem.lean ====
section
/-! DEFINITION. The load and store slots of a bundle (R55, R61 to R64, R83 to R86, R141 to R168, R169, R296, R324, R477, R610,
R611, R615). -/

namespace Sys2Proof.Machine

/-! ### Paths -/

/-- The ld.q figure of the path to an address (R86): its nominal latency in tile cycles. -/
def State.loadFigure (s : State) (n a : Nat) : Nat :=
  let cls (r : Nat) (x y z : Nat) : Nat :=
    match pathClass (tileRegion n) r with | 0 => x | 1 => y | _ => z
  match decodeAddr a with
  | some (.spad t _) => if t = n then 6 else cls (tileRegion t) 24 48 96
  | some (.region r _) => cls r 32 56 104
  | some (.stack x) => match s.resolve x with | some p => cls p.stack 176 208 272 | none => 176
  | some (.host _) => 1600
  | some (.reg o) => regFigure n o
  | none => 6

/-- The nominal cycle of the first push of a load of `count` items, and the tile with the path class taken for it (R86,
R615). Loads of the own scratchpad share nothing but their queue. -/
def Tile.takePath (t : Tile) (fig count : Nat) : Nat × Nat × Tile :=
  let rate := if fig = 1600 then 4 else 1
  let nominal := t.cycle + fig - 1
  if fig = 6 then (nominal, rate, t)
  else
    let first := max nominal (mget 0 t.classFree fig)
    (first, rate, { t with classFree := mput 0 t.classFree fig (first + count * rate) })

/-- Rising granule numbers as runs of neighbours within 4 KiB, one host request each. -/
def granuleRuns : List Nat → List (Nat × Nat)
  | [] => []
  | g :: gs =>
    match granuleRuns gs with
    | (h, n) :: rs => if h = g + 1 ∧ h % 64 ≠ 0 then (g, n + 1) :: rs else (g, 1) :: (h, n) :: rs
    | [] => [(g, 1)]

/-- Sends the reads of 64-byte granules of stack or host memory for a load of tile `n`. -/
def State.sendReads (s : State) (n id sp : Nat) (gs : List Nat) : State :=
  if sp = 3 then
    (granuleRuns gs).foldl (fun acc r =>
      acc.hostRead acc.job.owner (r.1 * 64 % 2 ^ 52) (r.2 * 64) (.load n id 0 r.1)) s
  else
    gs.foldl (fun acc g =>
      match acc.resolve (g * 64 % 2 ^ 52) with
      | some p => acc.sendAccess p (.read 64) (.load n id 0 g)
      | none => acc) s

/-- Whether a space answers through its own path: stack and host memory. -/
def remoteSpace (sp : Nat) : Bool := sp == 0 || sp == 3

/-- Issues a load of packed items into queue `q` (R61, R86, R92, R157, R615). Memory of the tiles and regions is read at
issue; stack and host memory returns later. A load whose granules lie on paths of several classes takes the largest of their
figures for the whole load, which the spec leaves open (DESIGN CHOICE, log entry 73). -/
def State.startLoad (s : State) (n : Nat) (b : BundleIP) (q : Nat) (desc : List Byte) (h : Nat) (index : Int)
    (count : Nat) : State :=
  let t := s.tile n
  let d := parseDesc desc n
  let its := (List.range count).map fun k => d.itemAt (t.reader n s.outside) index k
  let oob := its.foldl (fun acc it => acc ++ it.2.2) []
  let far := !d.table && remoteSpace (spaceOf d.base)
  let touched := if d.table then [] else (List.range count).foldl (fun acc k =>
    (d.itemGranules index k).foldl (fun a g => setIns g a) acc) []
  let gs := if far then touched else []
  let fig := if d.table then 6
    else if touched.isEmpty then s.loadFigure n d.base
    else touched.foldl (fun m g => max m (s.loadFigure n (g * 64))) 0
  let p := t.takePath fig count
  let t1 := { p.2.2 with core := p.2.2.core.countOob false b.stream h (if q = 99 then [] else oob), nextLoad := t.nextLoad + 1 }
  let items := if far then [] else its.map fun it => ({ payload := it.1, poison := it.2.1, readyAt := 0, flips := 0 } : QItem)
  let l : LoadIP := { id := t.nextLoad, win := b.win, seq := b.seq, q := q, pc := b.pc, nextAt := p.1, cls := fig, rate := p.2.1
                      pushed := 0, count := count, items := items, desc := desc, index := index, data := [], poison := []
                      missing := gs }
  (s.setTile n { t1 with loads := t1.loads ++ [l] }).sendReads n t.nextLoad (spaceOf d.base) gs

/-! ### Checks of an access -/

/-- The lowest byte of an unpopulated granule among the bytes of item `k`; windows end at granules (R110, R222). -/
def State.itemBad (s : State) (d : Desc) (index : Int) (k : Nat) : List Nat :=
  (itemElems d.bits k).filterMap fun (e : Nat) =>
    match d.place (index + (e : Int)) with
    | .elem o _ =>
      let sp := elemSpan d.base d.bits o
      if !s.populated sp.1 then some sp.1
      else if !s.populated (sp.1 + sp.2 - 1) then some ((sp.1 + sp.2 - 1) / 64 * 64) else none
    | _ => none

/-- The lowest unpopulated byte that an item stream touches in stack memory (R21, R110, R222). -/
def State.streamBad (s : State) (d : Desc) (index : Int) (count : Nat) : Option Failure :=
  if d.table || spaceOf d.base != 0 then none
  else
    let bad := (List.range count).filter fun k => (d.itemGranules index k).any fun g => !s.populated (g * 64)
    match (bad.map fun k => s.itemBad d index k).flatten with
    | [] => none
    | a :: l => some (0x20, l.foldl min a % 2 ^ 32)

/-- The checks of a load or store through a descriptor, in the order of R614. -/
def State.accessFailure (s : State) (n h : Nat) (d : Desc) (u : Use) (index : Int) (count : Nat) : Option Failure :=
  firstFailure [d.verify h u n, if u.writes then d.verifyWrite h else none, s.verifySpace d, s.streamBad d index count]

/-- A slot body that a failure halts. -/
def orHalt (f : Option Failure) (r : SlotRes) : SlotRes :=
  match f with
  | some (reason, detail) => .halt reason detail
  | none => r

/-- An element or byte offset: aN + IMM as signed numbers (R45, R61). -/
def BundleIP.offset (b : BundleIP) (areg : Fin 16) (imm : BitVec 24) : Int := (b.start.getA areg.val).toInt + imm.toInt

/-- The registers a memory slot reads: the address register, the handle's entry, and for the table view the entries read
(R48, R145). -/
def memSrcs (b : BundleIP) (areg : Fin 16) (imm : BitVec 24) (h : Fin 1024) (len : Nat) : List Nat :=
  (64 + areg.val) :: (if h.val = 1023 then tableKeys (b.offset areg imm) len else [1024 + h.val])

/-! ### Loads -/

/-- ld.q: COUNT × 256 bytes of the packed element stream of the handle into LQn (R61). -/
def execLdQ (u : Issue) (h : Fin 1024) (areg : Fin 16) (q : Fin 4) (count : BitVec 8) (_vol : Bool) (imm : BitVec 24)
    (s : State) : Answer :=
  .next (s.slot u 3
    (fun _ b => { SlotInfo.none_ with legal := u.stream == .A && decide (hdrLong u.hdr ≠ 1), srcs := memSrcs b areg imm h (256 * (count.toNat + 1)), loads := [q.val] })
    fun s b =>
      let n := u.tile
      let bytes := b.start.descBytes h.val
      let d := parseDesc bytes n
      let j := b.offset areg imm
      orHalt (s.accessFailure n h.val d (.move false) j (count.toNat + 1))
        (.ok (s.startLoad n b q.val bytes h.val j (count.toNat + 1)) b))

/-- The bytes of a row-form access, as rows of (address, length) (R83). -/
def longRows (f : LongForm) (base : Int) : List Int :=
  (List.range (f.rows.toNat + 1)).map fun r => base + (r : Nat) * f.rowstride.toInt

/-- The address-range failure of a row-form access (R84): its lowest offending byte. -/
def longFailure (f : LongForm) (base : Int) : Option Failure :=
  let rb := f.rowbytes.toNat + 1
  (longRows f base).foldl (fun (acc : Option Failure) a =>
    let bad : Option Int := if a < 0 then some a else if 0x600000 < a + rb then some (max a 0x600000) else none
    match acc, bad with
    | none, some x => some (0x20, ucode 32 x)
    | some (r, y), some x => some (r, ucode 32 (min (sext 32 y) x))
    | acc, none => acc) none

/-- Items of a row-form load: the rows packed back to back, the last item padded with zeros (R83). -/
def Tile.rowItems (t : Tile) (f : LongForm) (base : Int) : List QItem :=
  let rb := f.rowbytes.toNat + 1
  let cells := (longRows f base).foldl (fun (acc : List (Byte × Bool)) a =>
    acc ++ (List.range rb).map fun i => (memGet t.spad (a.toNat + i), poisonRead t.spadPoison (a.toNat + i) 1)) []
  (chunks 256 (cdiv cells.length 256) cells).map fun c =>
    { payload := BitVec.ofNat 2048 (ofBytes (c.map (·.1))), poison := c.any (·.2), readyAt := 0, flips := 0 }

/-- The byte address of row 0: SPADDR + aN (R83). -/
def longBase (f : LongForm) (b : BundleIP) : Int := f.spaddr.toNat + (b.start.getA f.areg.val).toInt

/-- The number of items of a row-form access (R83). -/
def longItems (f : LongForm) : Nat := cdiv ((f.rowbytes.toNat + 1) * (f.rows.toNat + 1)) 256

/-- ld.q.l: rows of the own scratchpad into LQn (R83, R84). -/
def execLdQL (u : Issue) (f : LongForm) (s : State) : Answer :=
  .next (s.slot u 3
    (fun _ _ => { SlotInfo.none_ with legal := u.stream == .A && decide (hdrLong u.hdr = 1), srcs := [64 + f.areg.val], loads := [f.queue.val] })
    fun s b =>
      let t := s.tile u.tile
      let p := t.takePath 6 (longItems f)
      let l : LoadIP := { id := t.nextLoad, win := b.win, seq := b.seq, q := f.queue.val, pc := b.pc, nextAt := p.1, cls := 6
                          rate := 1, pushed := 0, count := (longItems f), items := t.rowItems f (longBase f b), desc := []
                          index := 0, data := [], poison := [], missing := [] }
      orHalt (longFailure f (longBase f b))
        (.ok (s.setTile u.tile { t with loads := t.loads ++ [l], nextLoad := t.nextLoad + 1 }) b))

/-- Bytes of a scalar access (R55). -/
def widthBytes : Width → Nat
  | .b1 => 1
  | .b2 => 2
  | .b4 => 4
  | .b8 => 8

/-- Whether the window of a stack address is read-mostly, so that an ld.s may fill the scalar cache from it (R223, R296). -/
def State.readMostly (s : State) (a : Nat) : Bool :=
  spaceOf a == 0 && (match s.window (a % 2 ^ 52) with | some w => w.rmostly | none => false)

/-- The address of a scalar access, as a signed number: a table address stays in the table's own space. -/
def Desc.scalarAddr (d : Desc) (o : Int) : Int := (d.base : Int) + o

/-- The failure of a scalar access (R63, R614). -/
def State.scalarFailure (s : State) (n h : Nat) (d : Desc) (write : Bool) (o : Int) (w : Nat) : Option Failure :=
  let at_ := d.scalarAddr o
  let inside := d.inFootprint (if d.table then o else at_) w
  firstFailure
    [ if o % (w : Int) = 0 then none else some (0x20, ucode 32 at_)
    , d.verify h (.scalar write) n
    , if write then d.verifyWrite h else none
    , s.verifySpace d
    , if !d.table && inside && !s.populatedRange at_.toNat w then some (0x20, s.firstBad at_.toNat w % 2 ^ 32) else none ]

/-- A scalar value that is readable `lat` cycles after issue. -/
def Tile.putScalar (t : Tile) (b : BundleIP) (sreg lat : Nat) (v : Nat) (p : Bool) : Tile :=
  if sreg = 0 then t else t.write sreg (t.cycle + lat) b.win b.seq p (.sreg (BitVec.ofNat 64 v))

/-- A scalar load goes out to memory or a register outside the tile: its register is written once `missing` has returned (R61, R86). -/
def Tile.sendScalar (t : Tile) (b : BundleIP) (sreg lat a w : Nat) (fill : Bool) : Tile :=
  let x : ScalarLoad := { id := t.nextLoad, win := b.win, seq := b.seq, pc := b.pc, sreg := sreg, due := t.cycle + lat, fill := fill
                          addr := a, width := w, data := [], poison := [], missing := granulesOf a w }
  { t with sloads := t.sloads ++ [x], nextLoad := t.nextLoad + 1 }

/-- ld.s: WIDTH bytes, zero-extended, through the scalar cache for a read-mostly window (R61, R63, R86, R159, R296, R610). The bytes
of stack memory come granule by granule. A read of register space reaches the block after half its figure, which the spec does not
place (DESIGN CHOICE, log entry 74). -/
def State.loadScalar (s : State) (n : Nat) (b : BundleIP) (d : Desc) (h : Nat) (sreg w : Nat) (vol : Bool) (o : Int) : State :=
  let t := s.tile n
  if d.inFootprint (if d.table then o else d.scalarAddr o) w = false then
    let t1 := { t with core := t.core.countOob false b.stream h [o] }
    s.setTile n (t1.putScalar b sreg 4 0 false)
  else
    let a := (d.scalarAddr o).toNat
    let bytes (rd : Reader) : Nat × Bool :=
      (ofBytes ((List.range w).map fun i => (rd (a + i)).1), (List.range w).any fun i => (rd (a + i)).2)
    if d.table then
      let v := bytes (t.reader n s.outside)
      s.setTile n (t.putScalar b sreg 8 v.1 v.2)
    else
      let lines := granulesOf a w
      let fig := lines.foldl (fun m g => max m (s.loadFigure n (g * 64))) 0
      match spaceOf a with
      | 0 =>
        if !vol && s.readMostly a && lines.all (fun g => t.cacheOrder.contains g) then
          let v := ofBytes ((List.range w).map fun i =>
            ((mget 0 t.cache ((a + i) / 64)).extractLsb' (8 * ((a + i) % 64)) 8 : Byte))
          s.setTile n (t.putScalar b sreg 4 v false)
        else
          lines.foldl (fun acc g =>
            match acc.resolve (g * 64 % 2 ^ 52) with
            | some p => acc.sendAccess p (.read 64) (.scalar n t.nextLoad (g * 64))
            | none => acc) (s.setTile n (t.sendScalar b sreg (fig + 2) a w (!vol && s.readMostly a)))
      | 3 => (s.setTile n (t.sendScalar b sreg (fig + 2) a w false)).hostRead s.job.owner (a % 2 ^ 52) w (.scalar n t.nextLoad a)
      | 4 =>
        let t1 := t.sendScalar b sreg (s.loadFigure n a + 2) a w false
        s.setTile n { t1 with regReads := t1.regReads ++
          [{ at_ := t.cycle + cdiv (s.loadFigure n a) 2, id := t.nextLoad, addr := a, width := w }] }
      | _ =>
        let v := bytes (t.reader n s.outside)
        s.setTile n (t.putScalar b sreg (fig + 2) v.1 v.2)

def execLdS (u : Issue) (h : Fin 1024) (areg : Fin 16) (sreg : Fin 32) (w : Width) (vol : Bool) (imm : BitVec 24)
    (s : State) : Answer :=
  .next (s.slot u 3
    (fun _ b => { SlotInfo.none_ with legal := u.stream == .A && decide (hdrLong u.hdr ≠ 1), srcs := memSrcs b areg imm h (widthBytes w), dests := [sreg.val] })
    fun s b =>
      let d := parseDesc (b.start.descBytes h.val) u.tile
      let o := b.offset areg imm
      orHalt (s.scalarFailure u.tile h.val d false o (widthBytes w))
        (.ok (s.loadScalar u.tile b d h.val sreg.val (widthBytes w) vol o) b))

/-! ### Stores -/

/-- A store of the tile invalidates the cache lines it covers (R296); the undo log keeps the cache (R91, R93). -/
def Tile.invalidate (t : Tile) (lines : List Nat) : Tile :=
  if t.cacheOrder.any (fun l => lines.contains l) then
    let t1 := t.logCache
    { t1 with cache := t1.cache.filter (fun e => !lines.contains e.1), cacheOrder := t1.cacheOrder.filter (fun l => !lines.contains l) }
  else t

/-- The cache lines that a store of items covers. -/
def Desc.storeLines (d : Desc) (index : Int) (count : Nat) : List Nat :=
  if d.table || spaceOf d.base != 0 then []
  else (List.range count).foldl (fun acc k => acc ++ d.itemGranules index k) []

/-- The destination of a one-item store, if it is a command port of the tile's own region: 0 copy, 1 atomics, 2 host-DMA
(R169, R321, R477). -/
def commandPort (n : Nat) (d : Desc) (index : Int) (count : Nat) : Option Nat :=
  let base : Int := (4 * 2 ^ 52 + 0x20000000 + tileRegion n * 0x10000 : Nat)
  let a : Int := (d.base : Int) + index * d.bits / 8
  if count ≠ 1 then none
  else if a = base then some 0
  else if a = base + 0x200 then some 1
  else if a = base + 0x400 then some 2
  else none

/-- The 14th and 15th checks of a copy command (R151, R171). -/
def copyFieldsFailure (it : List Byte) (src dst : Desc) : Option Nat :=
  let perm := byteField it 0x80 3 % 2 ^ 18
  let dims := List.range dst.rank
  let p (d : Nat) : Nat := fld perm (3 * d) 3
  let named := dims.all fun d => decide ((dims.filter fun e => decide (p e = d)).length = 1)
  let zero := (List.range 6).all fun d => decide (d < dst.rank) || decide (p d = 0)
  let exts := dims.all fun d => decide (dst.exts.getD d 0 = src.exts.getD (p d) 0)
  if src.exts.length ≠ dst.exts.length ∨ !named ∨ !zero ∨ !exts then some 14
  else if fld (byteField it 0x84 1) 0 2 = 3 ∨ (fld (byteField it 0x84 1) 3 1 = 1 ∧ spaceOf dst.base ≠ 2) then some 15
  else none

/-- Whether a copy command is a code copy (R173). -/
def copyIsCode (it : List Byte) (src dst : Desc) : Bool :=
  src.fmt == dst.fmt && src.block == dst.block && decide (fld (byteField it 0x80 3) 0 3 = 0) &&
    !(fmtIsCode src.fmt && src.scaleOff != dst.scaleOff)

/-- The checks of a copy command before its store issues (R169, R614). -/
def State.copyFailure (s : State) (n h : Nat) (it : List Byte) : Option Failure :=
  let src := parseDesc (it.take 64) n
  let dst := parseDesc ((it.drop 64).take 64) n
  firstFailure
    [ src.verify h .copySrc n, dst.verify h (.copyDst (copyIsCode it src dst)) n
    , (copyFieldsFailure it src dst).map fun c => (0x30, h + c * 1024)
    , dst.verifyWrite h, s.verifySpace src, s.verifySpace dst ]

/-- Bytes of an atomic's WIDTH. -/
def atomBytes (w : Nat) : Nat := match w with | 0 => 2 | 1 => 4 | _ => 8

/-- The address checks of an item of atomics (R324): the lowest offending address. -/
def State.atomFailure (s : State) (it : List Byte) : Option Failure :=
  let bads := (List.range 8).foldl (fun (acc : List Nat) r =>
    let b7 := byteField it (32 * r + 7) 1
    let op := fld b7 0 4
    if op = 0 then acc
    else
      let a := byteField it (32 * r) 7
      let w := atomBytes (fld b7 4 2)
      let ra := byteField it (32 * r + 0x10) 7
      let okA := decide (spaceOf a ≤ 2) && a % w == 0 && s.populatedRange a w
      let okR := fld b7 6 1 == 0 || (decide (spaceOf ra = 2) && ra % 8 == 0 && s.populatedRange ra 8)
      acc ++ (if okA then [] else [a]) ++ (if okR then [] else [ra])) []
  match bads with
  | [] => none
  | a :: l => some (0x20, l.foldl min a % 2 ^ 32)

/-- The address check of a host-DMA command (R477). -/
def State.hdmaFailure (s : State) (it : List Byte) : Option Failure :=
  let a := byteField it 8 7
  let len := byteField it 0x10 4
  if len = 0 then none
  else if 2 < spaceOf a then some (0x20, a % 2 ^ 32)
  else if s.populatedRange a len then none
  else some (0x20, s.firstBad a len % 2 ^ 32)

/-- The item that a store popping queue `q` in the current cycle would take. -/
def Tile.headItem (t : Tile) (q : Nat) : Option (List Byte) :=
  match t.core.queue q with
  | it :: _ => if it.readyAt ≤ t.cycle then some (toBytes 256 it.payload.toNat) else none
  | [] => none

/-- The checks that a store to a command port makes on its item (R169, R324, R477). -/
def State.portFailure (s : State) (n h q : Nat) (d : Desc) (index : Int) (count : Nat) : Option Failure :=
  match commandPort n d index count, (s.tile n).headItem q with
  | some 0, some it => s.copyFailure n h it
  | some 1, some it => s.atomFailure it
  | some 2, some it => s.hdmaFailure it
  | _, _ => none

/-- st.q: pops COUNT items, one per cycle, and writes them as the packed element stream (R62, R86). -/
def execStQ (u : Issue) (h : Fin 1024) (areg : Fin 16) (q : Fin 4) (count : BitVec 8) (acid : Fin 64) (imm : BitVec 24)
    (s : State) : Answer :=
  let c := count.toNat + 1
  .next (s.slot u 4
    (fun _ b => { SlotInfo.none_ with
      legal := u.stream == .A && decide (hdrLong u.hdr ≠ 2)
      srcs := [64 + areg.val, 1024 + h.val]
      pops := [4 + q.val]
      bytes := ownBytes u.tile (parseDesc (b.start.descBytes h.val) u.tile) (256 * c) })
    fun s b =>
      let n := u.tile
      let bytes := b.start.descBytes h.val
      let d := parseDesc bytes n
      let j := b.offset areg imm
      let dest : CopyDest := { desc := bytes, h := h.val, index := j, acid := acid.val }
      let t := (s.tile n).invalidate (d.storeLines j c)
      let a : Act := { start := t.cycle, win := b.win, seq := b.seq, pc := b.pc, stream := .A
                       kind := .popStore (4 + q.val) c [] (.desc dest) }
      orHalt (firstFailure [s.accessFailure n h.val d (.move true) j c, s.portFailure n h.val (4 + q.val) d j c])
        (.ok (s.setTile n { t with core := { t.core with acts := t.core.acts ++ [a] } }) b))

/-- st.q.l: pops SQn and writes rows of the own scratchpad (R83 to R85). -/
def execStQL (u : Issue) (f : LongForm) (s : State) : Answer :=
  .next (s.slot u 4
    (fun _ _ => { SlotInfo.none_ with
      legal := u.stream == .A && decide (hdrLong u.hdr = 2)
      srcs := [64 + f.areg.val]
      pops := [4 + f.queue.val]
      bytes := (f.rowbytes.toNat + 1) * (f.rows.toNat + 1) })
    fun s b =>
      let t := s.tile u.tile
      let a : Act := { start := t.cycle, win := b.win, seq := b.seq, pc := b.pc, stream := .A
                       kind := .popStore (4 + f.queue.val) (longItems f) [] (.long f (longBase f b)) }
      orHalt (longFailure f (longBase f b))
        (.ok (s.setTile u.tile { t with core := { t.core with acts := t.core.acts ++ [a] } }) b))

/-- st.s: the low WIDTH bytes of an A-stream register (R62, R63, R86, R145, R159). -/
def execStS (u : Issue) (h : Fin 1024) (areg : Fin 16) (sreg : Fin 32) (w : Width) (acid : Fin 64) (imm : BitVec 24)
    (s : State) : Answer :=
  .next (s.slot u 4
    (fun _ b => { SlotInfo.none_ with
      legal := u.stream == .A && decide (hdrLong u.hdr ≠ 2)
      srcs := [64 + areg.val, 1024 + h.val, sreg.val]
      bytes := ownBytes u.tile (parseDesc (b.start.descBytes h.val) u.tile) (widthBytes w) })
    fun s b =>
      let n := u.tile
      let d := parseDesc (b.start.descBytes h.val) n
      let o := b.offset areg imm
      let bs := toBytes (widthBytes w) (b.s sreg.val).toNat
      let p := b.poisoned [sreg.val]
      let a := (d.scalarAddr o).toNat
      let t := s.tile n
      let t1 :=
        if d.inFootprint (if d.table then o else d.scalarAddr o) (widthBytes w) = false then
          { t with core := t.core.countOob true b.stream h.val [o] }
        else if d.table then
          (granulePieces o.toNat bs).foldl (fun y g =>
            y.write (1024 + g.1 / 64) (t.cycle + 3) b.win b.seq p (.table g.1 g.2 0xFF#8)) t
        else if spaceOf a = 2 ∧ fld a 23 10 = n then
          t.write 8192 (t.cycle + 3) b.win b.seq p (.bytes (a % 2 ^ 23) bs 0xFF#8)
        else (t.invalidate (if spaceOf a = 0 then granulesOf a (widthBytes w) else [])).hold b.win (2 * b.seq) b.origin
          (.write a bs 0xFF#8 p acid.val)
      orHalt (s.scalarFailure n h.val d true o (widthBytes w)) (.ok (s.setTile n t1) b))

/-- st.cp: COUNT items of the packed stream of hS into that of hD, formats equal (R62, R168). -/
def execStCp (u : Issue) (hs hd : Fin 1024) (as ad : Fin 16) (count : BitVec 8) (acid : Fin 64) (s : State) : Answer :=
  let c := count.toNat + 1
  .next (s.slot u 4
    (fun _ b => { SlotInfo.none_ with
      legal := u.stream == .A && decide (hdrLong u.hdr ≠ 2)
      srcs := memSrcs b as 0 hs (256 * c) ++ [64 + ad.val, 1024 + hd.val]
      bytes := ownBytes u.tile (parseDesc (b.start.descBytes hd.val) u.tile) (256 * c) })
    fun s b =>
      let n := u.tile
      let sb := b.start.descBytes hs.val
      let db := b.start.descBytes hd.val
      let sd := parseDesc sb n
      let dd := parseDesc db n
      let js := b.offset as 0
      let jd := b.offset ad 0
      let failure := firstFailure
        [ sd.verify hs.val (.copyItems false) n, dd.verify hd.val (.copyItems true) n, dd.verifyWrite hd.val
        , if sd.fmt = dd.fmt then none else some (0x33, hs.val + hd.val * 2 ^ 16)
        , s.verifySpace sd, s.verifySpace dd, s.streamBad sd js c, s.streamBad dd jd c ]
      let far := !sd.table && spaceOf sd.base == 0
      let id := (s.tile n).nextLoad
      let s1 := if far then s.startLoad n b 99 sb hs.val js c else s
      let t := (s1.tile n).invalidate (dd.storeLines jd c)
      let dest : CopyDest := { desc := db, h := hd.val, index := jd, acid := acid.val }
      let a : Act := { start := t.cycle, win := b.win, seq := b.seq, pc := b.pc, stream := .A
                       kind := .copy sb hs.val js dest c 0 [] (if far then some id else none) }
      orHalt failure (.ok (s1.setTile n { t with core := { t.core with acts := t.core.acts ++ [a] } }) b))

end Sys2Proof.Machine
end

