-- ==== Sys2Proof/Machine/TileEvents.lean ====
section
/-! DEFINITION. The events of a tile (R32, R87 to R108, R294 to R308, R316, R597 to R599, R615). -/

namespace Sys2Proof.Machine

/-- The tile's own clock reaches the event. -/
def State.reach (s : State) (t : TileAt) : State := s.advanceTile t.tile t.dt

/-! ### Engines and loads -/

/-- Removes the first entry of a list that a test names, with it. -/
def takeFirst {α : Type} (p : α → Bool) : List α → Option (α × List α)
  | [] => none
  | x :: l => if p x then some (x, l) else (takeFirst p l).map fun r => (r.1, x :: r.2)

/-- The next waiting operation of a tile's engine starts if it can (R87, R128); in conservative mode only without a slip
(R98). -/
def Tile.startWaiting (t : Tile) (n : Nat) (out : Reader) (e : EngineSel) : Tile :=
  match e with
  | .vector =>
    match t.core.vwait with
    | [] => t
    | w :: ws =>
      if t.vectorFree && (t.vectorReady w.op || !t.conservative) then
        ({ t with core := { t.core with vwait := ws } }).startVector n out w
      else t
  | _ =>
    let mine (w : MWait) : Bool := match w.op with | .mld _ => e == .matrixLoad | _ => e == .matrixMul
    match takeFirst mine t.core.mwait with
    | none => t
    | some (w, ws) =>
      if t.matrixCanStart w && (t.matrixReady w || !t.conservative) then
        ({ t with core := { t.core with mwait := ws } }).startMatrix n out w
      else t

/-- A waiting vector or matrix operation starts when its engine becomes free (R87). -/
def execEngineOpStart (t : TileAt) (e : EngineSel) (s : State) : Answer :=
  let s1 := s.reach t
  let x := s1.tile t.tile
  .next (if x.runs && (match x.mode with | .rollback _ => false | _ => true)
    then s1.setTile t.tile (x.startWaiting t.tile s1.outside e) else s1)

/-- The load return path may push an item into a queue in the current cycle (R61, R615): it does so with the cycle's other queue
accesses, after its pops. -/
def execLoadItemPush (t : TileAt) (q : Fin 4) (s : State) : Answer :=
  let s1 := s.reach t
  let x := s1.tile t.tile
  .next (if x.runs && (match x.mode with | .rollback _ => false | _ => true) then
    s1.setTile t.tile { x with pathReq := setIns q.val x.pathReq } else s1)

/-! ### Replay and windows -/

/-- After the rollback, issue resumes from the checkpoint in conservative mode (R97, R98). -/
def execReplayResume (t : TileAt) (s : State) : Answer :=
  let s1 := s.reach t
  let x := s1.tile t.tile
  .next (match x.mode with
    | .rollback until_ =>
      if x.cycle < until_ then s1
      else
        let d := x.cycle - ((x.windows.find? fun w => decide (w.id = x.consWin)).elim x.cycle (·.opened))
        let ws := x.windows.map fun w =>
          if w.id = x.consWin then { w with opened := x.cycle, lastIssue := x.cycle, ckpt := w.ckpt.resume x.cycle d } else w
        s1.setTile t.tile { x with mode := .conservative, core := x.core.resume x.cycle d, windows := ws }
    | _ => s1)

/-- A window closes after 1,024 cycles in which no bundle issued (R89). -/
def execWindowIdleClose (t : TileAt) (s : State) : Answer :=
  let s1 := s.reach t
  let x := s1.tile t.tile
  .next (match x.openWin with
    | some w => if w.lastIssue + 1024 ≤ x.cycle ∧ x.runs = true then s1.setTile t.tile (x.setLast { w with closing := true }) else s1
    | none => s1)

/-- The fields of TIL_PERT that inject slips (R597). -/
def Tile.slipN (t : Tile) : Nat := fld t.pert.toNat 12 16

/-- What a confirmed window hands to the turnstile: an acset is applied, everything else waits for its release (R93). -/
def State.confirmHeld (s : State) (n : Nat) : List Held → State
  | [] => s
  | e :: l =>
    let x := s.tile n
    match e.eff with
    | .acset ac v =>
      ((s.setTile n { x with ac := mput ArrCnt.zero x.ac ac { count := v, wrap := false } }).passThresholds n).confirmHeld n l
    | _ => (s.setTile n { x with releaseQ := x.releaseQ ++ [e] }).confirmHeld n l

/-- Drops the data of copies that no operation of the tile or of a checkpoint will read again. -/
def Tile.dropCopies (t : Tile) : Tile :=
  let uses (c : TileCore) (id : Nat) : Bool := c.acts.any fun a => match a.kind with
    | .copy _ _ _ _ _ _ _ load => load == some id
    | _ => false
  { t with loads := t.loads.filter fun l =>
      decide (l.q < 8) || decide (l.desc.isEmpty) || uses t.core l.id || t.windows.any fun w => uses w.ckpt l.id }

/-- The oldest window is confirmed (R90, R93, R98), or takes an injected slip (R599). -/
def execWindowConfirm (t : TileAt) (s : State) : Answer :=
  let n := t.tile
  let s1 := s.reach t
  let x := s1.tile n
  .next (match x.windows with
    | [] => s1
    | w :: ws =>
      if !(w.closed && x.actionsDone w.id && x.runs) || (match x.mode with | .rollback _ => true | _ => false) then s1
      else
        let counted := decide (0 < x.slipN) && !x.conservative && !w.halting
        if counted && decide (x.slipN ≤ x.pertWins + 1) then
          (s1.setTile n (({ x with pertWins := 0, pertSlips := satInc x.pertSlips } : Tile).rollback w.id)).traceSlip n 0 w.lastStream w.lastPc
        else
          let x1 := { x with windows := ws, pertWins := if counted then x.pertWins + 1 else x.pertWins
                             mode := if x.conservative && decide (w.id = x.consWin) then .normal else x.mode }
          ((s1.setTile n x1.dropCopies).confirmHeld n (w.held.map (·.2))).settleTile n)

/-- Whether a queue still keeps a stream's bundle from issuing: it is empty and the stream pops it, or full and the stream pushes it. -/
def Tile.blocks (t : Tile) (st : Stream) (q : Nat) : Bool :=
  if (st == .A) == decide (4 ≤ q) then (t.core.queue q).isEmpty else decide (16 ≤ (t.core.queue q).length)

/-- The queue for which a paused operation waits: an empty one that it pops, or a full one that it pushes. -/
def Tile.pausedOn (t : Tile) (a : Act) : Option Nat :=
  match (t.popsNow a).find? fun q => !t.headReady q with
  | some q => some q
  | none =>
    (t.core.acts.filterMap fun p => match p.kind with
      | .pushItem q _ => if p.seq = a.seq ∧ p.start ≤ t.cycle ∧ t.noStage q then some q else none
      | _ => none).head?

/-- The first operation of a stream that is paused on a queue, also where the stream has stopped (R100). -/
def Tile.pausedAct (t : Tile) (st : Stream) : Option (Act × Nat) :=
  ((sortBy (·.seq) (t.core.acts.filter fun a => a.stream == st && t.pauses a)).filterMap fun a => (t.pausedOn a).map fun q => (a, q)).head?

/-- What keeps a stream: the queue it waits for, with the address of the bundle that waits (R100): an issued qwait, an operation that
is paused, or a bundle that has not issued. -/
def Tile.waitOf (t : Tile) (st : Stream) : Option (Nat × Nat) :=
  let last := match st with | .A => t.core.lastA | .E => t.core.lastE
  let paused := (t.pausedAct st).map fun x => (x.2, x.1.pc)
  match t.core.stall st with
  | .qwait q k => if (t.core.queue q).length < k then some (q, last) else none
  | .run =>
    (match paused with
     | some x => some x
     | none => ((match st with | .A => t.blockA | .E => t.blockE).filter (t.blocks st)).map fun q => (q, t.core.pc st))
  | _ => paused

/-- The queue a stream waits for, if it waits for one (R100). -/
def Tile.waitsFor (t : Tile) (st : Stream) : Option Nat := (t.waitOf st).map (·.1)

/-- Whether a stream is stopped or waits for a queue (R100). -/
def Tile.stuck (t : Tile) (st : Stream) : Bool := t.core.stall st == .ended || (t.waitsFor st).isSome

/-- Whether an operation under way can go on, or one that waits for its engine will start (log entry 23). -/
def Tile.moving (t : Tile) : Bool :=
  t.core.acts.any (fun a => !t.pauses a) ||
  (!t.core.vwait.isEmpty && !t.core.acts.any fun a => match a.kind with | .vector _ _ _ _ _ => true | _ => false) ||
  (!t.core.mwait.isEmpty && t.multiplyFree)

/-- Whether a load is outstanding that could push into the queue that the E stream waits to pop (R100). Load items go into LQ0 to LQ3, which the A
stream does not pop. -/
def Tile.fed (t : Tile) : Bool := t.loads.any fun l => t.waitsFor .E == some l.q

/-- No progress in conservative mode: the tile halts with code 0x60, naming the queue its A stream waits for, or else its E
stream (R100, R110). An operation under way that can go on is progress. The spec does not say which bundle is the halting one: the
model puts that of the qwait or of the paused operation, or the bundle that has not issued (DESIGN CHOICE, log entry 23). -/
def execReplayDeadlock (t : TileAt) (s : State) : Answer :=
  let n := t.tile
  let s1 := s.reach t
  let x := s1.tile n
  let halt (e : Bool) (w : Nat × Nat) : State :=
    (s1.setTile n (x.haltHere { reason := 0x60#8, streamE := e, pc := BitVec.ofNat 23 w.2, detail := BitVec.ofNat 32 w.1 })).settleTile n
  .next (if x.runs && x.conservative && x.stuck .A && x.stuck .E && !x.fed && !x.moving then
    match x.waitOf .A, x.waitOf .E with
    | some w, _ => halt false w
    | none, some w => halt true w
    | none, none => s1
  else s1)

/-- A refusing unit's report reaches the tile: a deferred halt, its halting bundle the one whose operation was refused (R107, R109). -/
def execDeferredHalt (t : TileAt) (s : State) : Answer :=
  let n := t.tile
  let s1 := s.reach t
  let x := s1.tile n
  .next (match x.refusals with
    | [] => s1
    | h :: _ => if x.halt.reason ≠ 0#8 then s1.setTile n { x with refusals := x.refusals.drop 1 } else s1.recordDeferred n h)

/-! ### Arrivals -/

/-- A granule of a remote write arrives: it is performed at once, over the undo logs, and counted (R96, R294, R304). A
sleeping tile first wakes, and the write waits at its port (R32). -/
def execRemoteWriteArrive (t : TileAt) (idx : Nat) (s : State) : Answer :=
  let n := t.tile
  let s1 := s.reach t
  let x := s1.tile n
  .next (match x.inbox[idx]? with
    | none => s1
    | some m =>
      let earlier := (x.inbox.take idx).any fun e => decide (e.addr / 64 = m.addr / 64) && decide (e.tile = m.tile) &&
        (decide (m.tile ≠ peerSender) || decide (e.effId / 2 ^ 20 = m.effId / 2 ^ 20))
      if earlier then s1
      else if x.sleep ≠ .awake then s1.wakeTile n
      else
        let x1 := { x.remoteWrite m.addr m.bs m.mask m.poison with inbox := listDrop x.inbox idx }
        let s2 := s1.setTile n x1
        let s3 := match m.acid with
          | some ac => s2.arrive n ac m.bs.length
          | none => s2
        if m.tile = peerSender then
          -- the last granule of a WRITE packet: the acknowledgement leaves (R449)
          if (s3.tile n).inbox.any fun e => decide (e.tile = peerSender) && decide (e.effId = m.effId) then s3
          else s3.sendPacket (s3.reply 3 (m.effId / 2 ^ 20) (m.effId % 2 ^ 20) 0)
        else s3.landed m.tile m.effId)

/-- A threshold signal reaches its destination tile and is held until the counter reaches the threshold; beyond sixteen it
waits at the port (R306, R307). -/
def execSigTArrive (t : TileAt) (idx : Nat) (s : State) : Answer :=
  let n := t.tile
  let s1 := s.reach t
  let x := s1.tile n
  .next (match x.thrPort[idx]? with
    | none => s1
    | some h =>
      if 16 ≤ x.thr.length then s1
      else if x.sleep ≠ .awake then s1.wakeTile n
      else (s1.setTile n { x with thrPort := listDrop x.thrPort idx, thr := x.thr ++ [h] }).passThresholds n)

/-- The whole scalar read cache is invalidated; a rollback does not bring it back (R296). -/
def Tile.clearCache (t : Tile) : Tile :=
  let clear (r : UndoRec) : UndoRec := match r with | .cache _ _ => .cache [] [] | r => r
  { t with cache := [], cacheOrder := []
           windows := t.windows.map fun w => w.mapUndo clear }

/-- Ends a stream's wait, in the tile and in the checkpoints of its unconfirmed windows: the notice is never rolled back
(R43, R316). -/
def Tile.resumeWait (t : Tile) (st : Stream) : Tile :=
  let go (c : TileCore) : TileCore :=
    if c.stall st == .semWait then (c.setStall st .run).setNext st (t.cycle + 1) else c
  { t with core := go t.core, windows := t.windows.map fun w => { w with ckpt := go w.ckpt } }

/-- A release notice arrives at a waiting tile, which resumes in the next cycle (R43, R301, R316). -/
def execReleaseNotice (t : TileAt) (s : State) : Answer :=
  let n := t.tile
  let s1 := s.reach t
  let x := s1.tile n
  .next (match x.notices with
    | [] => s1
    | (st, scope, _, _) :: rest =>
      if x.sleep ≠ .awake then s1.wakeTile n
      else
        let x1 := ({ x with notices := rest }).resumeWait st
        s1.setTile n (if 1 ≤ scope then x1.clearCache else x1))

/-- Forgets the effects whose acknowledgements have returned (R298). -/
def Tile.acknowledge (t : Tile) : Tile :=
  { t with flying := t.flying.filter fun f => !(f.performed && decide (f.ack ≤ t.cycle)) }

/-- Whether a fence's condition holds (R297). -/
def Tile.fenceHolds (t : Tile) (f : FenceRec) : Bool :=
  let x := t.acknowledge
  !(x.windows.any fun w => decide (w.id ≤ f.win)) &&
  (decide (f.scope = 0) ||
    (x.releaseQ.isEmpty && !(x.flying.any fun e => decide (e.cls ≤ f.scope))))

/-- An outstanding fence completes; PACKAGE and SYSTEM invalidate the scalar cache (R296, R297). -/
def execFenceComplete (t : TileAt) (s : State) : Answer :=
  let n := t.tile
  let s1 := s.reach t
  let x := s1.tile n
  .next (match takeFirst (fun f => x.fenceHolds f) x.fences with
    | none => s1
    | some (f, rest) =>
      let x1 := { x.acknowledge with fences := rest }
      s1.setTile n (if 1 ≤ f.scope then x1.clearCache else x1))

/-! ### Sleep and wake (R32, R33) -/

/-- A region's copy or host-DMA engine has no work. -/
def Region.copyIdle (r : Region) : Bool := r.cpyQ.isEmpty && r.cpyRun.isNone && r.cpyPort.isEmpty
def Region.hdmaIdle (r : Region) : Bool := r.hdmaQ.isEmpty && !r.hdmaRun && r.hdmaPort.isEmpty

/-- A tile has no work: it runs no job, or both streams have stopped and nothing is held, and nothing waits at its port. -/
def Tile.noWork (t : Tile) : Bool :=
  (!t.active || (t.core.ended && t.windows.isEmpty && t.releaseQ.isEmpty) || t.halt.reason != 0#8) &&
  t.inbox.isEmpty && t.thrPort.isEmpty && t.notices.isEmpty

/-- A woken unit becomes ready (R32): a bank engine's state parts hold zeros (R182). -/
def execUnitWakeComplete (unit : BitVec 16) (s : State) : Answer :=
  let i := unit.toNat % 4096
  .next (match unit.toNat / 4096 with
    | 0 =>
      let l := (s.unit unit.toNat).logical
      let x := s.tile l
      if l < 96 ∧ x.sleep = .waking then (s.setTile l { x with sleep := .awake }).traceWake unit.toNat else s
    | 1 =>
      let e := s.engine (i / 64) (i % 64)
      if e.sleep = .waking then
        (s.setEngine (i / 64) (i % 64) { Engine.zero with sleep := .awake, lastUse := (s.stack (i / 64)).cycle }).traceWake unit.toNat
      else s
    | 2 =>
      let r := s.region i
      if r.cpySleep = .waking then (s.setRegion i { r with cpySleep := .awake }).traceWake unit.toNat else s
    | 3 =>
      let r := s.region i
      if r.hdmaSleep = .waking then (s.traceWake unit.toNat).hdmaTurn i { r with hdmaSleep := .awake } else s
    | _ => s)

/-- A tile or region engine with no work sleeps; a tile of a job keeps its state (R32, R33). -/
def execUnitSleep (unit : BitVec 16) (s : State) : Answer :=
  let i := unit.toNat % 4096
  .next (match unit.toNat / 4096 with
    | 0 =>
      let l := (s.unit unit.toNat).logical
      let x := s.tile l
      if l < 96 ∧ x.sleep = .awake ∧ x.noWork then (s.traceSleep unit.toNat).setTile l { x with sleep := .asleep } else s
    | 2 =>
      let r := s.region i
      if r.cpySleep = .awake ∧ r.copyIdle then (s.setRegion i { r with cpySleep := .asleep }).traceSleep unit.toNat else s
    | 3 =>
      let r := s.region i
      if r.hdmaSleep = .awake ∧ r.hdmaIdle then (s.setRegion i { r with hdmaSleep := .asleep }).traceSleep unit.toNat else s
    | _ => s)

end Sys2Proof.Machine
end

