-- ==== Sys2Proof/Machine/StackMem.lean ====
section
/-! DEFINITION. Stack memory: timing tables, the controller code, poison, the valid map, and ordinary accesses (R203 to R205,
R219 to R250, R321 to R325, R601). -/

namespace Sys2Proof.Machine

/-! ### Timing tables (R199, R226, R227, R233, R601) -/

/-- A figure of the active table, with the margin of STK_PERT on entries 1 to 13 (R232, R601). -/
def Stack.fig (k : Stack) (e : Nat) : Nat :=
  let v := k.table k.band.toNat e
  if 1 ≤ e ∧ e ≤ 13 ∧ k.margin ≠ 0#8 then
    let x : Int := v + k.margin.toInt
    if x < 1 then 1 else if 65535 < x then 65535 else x.toNat
  else v

/-- A figure for a rule between an operation issued at a cycle and one issued now: across a change of table the larger of the
two figures (R232). -/
def Stack.figSince (k : Stack) (e t : Nat) : Nat :=
  if t < k.swapAt then max (k.oldTab.getD e 0) (k.fig e) else k.fig e

/-! ### The controller code RS(36,32) over GF(2^8) (R237, R238) -/

/-- Multiplication by α in GF(2^8) modulo 0x11D. -/
def gfDouble (a : Nat) : Nat := if 256 ≤ a * 2 then (a * 2) ^^^ 0x11D else a * 2

/-- Multiplication by α^n. -/
def gfShift (a : Nat) : Nat → Nat
  | 0 => a
  | n + 1 => gfShift (gfDouble a) n

/-- The product of two field elements. -/
def gfMul (a b : Nat) : Nat := (List.range 8).foldl (fun acc i => if b.testBit i then acc ^^^ gfShift a i else acc) 0

/-- α^n. -/
def gfPow (n : Nat) : Nat := gfShift 1 (n % 255)

/-- The inverse of a field element, by its 254th power. -/
def gfInv (a : Nat) : Nat := (List.range 254).foldl (fun acc _ => gfMul acc a) 1

/-- The check bytes of 32 data bytes: the remainder by g(x) = x^4 + 0x0F x^3 + 0x36 x^2 + 0x78 x + 0x40 (R237). -/
def rsCheck (d : List Byte) : List Nat :=
  d.foldl (fun (r : List Nat) b =>
    let f := b.toNat ^^^ r.headD 0
    [r.getD 1 0 ^^^ gfMul f 0x0F, r.getD 2 0 ^^^ gfMul f 0x36, r.getD 3 0 ^^^ gfMul f 0x78, gfMul f 0x40]) [0, 0, 0, 0]

/-- Symbol `i` of a 36-symbol pattern. -/
def symbol (p : BitVec 288) (i : Nat) : Nat := fld p.toNat (8 * i) 8

/-- Syndrome j of a pattern: its value at α^j, symbol i being the coefficient of x^(35 − i) (R237, R238). -/
def syndrome (p : BitVec 288) (j : Nat) : Nat :=
  (List.range 36).foldl (fun acc i => acc ^^^ gfMul (symbol p i) (gfPow (j * (35 - i)))) 0

/-- The four syndromes. -/
def syndromes (p : BitVec 288) : List Nat := (List.range 4).map (syndrome p)

/-- The pattern of a poisoned word: 0xFF in each check byte (R242). -/
def poisonPattern : BitVec 288 := BitVec.ofNat 288 (0xFFFFFFFF * 2 ^ 256)

/-- A pattern with one symbol. -/
def onePattern (i e : Nat) : BitVec 288 := BitVec.ofNat 288 (e * 2 ^ (8 * i))

/-- The pattern of at most two symbols with given syndromes, if there is one (R238). -/
def correction (s : List Nat) : Option (BitVec 288) :=
  let s0 := s.getD 0 0
  let s1 := s.getD 1 0
  let s2 := s.getD 2 0
  let s3 := s.getD 3 0
  let x (i : Nat) : Nat := gfPow (35 - i)
  match (List.range 36).find? fun i => s0 != 0 && gfMul s0 (x i) == s1 && gfMul s1 (x i) == s2 && gfMul s2 (x i) == s3 with
  | some i => some (onePattern i s0)
  | none =>
    (List.range 36).foldl (fun (acc : Option (BitVec 288)) i =>
      match acc with
      | some q => some q
      | none =>
        (List.range i).foldl (fun (acc : Option (BitVec 288)) j =>
          match acc with
          | some q => some q
          | none =>
            let a := x i
            let b := x j
            let f := gfMul (s1 ^^^ gfMul s0 a) (gfInv (a ^^^ b))
            let e := s0 ^^^ f
            let at_ (n : Nat) : Nat := gfMul e (gfPow (n * (35 - i))) ^^^ gfMul f (gfPow (n * (35 - j)))
            if e ≠ 0 ∧ f ≠ 0 ∧ at_ 2 = s2 ∧ at_ 3 = s3 then some (onePattern i e ^^^ onePattern j f) else none) none) none

/-- What a decoder makes of a codeword (R238). -/
inductive CwKind where
  | good
  | corrected
  | poisoned
  | uncorrectable
deriving DecidableEq, Repr

/-- Decodes a codeword that differs from its encoding by a pattern: what it is found to be, and the pattern that remains in
the data as it is returned (R238). -/
def decodePattern (p : BitVec 288) : CwKind × BitVec 288 :=
  let s := syndromes p
  if s = [0, 0, 0, 0] then (.good, p)
  else if s = syndromes poisonPattern then (.poisoned, p)
  else match correction s with
    | some q => (.corrected, p ^^^ q)
    | none => (.uncorrectable, p)

/-! ### Codewords of a stack. A codeword's number is its byte address ÷ 32; a page's number is its byte address ÷ 2,048 -/

/-- The pattern by which a stored codeword differs from its encoding: its errors, and 0xFF in the check bytes of a poisoned
word (R242). -/
def Stack.pattern (k : Stack) (w : Nat) : BitVec 288 :=
  mget 0 k.cwErr w ^^^ (if k.poisonCw.contains w then poisonPattern else 0)

/-- Whether a page is VALID or FILLING: its stored words are read as they are (R246). -/
def Stack.written (k : Stack) (page : Nat) : Bool := k.valid.contains page || k.filling.any fun f => f.1 == page

/-- Whether a codeword was never written in a page that only an uncorrectable valid-map word makes VALID (R249). -/
def Stack.unwritten (k : Stack) (w : Nat) : Bool := k.mapBad.contains (w / 64) && !k.mapWrote.contains w

/-- A codeword as a decoder returns it: an INVALID page reads as zeros with no check; what was never written in a page that an
uncorrectable map word makes VALID is uncorrectable (R238, R246, R249). -/
def Stack.codeword (k : Stack) (w : Nat) : CwKind × List Byte :=
  if k.written (w / 64) = false then (.good, List.replicate 32 0)
  else if k.unwritten w then (.uncorrectable, (List.range 32).map (Config.unwritten w))
  else
    let p := k.pattern w
    let bs := memRead k.mem (w * 32) 32
    if p = 0 then (.good, bs)
    else
      let d := decodePattern p
      (d.1, (List.range 32).map fun i => bs.getD i 0 ^^^ BitVec.ofNat 8 (symbol d.2 i))

/-- Whether a codeword reaches its reader with the poison flag (R240). -/
def CwKind.bad : CwKind → Bool
  | .poisoned => true
  | .uncorrectable => true
  | _ => false

/-- The codeword last named by STK_PERT's injection (R601, R602). -/
def Stack.injected (k : Stack) : Nat :=
  (fld k.pert.toNat 16 6 * 524288 + fld k.pert.toNat 32 19) * 64 + fld k.pert.toNat 51 6

/-- Records a decoded codeword (R238, R239, R245, R256, R259, R260, R602). Sources: 0 ordinary access, 1 bank engine,
2 scrubber, 3 repair migration. -/
def State.noteCodeword (s : State) (n w : Nat) (kind : CwKind) (source : Nat) : State :=
  let k := s.stack n
  let page := w / 64
  let last (c : Nat) : Reg64 :=
    BitVec.ofNat 64 (page / 524288 + page % 524288 * 2 ^ 6 + w % 64 * 2 ^ 25 + c * 2 ^ 32 + source * 2 ^ 34)
  let want (l : List Nat) : List Nat := if k.injOpen && decide (k.injected = w) then l else setIns page l
  match kind with
  | .good => s
  | .corrected =>
    let seen := mget 0 k.corrSeen page + 1
    s.setStack n { k with
      eccCorr := satInc k.eccCorr, errLast := last 0, corrSeen := mput 0 k.corrSeen page seen
      repairWant := if 4 ≤ seen then want k.repairWant else k.repairWant
      scrubQ := if source = 1 ∧ k.scrubQ.length < 16 then setIns page k.scrubQ else k.scrubQ }
  | .poisoned => s.setStack n { k with eccPoison := satInc k.eccPoison, errLast := last 2 }
  | .uncorrectable =>
    (s.setStack n { k with eccUncorr := satInc k.eccUncorr, errLast := last 1, repairWant := want k.repairWant }).pushEvent
      (unitId 4 n) 3

/-- Reads a codeword with its accounting: its bytes and its poison flag. -/
def State.readCodeword (s : State) (n w source : Nat) : State × List Byte × Bool :=
  let c := (s.stack n).codeword w
  (s.noteCodeword n w c.1 source, c.2, c.1.bad)

/-- Takes the flip that STK_PERT asks for, if the codeword written is the first one stored to its pseudo-channel (R601). -/
def Stack.inject (k : Stack) (w : Nat) : Stack :=
  let p := k.pert.toNat
  if p.testBit 31 && decide (w / 64 / 524288 = fld p 16 6) then
    let n := fld p 22 3
    let q := (List.range (if 1 ≤ n ∧ n ≤ 4 then n else 0)).foldl (fun acc i =>
      acc ^^^ onePattern ((fld p 25 6 + i) % 36) 1) (0 : BitVec 288)
    let pert := p % 2 ^ 31 + w / 64 % 524288 * 2 ^ 32 + w % 64 * 2 ^ 51
    { k with pert := BitVec.ofNat 64 pert, cwErr := mput 0 k.cwErr w (mget 0 k.cwErr w ^^^ q), injOpen := true }
  else k

/-- Stores the bytes of a whole codeword: old errors and poison go, an injected one among them, and new poison is stored as R242 gives
(R602). -/
def Stack.storeRaw (k : Stack) (w : Nat) (bs : List Byte) (poison : Bool) : Stack :=
  { k with mem := memWrite k.mem (w * 32) bs, cwErr := mput 0 k.cwErr w 0, injOpen := k.injOpen && decide (k.injected ≠ w)
           poisonCw := if poison then setIns w k.poisonCw else setDel w k.poisonCw
           mapWrote := if k.mapBad.contains (w / 64) then setIns w k.mapWrote else k.mapWrote }

/-- A write of a codeword by any writer (R239, R601). -/
def Stack.storeCodeword (k : Stack) (w : Nat) (bs : List Byte) (poison : Bool) : Stack := (k.storeRaw w bs poison).inject w

/-- Starts the fill of an INVALID page: 64 codewords are stored from codeword 0 on in 32 write columns, once the data path is free, after
which the page can become VALID (R246, R247, R601). -/
def Stack.startFill (k : Stack) (page : Nat) : Stack :=
  let pc := page / 524288
  let end_ := max k.cycle (max (mget 0 k.dpFree pc) (mget 0 k.ordFree pc)) + 32
  ({ k with filling := k.filling ++ [(page, end_)], dpFree := mput 0 k.dpFree pc end_, lastWr := mput 0 k.lastWr pc end_ }).inject (page * 64)

/-- The part of a byte write that falls into each codeword: codeword number, first byte within it, bytes. -/
def codewordPieces (a : Nat) (bs : List Byte) : List (Nat × Nat × List Byte) :=
  (List.range ((a + bs.length - 1) / 32 - a / 32 + 1)).map fun i =>
    let w := a / 32 + i
    let lo := max a (w * 32)
    (w, lo - w * 32, (bs.drop (lo - a)).take (w * 32 + 32 - lo))

/-- Merges masked bytes into a codeword from byte `o` on. -/
def mergeBytes (old : List Byte) (o : Nat) (bs : List Byte) (mask : Byte) : List Byte :=
  (List.range 32).map fun i =>
    if o ≤ i ∧ i < o + bs.length then maskByte (old.getD i 0) (bs.getD (i - o) 0) mask else old.getD i 0

/-- A read-modify-write occupies its pseudo-channel's data path for a read column, the turnaround, a write column and the turnaround back
(R244). -/
def Stack.rmwPath (k : Stack) (a : Nat) : Stack :=
  let pc := a / 2048 / 524288
  let start := max k.cycle (max (mget 0 k.dpFree pc) (mget 0 k.ordFree pc))
  let write := start + k.fig 10
  { k with ordFree := mput 0 k.ordFree pc (write + k.fig 9), lastRd := mput 0 k.lastRd pc (start + 1)
           lastWr := mput 0 k.lastWr pc (write + 1) }

/-- Whether a write is a read-modify-write: it covers only part of some codeword of a page that is not being filled by it (R243, R246). -/
def Stack.isRmw (k : Stack) (a : Nat) (bs : List Byte) (mask : Byte) : Bool :=
  k.written (a / 2048) && (codewordPieces a bs).any fun p => decide (p.2.2.length ≠ 32) || decide (mask ≠ 0xFF#8)

/-- What a read-modify-write adds to the latency of its write, in tile cycles at the nominal clocks: T_RL + T_RMW stack cycles (R18, R244). -/
def Stack.rmwDelay (k : Stack) : Nat := cdiv ((k.fig 12 + k.fig 16) * 4) 3

/-- The pages that a byte range touches. -/
def pagesOf (a n : Nat) : List Nat := if n = 0 then [] else (List.range ((a + n - 1) / 2048 - a / 2048 + 1)).map (· + a / 2048)

/-- A write to stack memory: the first write to a page starts its fill, a whole codeword is stored, a narrower write is a
read-modify-write whose read is accounted (R242, R243, R245, R246). -/
def State.stkWrite (s : State) (n a : Nat) (bs : List Byte) (mask : Byte) (poison : Bool) (source : Nat) : State :=
  let first := (pagesOf a bs.length).filter fun p => !(s.stack n).written p
  let s0 := first.foldl (fun acc p => acc.setStack n ((acc.stack n).startFill p)) s
  if bs.isEmpty then s
  else
    (codewordPieces a bs).foldl (fun acc p =>
      if first.contains (p.1 / 64) then
        let k := acc.stack n
        let old := memRead k.mem (p.1 * 32) 32
        acc.setStack n { k with mem := memWrite k.mem (p.1 * 32) (mergeBytes old p.2.1 p.2.2 mask)
                                poisonCw := if poison then setIns p.1 k.poisonCw else k.poisonCw }
      else if p.2.2.length = 32 ∧ mask = 0xFF#8 then acc.setStack n ((acc.stack n).storeCodeword p.1 p.2.2 poison)
      else
        let r := acc.readCodeword n p.1 source
        r.1.setStack n (((r.1.stack n).storeCodeword p.1 (mergeBytes r.2.1 p.2.1 p.2.2 mask) (poison || r.2.2)).rmwPath a)) s0

/-- A read of stack memory with its accounting: the bytes, and the codewords that carry the poison flag. -/
def State.stkRead (s : State) (n a len source : Nat) : State × List Byte × List Nat :=
  if len = 0 then (s, [], [])
  else
    let ws := (List.range ((a + len - 1) / 32 - a / 32 + 1)).map (· + a / 32)
    let r := ws.foldl (fun (acc : State × List Byte × List Nat) w =>
      let c := acc.1.readCodeword n w source
      (c.1, acc.2.1 ++ c.2.1, if c.2.2 then acc.2.2 ++ [w] else acc.2.2)) (s, [], [])
    (r.1, (r.2.1.drop (a % 32)).take len, r.2.2)

/-! ### Atomic operations (R323) -/

/-- bfloat16 addition, rounded once to nearest, ties to even. -/
def bf16Add (a b : Nat) : Nat :=
  encodeFloat fmtBF16 0 (numAdd (decodeFloat fmtBF16 a) (decodeFloat fmtBF16 b))

/-- Whether a record's OP accepts its WIDTH (R323). -/
def atomLegal (op width : Nat) : Bool :=
  if 1 ≤ op ∧ op ≤ 5 then width == 1 || width == 2
  else if op = 6 then decide (width ≤ 2)
  else if op = 7 then decide (width ≤ 1)
  else false

/-- The new value of an atomic's target (R323), in `8 × bytes` bits. -/
def atomValue (op width old operand : Nat) : Nat :=
  let w := 8 * atomBytes width
  let a := old % 2 ^ w
  let b := operand % 2 ^ w
  match op with
  | 1 => (a + b) % 2 ^ w
  | 2 => if sext w a ≤ sext w b then a else b
  | 3 => if sext w a ≤ sext w b then b else a
  | 4 => min a b
  | 5 => max a b
  | 6 => b
  | _ => if width = 0 then bf16Add a b else (f32Add (BitVec.ofNat 32 a) (BitVec.ofNat 32 b)).toNat

/-- The acknowledgement of an effect comes `late` tile cycles later (R244). -/
def State.delayAck (s : State) (t e late : Nat) : State :=
  let y := s.tile t
  s.setTile t { y with flying := y.flying.map fun f => if f.id = e then { f with ack := f.ack + late } else f }

/-- A performed atomic: DONE counts it for its tile's region, and its old value returns as a counted write (R324, R332); its acknowledgement
comes `late` tile cycles later where it was a read-modify-write (R244). -/
def State.atomReturn (s : State) (r : AtomRec) (old : Nat) (poison : Bool) (late : Nat := 0) : State :=
  let g := tileRegion r.tile
  let s1 := s.setRegion g { s.region g with atomDone := satInc (s.region g).atomDone }
  let s2 := if r.ret then
      let t := fld r.raddr 23 10
      let x := s1.tile t
      let m : InMsg := { addr := r.raddr % 2 ^ 23, bs := toBytes 8 (old % 2 ^ (8 * atomBytes r.width)), mask := 0xFF#8
                         poison := poison, acid := some r.racid, tile := 96, effId := 0 }
      s1.setTile t { x with inbox := x.inbox ++ [m] }
    else s1
  (s2.delayAck r.tile r.effId late).landed r.tile r.effId

/-! ### Ordinary accesses (R203 to R205, R236, R240, R472) -/

/-- The pseudo-channel and the page number of a byte of a stack. -/
def pcOf (a : Nat) : Nat := a / 2048 / 524288
def pageOf (a : Nat) : Nat := a / 2048

/-- A bank that nobody has opened. -/
def Bank.zero : Bank := { page := none, actAt := 0, rdAt := 0, wrAt := 0, preAt := 0, refUntil := 0, used := false }

/-- Bank `page mod 32` of a pseudo-channel. -/
def Stack.bank (k : Stack) (pc page : Nat) : Bank := mget Bank.zero k.banks (pc * 32 + page % 32)
def Stack.setBank (k : Stack) (pc page : Nat) (b : Bank) : Stack :=
  { k with banks := mput Bank.zero k.banks (pc * 32 + page % 32) b }

/-- The first boundary of a walk from a cycle on (R276). -/
def WalkRun.pauseAt (w : WalkRun) (c : Nat) : Nat :=
  if c ≤ w.start then c else ((w.parts.map (·.1)).find? fun e => decide (c ≤ e)).getD c

/-- The walks and the page copy that a stack has under way. -/
def Stack.runs (k : Stack) : List WalkRun := (match k.prg with | some p => p.walks | none => []) ++ k.kvRuns

/-- Whether a walk or a page copy that occupies a pseudo-channel has paused at a boundary of its own for the pre-emption in progress
(R203, R276). -/
def Stack.yields (k : Stack) (pc : Nat) : Bool :=
  k.preempt && k.runs.any fun w => decide (w.pc = pc) && decide (k.preemptAt < w.done) && decide (w.pauseAt k.preemptAt ≤ k.cycle)

/-- Whether an ordinary access is held (R203, R246): its data path is occupied, its bank is held open at another page, or its
page is filling. -/
def Stack.holds (k : Stack) (a : Nat) : Bool :=
  let pc := pcOf a
  let page := pageOf a % 524288
  let busy := decide (k.cycle < mget 0 k.dpFree pc) && !k.yields pc
  let other := match (k.bank pc page).page with | some p => decide (p ≠ page) | none => false
  (k.filling.any fun f => f.1 == pageOf a) ||
    ((k.prg.isSome || k.kvGo) && (busy || (other && !k.preempt)))

/-- Whether a column may follow the pseudo-channel's earlier ones: the spacing T_CCD and the turnarounds T_WTR and T_RTW (R198, R227). -/
def Stack.colTurn (k : Stack) (pc : Nat) (write : Bool) : Bool :=
  let after (e l : Nat) : Bool := decide (l = 0) || decide (l - 1 + k.figSince e (l - 1) ≤ k.cycle)
  after (if write then 10 else 11) (mget 0 k.lastRd pc) && after (if write then 11 else 9) (mget 0 k.lastWr pc)

/-- Whether an ordinary access that is not held can have its column now: at most one column access in a cycle on its pseudo-channel, no data
path in use by another operation, no refresh of its bank (R198, R201, R204). -/
def Stack.ordReady (k : Stack) (a : Nat) (write : Bool) : Bool :=
  let pc := pcOf a
  decide (mget 0 k.ordFree pc ≤ k.cycle) && (decide (mget 0 k.dpFree pc ≤ k.cycle) || k.yields pc) && k.colTurn pc write &&
    decide ((k.bank pc (pageOf a)).refUntil ≤ k.cycle)

/-- The columns of an ordinary access occupy its data path (R201). -/
def Stack.ordColumns (k : Stack) (a len : Nat) (write : Bool) : Stack :=
  let pc := pcOf a
  let end_ := k.cycle + (granulesOf a len).length
  if len = 0 then k
  else if write then { k with ordFree := mput 0 k.ordFree pc end_, lastWr := mput 0 k.lastWr pc end_ }
  else { k with ordFree := mput 0 k.ordFree pc end_, lastRd := mput 0 k.lastRd pc end_ }

/-- Hands the data of a read to its requester (R61, R240, R472): `bad` lists the poisoned codewords. -/
def State.deliver (s : State) (x : StkAcc) (bs : List Byte) (bad : List Nat) : State :=
  match x.src with
  | .load t id _ g =>
    let y := s.tile t
    let ls := y.loads.map fun l =>
      if l.id = id then
        { l with data := memWrite l.data (g * 64) bs, missing := setDel g l.missing
                 poison := if bad.isEmpty then l.poison else setIns g l.poison }
      else l
    s.setTile t { y with loads := ls }
  | .scalar t id a => s.setTile t ((s.tile t).returnScalar id a bs (!bad.isEmpty))
  | .host f => s.send (.aperture f bs ((granulesOf x.addr bs.length).map fun g => bad.any fun w => decide (w / 2 = g)))
  | _ => s

/-- The requester learns that a write or an atomic has been performed; a read-modify-write is acknowledged `late` cycles later (R244). A
WRITE of another module is acknowledged when its last access has been performed (R449). -/
def State.doneAccess (s : State) (x : StkAcc) (late : Nat) : State :=
  match x.src with
  | .effect t e => (s.delayAck t e late).landed t e
  | .peer node tag =>
    let same (y : StkAcc) : Bool := y.src == .peer node tag
    if (List.range 8).any fun k => (s.stack k).inflight.any same || (s.stack k).held.any same then s
    else s.sendPacket (s.reply 3 node tag 0)
  | _ => s

/-- Performs an access (R203, R240 to R246, R324). -/
def State.performAccess (s : State) (n : Nat) (x : StkAcc) : State :=
  match x.kind with
  | .read len =>
    let r := (s.setStack n ((s.stack n).ordColumns x.addr len false)).stkRead n x.addr len 0
    r.1.deliver x r.2.1 r.2.2
  | .write bs mask poison =>
    let k := s.stack n
    let rmw := k.isRmw x.addr bs mask
    let s0 := if rmw || !k.written (pageOf x.addr) then s else s.setStack n (k.ordColumns x.addr bs.length true)
    (s0.stkWrite n x.addr bs mask poison 0).doneAccess x (if rmw then k.rmwDelay else 0)
  | .atomic rec =>
    let w := atomBytes rec.width
    let written := (s.stack n).written (pageOf x.addr)
    -- the read of the read-modify-write is accounted once
    let r := s.stkRead n x.addr w 0
    let old := ofBytes r.2.1
    let new := toBytes w (atomValue rec.op rec.width old rec.operand.toNat)
    let k := r.1.stack n
    let whole := mergeBytes (k.codeword (x.addr / 32)).2 (x.addr % 32) new 0xFF#8
    let s2 := if written then r.1.setStack n ((k.storeCodeword (x.addr / 32) whole (!r.2.2.isEmpty)).rmwPath x.addr)
      else r.1.stkWrite n x.addr new 0xFF#8 false 0
    s2.atomReturn rec old (!r.2.2.isEmpty) (if written then k.rmwDelay else 0)

/-- Completes an access whose attempts met timing violations four times (R205, R240): a read returns the fixed pattern with
the poison flag; a write is stored poisoned. -/
def State.completeBad (s : State) (n : Nat) (x : StkAcc) : State :=
  match x.kind with
  | .read len =>
    let ws := (List.range ((x.addr + len - 1) / 32 - x.addr / 32 + 1)).map (· + x.addr / 32)
    s.deliver x (List.replicate len 0xE5#8) ws
  | .write bs mask _ => (s.stkWrite n x.addr bs mask true 0).doneAccess x 0
  | .atomic rec =>
    let w := atomBytes rec.width
    let s1 := s.stkWrite n x.addr (List.replicate w 0xE5#8) 0 true 0
    s1.atomReturn rec (ofBytes (List.replicate w 0xE5#8)) true

/-- The 64 pages of an uncorrectable valid-map word are treated as VALID from now on, and a status event is raised (R249). -/
def State.mapLost (s : State) (n page : Nat) : State :=
  let k := s.stack n
  let more := ((List.range 64).map (page / 64 * 64 + ·)).filter fun p => !k.written p
  (s.setStack n { k with valid := more.foldl (fun l p => setIns p l) k.valid, mapBad := more.foldl (fun l p => setIns p l) k.mapBad }).pushEvent
    (unitId 4 n) 3

/-- One attempt of an access ends as an event says (R205, R236, R249): performed, or held for its retry. -/
def State.attempt (s : State) (n : Nat) (x : StkAcc) (ev : AccEvent) : State :=
  let k := s.stack n
  match ev with
  | .ok => s.performAccess n x
  | .mapUncorrectable => (s.mapLost n (pageOf x.addr)).performAccess n x
  | .timingViolation =>
    let tries := (if x.cause = 1 then x.tries else 0) + 1
    let op := (s.engine n (pcOf x.addr)).lastOp
    let last := BitVec.ofNat 64 (pcOf x.addr + op * 2 ^ 8 + s.time.toNat % 2 ^ 48 * 2 ^ 16)
    let s1 := (s.setStack n { k with tvAccess := satInc k.tvAccess, tvLast := last }).pushEvent (unitId 4 n) 4
    if 4 ≤ tries then s1.completeBad n x
    else
      let k1 := s1.stack n
      s1.setStack n { k1 with held := k1.held ++ [{ x with tries := tries, cause := 1, retryAt := k.cycle }] }
  | .parityError =>
    let tries := (if x.cause = 2 then x.tries else 0) + 1
    if 5 ≤ tries then
      let w := x.addr / 32
      let page := w / 64
      let last := BitVec.ofNat 64 (page / 524288 + page % 524288 * 2 ^ 6 + w % 64 * 2 ^ 25 + 3 * 2 ^ 32)
      (s.setStack n { k with parExhaust := satInc k.parExhaust, errLast := last
                             held := k.held ++ [{ x with tries := tries, cause := 3, retryAt := k.cycle }] }).pushEvent
        (unitId 4 n) 5
    else
      s.setStack n { k with held := k.held ++ [{ x with tries := tries, cause := 2, retryAt := k.cycle + k.fig 17 }] }

/-- The position of a page in the clear under way: pseudo-channels of PCMASK in rising order, and in each the named run
(R248); none outside it. -/
def Stack.clearPos (k : Stack) (page : Nat) : Option Nat :=
  let pc := page / 524288
  let p := page % 524288
  let rank := ((List.range pc).filter fun i => k.clrMask.getLsbD i).length
  if k.clrMask.getLsbD pc ∧ k.clrPage.toNat ≤ p ∧ p ≤ k.clrPage.toNat + k.clrNpage.toNat then
    some (rank * (k.clrNpage.toNat + 1) + (p - k.clrPage.toNat))
  else none

/-- Page bits that a clear covers. -/
def Stack.clearTotal (k : Stack) : Nat :=
  ((List.range 64).filter fun i => k.clrMask.getLsbD i).length * (k.clrNpage.toNat + 1)

/-- Clears pages to INVALID; a FILLING page is cleared when its fill ends (R248). -/
def Stack.clearWhere (k : Stack) (gone : Nat → Bool) : Stack :=
  let late := (k.filling.map (·.1)).filter gone
  let go (p : Nat) : Bool := gone p && !late.contains p
  { k with valid := k.valid.filter fun p => !go p, mem := k.mem.filter fun c => !go (c.1 / 2048)
           poisonCw := k.poisonCw.filter fun w => !go (w / 64), cwErr := k.cwErr.filter fun c => !go (c.1 / 64)
           mapBad := k.mapBad.filter fun p => !go p, mapWrote := k.mapWrote.filter fun w => !go (w / 64)
           clrLate := late.foldl (fun l p => setIns p l) k.clrLate }

/-- A clear under way goes on for some cycles: 64 page bits in each, waiting at a FILLING page (R248). The pages it reaches read as
zeros. -/
def Stack.runClear (k : Stack) (dt : Nat) : Stack :=
  if k.clrGo = false then k
  else
    let stop := k.filling.foldl (fun t f => match k.clearPos f.1 with
      | some q => if k.clrPos ≤ q then min t q else t
      | none => t) (min k.clearTotal (k.clrPos + 64 * dt))
    let gone (page : Nat) : Bool := match k.clearPos page with
      | some q => decide (k.clrPos ≤ q) && decide (q < stop)
      | none => false
    { k.clearWhere gone with clrPos := max k.clrPos stop }

/-- Stack cycles pass. -/
def Stack.advance (k : Stack) (dt : Nat) : Stack := { k with cycle := k.cycle + dt }.runClear dt

/-- The stack's clock reaches an event (R31). -/
def State.reachStk (s : State) (e : StkAt) : State := s.setStack e.stack ((s.stack e.stack).advance e.dt)

/-- Whether a controller serves its stack: it is neither fenced nor retired (R27, R210). -/
def State.stackUp (s : State) (n : Nat) : Bool :=
  decide ((s.unit (unitId 4 n)).allowed = 2) || decide ((s.unit (unitId 4 n)).allowed = 3)

/-- Whether an earlier access in a list touches the same codeword: they keep their order (R294). -/
def earlierSame (l : List StkAcc) (x : StkAcc) : Bool := l.any fun y => decide (y.addr / 32 = x.addr / 32)

/-- Whether an access was held when the pre-emption in progress began (R203). -/
def Stack.heldFirst (k : Stack) (x : StkAcc) : Bool :=
  k.preempt && decide (x.cause = 0) && (match x.reached with | some r => decide (r ≤ k.preemptAt) | none => false)

/-- Whether an access waits behind older ones that the controller has: one to its codeword, one that its pseudo-channel could serve now, or,
for an access of the pre-emption in progress, an earlier one of it (R201, R203, R294). -/
def Stack.behind (k : Stack) (older : List StkAcc) (x : StkAcc) : Bool :=
  earlierSame older x || older.any fun y =>
    (decide (y.cause = 0) && decide (pcOf y.addr = pcOf x.addr) && !k.holds y.addr) || (k.heldFirst x && k.heldFirst y)

/-- Whether an access writes, in its first column. -/
def AccKind.writes : AccKind → Bool
  | .write _ _ _ => true
  | _ => false

/-- Closes, for a pre-emption, a bank that the programme holds open at another page (R203). -/
def Stack.yieldBank (k : Stack) (a : Nat) : Stack :=
  let pc := pcOf a
  let page := pageOf a % 524288
  let b := k.bank pc page
  match b.page with
  | some p =>
    if k.preempt && decide (p ≠ page) then
      { k.setBank pc page { b with page := none, preAt := k.cycle } with
        preemptPages := k.preemptPages ++ [(pc * 32 + page % 32, p)] }
    else k
  | none => k

/-- An ordinary access reaches its controller, or a held one is granted: it is served, or held, or waits for its turn (R201, R203). Held
accesses come first in the numbering. -/
def execOrdinaryAccess (k : StkAt) (idx : Nat) (ev : AccEvent) (s : State) : Answer :=
  let n := k.stack
  let s1 := s.reachStk k
  let c := s1.stack n
  .next (if s1.stackUp n = false then s1
    else match c.held[idx]? with
      | some x =>
        if x.cause ≠ 0 || c.holds x.addr || c.behind (c.held.take idx) x || !c.ordReady x.addr x.kind.writes then s1
        else (s1.setStack n ({ c with held := listDrop c.held idx }.yieldBank x.addr)).attempt n x ev
      | none =>
        let j := idx - c.held.length
        match c.inflight[j]? with
        | none => s1
        | some x =>
          let y := { x with reached := some c.cycle }
          let c1 := { c with inflight := listDrop c.inflight j }
          if earlierSame (c.inflight.take j) x then s1
          else if c.holds x.addr then s1.setStack n { c1 with held := c1.held ++ [y], heldCnt := satInc c1.heldCnt }
          else if c.behind c.held y || !c.ordReady x.addr x.kind.writes then s1
          else (s1.setStack n (c1.yieldBank x.addr)).attempt n y ev)

/-- A held access is tried again for a cause (R205, R236). -/
def State.retry (s : State) (k : StkAt) (idx cause : Nat) (ev : AccEvent) (note : Stack → Stack) : State :=
  let n := k.stack
  let s1 := s.reachStk k
  let c := s1.stack n
  match c.held[idx]? with
  | some x =>
    if x.cause ≠ cause || decide (c.cycle < x.retryAt) || c.holds x.addr || !c.ordReady x.addr x.kind.writes then s1
    else (s1.setStack n (note { c with held := listDrop c.held idx })).attempt n x ev
  | none => s1

/-- An access that met a timing violation is tried again when the pseudo-channel is idle (R205). -/
def execAccessTvRetry (k : StkAt) (idx : Nat) (ev : AccEvent) (s : State) : Answer := .next (s.retry k idx 1 ev id)

/-- An access that met a parity error is reissued T_PARRT cycles later (R236). -/
def execParityRetry (k : StkAt) (idx : Nat) (ev : AccEvent) (s : State) : Answer :=
  .next (s.retry k idx 2 ev fun c => { c with parRetry := satInc c.parRetry })

/-- After five failed attempts the Lodge recalibrates the interface, and the access is issued again in its turn, as an access that has met no
error; if the recalibration fails, the controller is fenced (R236, R210). -/
def execInterfaceRecal (k : StkAt) (idx : Nat) (passed : Bool) (s : State) : Answer :=
  let n := k.stack
  let s1 := s.reachStk k
  let c := s1.stack n
  .next (match c.held[idx]? with
    | some x =>
      if x.cause ≠ 3 then s1
      else if passed then s1.setStack n { c with held := listSet c.held idx { x with cause := 0, tries := 0 } }
      else s1.fence (unitId 4 n) false
    | none => s1)

end Sys2Proof.Machine
end

