-- ==== Sys2Proof/Machine/Clock.lean ====
section
/-! DEFINITION. A cycle of the Lodge clock in which no command runs (R31, R34, R35; log entry 1). -/

namespace Sys2Proof.Machine

/-- Tile cycles in one Lodge cycle at a clock level: 1.6, 1.2, 0.8 and 0.4 GHz against 100 MHz (R31, R528). -/
def tileRate (clevel : Nat) : Nat :=
  match clevel with
  | 0 => 16 | 1 => 12 | 2 => 8 | _ => 4

/-- One Lodge cycle passes: the tiles that run take their cycles, and the stack clocks twelve (R31). -/
def State.idle (s : State) : State :=
  let s0 := (List.range 8).foldl (fun acc k => acc.setStack k ((acc.stack k).advance 12))
    { s with time := s.time + 1 }
  let s1 := (List.range 96).foldl (fun acc n =>
    if (acc.tile n).runs then acc.advanceTile n (tileRate s.power.clevel) else acc) s0
  (List.range 2).foldl (fun acc d =>
    acc.setTombola d { acc.tombola d with cycle := (acc.tombola d).cycle + tileRate s.power.clevel }) s1

end Sys2Proof.Machine
end

