-- ==== Sys2Proof/Machine/StackPrg.lean ====
section
/-! DEFINITION. Command programmes: start commands, the sequencer, and the rows of the bank engines (R182 to R217). -/

namespace Sys2Proof.Machine

/-! ### Rows -/

/-- A programme row (R192). -/
structure Row where
  target : Nat
  op : Nat
  wait : Nat
  add : Nat
  lsel : Nat
  a : Nat
  b : Nat
  c : Nat
deriving DecidableEq, Repr

/-- Row `n` of the programme memory. -/
def Stack.row (k : Stack) (n : Nat) : Row :=
  let bs := memRead k.prgMem (n * 32) 32
  { target := byteField bs 0 8, op := byteField bs 8 1, wait := fld (byteField bs 9 1) 0 6
    add := fld (byteField bs 10 2) 0 12, lsel := fld (byteField bs 10 2) 12 3
    a := byteField bs 12 4, b := byteField bs 16 8, c := byteField bs 24 8 }

/-- Opcodes of rows that exist (R193, R271). -/
def rowOps : List Nat := [0x00, 0x01, 0x02, 0x03, 0x10, 0x11, 0x12, 0x13, 0x14, 0x18, 0x20, 0x21, 0x30, 0x31, 0x32]

/-- Rows that act on engines; ACT, PRE and CMOVE act on pseudo-channels, which stay reachable while their engine is fenced
(R184, R193, R208). -/
def engineRow (op : Nat) : Bool := [0x03, 0x10, 0x11, 0x12, 0x13, 0x14, 0x20, 0x21].contains op

/-- A reserved bit is set in a field that the operation uses (ERR 0x01; R193, R271). -/
def reservedBits (r : Row) : Bool :=
  let hi (x n : Nat) : Bool := decide (2 ^ n ≤ x)
  match r.op with
  | 0x01 => hi r.b 48
  | 0x02 => hi r.b 48
  | 0x10 => hi r.a 12 || hi r.b 18 || hi r.c 18
  | 0x11 => hi r.a 17 || hi r.b 48
  | 0x12 => hi r.b 48
  | 0x13 => hi r.a 20
  | 0x14 => hi r.a 31 || hi r.b 56 || hi r.c 32
  | 0x18 => hi r.a 21 || hi r.b 48 || hi r.c 32
  | 0x20 => hi r.a 25 || hi r.b 44 || decide (0 < r.c)
  | 0x21 => hi r.a 21 || hi r.b 32 || decide (0 < r.c)
  | 0x30 => hi r.a 16 || hi r.b 24
  | 0x31 => hi r.a 2 || hi r.b 16 || hi r.c 13
  | _ => false

/-- The trip index of the counter that LSEL names, 0 when it is inactive (R195). -/
def Programme.trip (p : Programme) (lsel : Nat) : Nat :=
  if lsel = 0 then 0 else match p.loops.find? (fun l => l.l + 1 == lsel) with | some l => l.trip | none => 0

/-- What a row works on: its stack, the programme, the row, its trip index and its effective targets (R195). -/
structure RowCtx where
  n : Nat
  k : Stack
  p : Programme
  r : Row
  i : Nat
  targets : List Nat
deriving DecidableEq, Repr

/-- The context of row `r` of a running programme. -/
def rowCtx (n : Nat) (k : Stack) (p : Programme) (r : Row) : RowCtx :=
  let mask := if engineRow r.op then r.target &&& p.cmd.mask.toNat &&& k.engAvail.toNat else r.target
  { n := n, k := k, p := p, r := r, i := p.trip r.lsel, targets := (List.range 64).filter (mask.testBit ·) }

/-- The effective page of a row: PAGE + P0 + i × PSTEP (R195). -/
def RowCtx.page (x : RowCtx) : Int :=
  (fld x.r.b 0 32 + x.p.cmd.p0.toNat : Nat) + (x.i : Int) * sext 16 (fld x.r.b 32 16)

/-- COL, COUNT of SLOAD, MAC and CMOVE. -/
def RowCtx.col (x : RowCtx) : Nat := fld x.r.a 0 5
def RowCtx.count (x : RowCtx) : Nat := fld x.r.a 5 5 + 1

/-- Whether a page of a pseudo-channel lies in a placed window of the job (ERR 0x06; R207, R221). -/
def State.placedPage (s : State) (n pc : Nat) (page : Int) : Bool :=
  s.job.windows.any fun w => w.valid && decide (w.kind = 2) && decide (w.stack ≤ n) && decide (n < w.stack + w.scount) &&
    decide (pc < 64) && decide ((w.pbase : Int) ≤ page) && decide (page < w.pbase + w.npage)

/-- Formats a MAC accepts (R141). -/
def macFormat (f : Nat) : Bool :=
  [0x02, 0x03, 0x10, 0x11, 0x14, 0x15, 0x18, 0x19, 0x1A, 0x1B].contains f || fmtIsCode f

/-- The block size of a MAC's scaled weights: no field of the row names it, so it is a free value (log entry 6). -/
def macB (f : Nat) : Nat := 16 * 2 ^ (Config.macBlock f).val

/-- Whether a format's elements carry block scales. -/
def blockScaled (f : Nat) : Bool := fmtScale f != .none

/-- G of R186: the block size, or 32. -/
def macG (f : Nat) : Nat := if blockScaled f then macB f else 32

/-- The fields of a MAC row (R193). -/
structure MacArgs where
  fmt : Nat
  v : Nat
  vb : Nat
  bf16 : Bool
  cont : Bool
  sbase : Nat
  acc0 : Nat
  o0 : Nat
  k0 : Nat
  klen : Nat
  voff : Nat
deriving DecidableEq, Repr

def RowCtx.mac (x : RowCtx) : MacArgs :=
  { fmt := fld x.r.a 10 8, v := fld x.r.a 18 4 + 1, vb := fld x.r.a 22 1, bf16 := x.r.a.testBit 23, cont := x.r.a.testBit 24
    sbase := fld x.r.a 25 7, acc0 := fld x.r.c 0 10, o0 := fld x.r.c 10 10, k0 := fld x.r.c 20 16
    klen := fld x.r.c 36 16 + 1, voff := fld x.r.c 52 12 }

/-- Elements in the columns a MAC streams (R187). -/
def RowCtx.macElems (x : RowCtx) : Nat := x.count * 512 / max 1 (fmtBits x.mac.fmt)

/-- The stream position a MAC starts from on an engine (R187, R193). -/
def macStart (m : MacArgs) (e : Engine) : Nat × Nat := if m.cont then (e.posO, e.posK) else (m.o0, m.k0)

/-- The stream position after `n` elements. -/
def macAfter (m : MacArgs) (pos : Nat × Nat) (n : Nat) : Nat × Nat :=
  let t := pos.1 * m.klen + pos.2 + n
  (t / m.klen, t % m.klen)

/-- The byte of the scale of element (o, k) in the scale buffer (R187). -/
def macScaleAt (m : MacArgs) (o k : Nat) : Nat :=
  m.sbase * 64 + tableBytes m.fmt + (o * m.klen + k) / macB m.fmt * scaleBytes m.fmt

/-- The cells of a DRAIN or ACLR. -/
def RowCtx.acc0 (x : RowCtx) : Nat := fld x.r.a 0 10
def RowCtx.rows (x : RowCtx) : Nat := fld x.r.a 10 10 + 1

/-- The DRAIN destination (R194): DEST + P1 + i × DSTEP. -/
def RowCtx.drainDest (x : RowCtx) : Int :=
  (fld x.r.b 0 56 + x.p.cmd.p1.toNat : Nat) + (x.i : Int) * sext 32 (fld x.r.c 0 32)

/-- The engines whose shares a DRAIN delivers: the targeted ones and those that failed in this programme (R194, R208). -/
def RowCtx.drainEngines (x : RowCtx) : List Nat :=
  let m := x.r.target &&& x.p.cmd.mask.toNat &&& (x.k.engAvail.toNat ||| x.p.failedEng.toNat)
  (List.range 64).filter (m.testBit ·)

/-- The staging offset of a VLOAD: SOFF + P2. -/
def RowCtx.staging (x : RowCtx) : Nat := fld x.r.b 0 18 + x.p.cmd.p2.toNat

/-- Whether a targeted pseudo-channel's bank holds a page open. -/
def Stack.isOpen (k : Stack) (pc : Nat) (page : Int) : Bool :=
  decide (0 ≤ page) && (k.bank pc page.toNat).page == some page.toNat

/-- The attention configuration of the job (R287). -/
structure AttCfg where
  win : Nat
  pgsz : Nat
  fmt : Nat
  hd : Nat
  hp : Nat
  nl : Nat
deriving DecidableEq, Repr

def Stack.att (k : Stack) : AttCfg :=
  let c := k.attCfg.toNat
  { win := fld c 0 6, pgsz := fld c 8 8, fmt := fld c 16 8, hd := (fld c 24 3 + 1) * 32, hp := fld c 28 7 + 1, nl := fld c 36 8 + 1 }

/-- The fields of an ACFG row (R271): A and B. -/
structure AcfgArgs where
  vb : Nat
  qoff : Nat
  moff : Nat
  bf16 : Bool
  half : Bool
  gq : Nat
  nn : Nat
  h0 : Nat
  nh : Nat
  wlen : Nat
deriving DecidableEq, Repr

def acfgOf (a b : Nat) : AcfgArgs :=
  { vb := fld a 0 1, qoff := fld a 1 11, moff := fld a 12 11, bf16 := a.testBit 23, half := a.testBit 24
    gq := fld b 0 4 + 1, nn := fld b 4 5 + 1, h0 := fld b 9 7, nh := fld b 16 7 + 1, wlen := fld b 23 21 }

/-- AQ of R271. -/
def AcfgArgs.aq (g : AcfgArgs) : Nat := g.nn * g.gq

/-- The record size of an attention walk (R274). -/
def AcfgArgs.recSize (g : AcfgArgs) (hd : Nat) : Nat := 32 * cdiv (8 + hd * (if g.half then 2 else 4)) 32

/-- DRAM pages that a walk's records fill. -/
def AcfgArgs.recPages (g : AcfgArgs) (hd : Nat) : Nat := cdiv (g.nh * g.aq * g.recSize hd) 2048

/-- The page a walk's records start at: PPAGE + P0 (R274). -/
def RowCtx.recPage (x : RowCtx) : Nat := fld x.r.b 0 32 + x.p.cmd.p0.toNat

/-- The byte of a table area in its stack: tables are read at TBASE + offset through the job's windows (R264). -/
def State.tableByte (s : State) (n off : Nat) : Byte :=
  match s.resolve (fld (s.stack n).attTbase.toNat 0 52 + off) with
  | some p => (((s.stack p.stack).codeword (p.addr / 32)).2).getD (p.addr % 32) 0
  | none => 0

/-- A little-endian field of the table area. -/
def State.tableField (s : State) (n off w : Nat) : Nat := ofBytes ((List.range w).map fun i => s.tableByte n (off + i))

/-- The offset of a root record in the table in force (R264, R272). -/
def Stack.rootOff (k : Stack) (seq : Nat) : Nat := (if k.attSnap.getLsbD 0 then 0x40000 else 0) + seq * 32

/-- The first error code whose check a row fails, in ascending order (R207, R277). -/
def State.rowError (s : State) (x : RowCtx) : Option Nat :=
  let r := x.r
  let page := x.page
  let m := x.mac
  let colBad := decide (32 < x.col + x.count) || (r.op == 0x18 && decide (32 < fld r.a 16 5 + x.count))
  let att := r.op == 0x20 || r.op == 0x21
  let e1 := !rowOps.contains r.op || (!att && decide (4 < r.lsel)) || (att && decide (4 < r.lsel)) || reservedBits r
  let e2 := (r.op == 0x11 || r.op == 0x12 || r.op == 0x18) && colBad
  let e3 := match r.op with
    | 0x10 =>
      let len := fld r.c 0 18
      len % 64 != 0 || decide (len < 64) || decide (131072 < len) || decide (131072 < fld r.a 1 11 * 64 + len) ||
        decide (262144 < x.staging + len)
    | 0x11 => decide (8192 < fld r.a 10 7 * 64 + x.count * 64)
    | 0x12 =>
      decide (65536 < m.v * m.klen) || decide (65536 < m.voff * 16 + m.v * m.klen) ||
        (blockScaled m.fmt && x.targets.any fun pc =>
          let z := macAfter m (macStart m (s.engine x.n pc)) (x.macElems - 1)
          decide (8192 < macScaleAt m z.1 z.2 + scaleBytes m.fmt)) ||
        (fmtIsCode m.fmt && decide (8192 < m.sbase * 64 + tableBytes m.fmt))
    | _ => false
  let e4 := r.op == 0x31 &&
    (x.p.loops.any (fun l => l.l == r.a % 4) || decide (fld r.c 0 13 ≤ x.p.row) ||
      x.p.loops.any (fun l => decide (l.endRow < fld r.c 0 13)))
  let e6 := match r.op with
    | 0x01 => x.targets.any fun pc => !s.placedPage x.n pc page
    | 0x02 => x.targets.any fun pc => !s.placedPage x.n pc page
    | 0x11 => x.targets.any fun pc => !s.placedPage x.n pc page || !x.k.isOpen pc page
    | 0x12 => x.targets.any fun pc => !s.placedPage x.n pc page || !x.k.isOpen pc page
    | 0x18 =>
      let dp : Nat := fld r.c 0 32 + x.p.cmd.p0.toNat
      (x.targets.any fun pc => !s.placedPage x.n pc page || !x.k.isOpen pc page) ||
        !s.placedPage x.n (fld r.a 10 6) dp || !x.k.isOpen (fld r.a 10 6) dp
    | 0x21 => x.targets.any fun pc =>
        let e := s.engine x.n pc
        let g := acfgOf e.cfgA.toNat e.cfgB.toNat
        (List.range (g.recPages x.k.att.hd)).any fun i => !s.placedPage x.n pc ((x.recPage + i : Nat) : Int)
    | _ => false
  let e7 := r.op == 0x14 &&
    (let d := x.drainDest
     let len := x.drainEngines.length * x.rows * (fld r.a 20 4 + 1) * 4
     decide (d < 0) || !(spaceOf d.toNat == 1 || spaceOf d.toNat == 2) || !s.populatedRange d.toNat len ||
       (r.a.testBit 30 && spaceOf d.toNat != 2))
  let e8 := r.op == 0x12 && (!macFormat m.fmt || m.klen % macG m.fmt != 0)
  let e9 := (r.op == 0x18 && x.targets.length != 1) ||
    (r.op == 0x30 && (let n := fld r.a 0 16 + x.p.cmd.p3.toNat
      decide (65535 < n) || !s.quotaOk (.programme x.n x.p.row x.p.cmd.tag) n))
  let eA := r.op == 0x20 &&
    (let g := acfgOf r.a r.b
     let c := x.k.att
     decide (128 < g.aq) || decide (c.hp < g.h0 + g.nh) || decide (131072 < g.qoff * 64 + g.nh * g.aq * c.hd * 2) ||
       decide (131072 < g.moff * 64 + 8 * g.nn) || decide (262144 < g.aq * g.nh * (8 + 4 * c.hd)))
  let eB := (att && decide (r.lsel ≠ 0)) || (r.op == 0x21 &&
    ((x.targets.any fun pc => !x.p.configured.getLsbD pc) || decide (x.k.att.nl ≤ fld r.a 13 8) ||
      s.tableField x.n (x.k.rootOff (fld r.a 0 13)) 8 / 2 ^ 21 % 2 == 0))
  if 8191 < x.p.row then some 5
  else if e1 then some 1 else if e2 then some 2 else if e3 then some 3 else if e4 then some 4 else if e6 then some 6
  else if e7 then some 7 else if e8 then some 8 else if e9 then some 9 else if eA then some 0xA else if eB then some 0xB
  else none

/-- A programme error (R207): recorded, queued start commands discarded, the job torn down with cause 5. -/
def State.prgError (s : State) (n code : Nat) : State :=
  let k := s.stack n
  match k.prg with
  | none => s
  | some p =>
    (s.setStack n { k with errCode := BitVec.ofNat 8 code, errRow := BitVec.ofNat 13 p.row, errTag := p.cmd.tag
                           startQ := [], startPort := [], prg := none }).requestTeardown 5 none

/-! ### Issue conditions (R198, R199, R202) -/

/-- Columns at a throttle level: at level L the data path streams in (4 − L) ÷ 4 of the cycles (R202). -/
def Stack.stretch (k : Stack) (cols : Nat) : Nat := cdiv (cols * 4) (4 - k.throttle.toNat)

/-- Cycles of a carousel transfer that takes `n` without perturbation: the carousel idles in CSTALL of every 256 (R601). -/
def Stack.carousel (k : Stack) (n : Nat) : Nat := cdiv (n * 256) (256 - fld k.pert.toNat 8 8)

/-- A use of an engine part: the part, its range, and whether it is written (R199). -/
abbrev PartUse := Nat × Nat × Nat × Bool

/-- Whether two parts share rows: a part with itself, but MACs follow one another on their accumulator rows, which only ACLR and DRAIN wait
for (R199). -/
def partsMeet (a b : Nat) : Bool := if 3 ≤ a ∧ 3 ≤ b then !(a == 3 && b == 3) else a == b

/-- Whether a range of an engine part is free of conflicting use (R199). -/
def Engine.free (e : Engine) (now : Nat) (u : PartUse) : Bool :=
  !(e.occ.any fun o => decide (now < o.until_) && (u.2.2.2 || o.write) && decide (o.lo < u.2.2.1) && decide (u.2.1 < o.hi) && partsMeet u.1 o.part)

/-- Occupies ranges of engine parts until a cycle. -/
def Engine.take (e : Engine) (now until_ : Nat) (us : List PartUse) : Engine :=
  { e with occ := e.occ.filter (fun o => decide (now < o.until_)) ++
             us.map fun u => { part := u.1, lo := u.2.1, hi := u.2.2.1, until_ := until_, write := u.2.2.2 } }

/-- Accumulator rows from `lo` on, whose numbers wrap modulo 1,024, as ranges. -/
def accRanges (lo n : Nat) : List (Nat × Nat) :=
  if 1024 ≤ n then [(0, 1024)] else if lo + n ≤ 1024 then [(lo, lo + n)] else [(lo, 1024), (0, lo + n - 1024)]

/-- The scale-buffer bytes that a MAC uses on an engine: its table, and the scales of its elements (R187). -/
def RowCtx.scaleUse (x : RowCtx) (e : Engine) : List PartUse :=
  let m := x.mac
  let a := macStart m e
  let z := macAfter m a (x.macElems - 1)
  let table := if tableBytes m.fmt = 0 then [] else [(2, m.sbase * 64, m.sbase * 64 + tableBytes m.fmt, false)]
  if blockScaled m.fmt then table ++ [(2, macScaleAt m a.1 a.2, macScaleAt m z.1 z.2 + scaleBytes m.fmt, false)] else table

/-- The accumulator rows that a MAC writes on an engine. -/
def RowCtx.macRows (x : RowCtx) (e : Engine) : List PartUse :=
  let m := x.mac
  let a := macStart m e
  let z := macAfter m a (x.macElems - 1)
  (accRanges ((m.acc0 + a.1) % 1024) (z.1 - a.1 + 1)).map fun q => (3, q.1, q.2, true)

/-- The parts of an engine that a row uses from its issue on (R199). -/
def RowCtx.uses (x : RowCtx) (e : Engine) : List PartUse :=
  match x.r.op with
  | 0x10 => [(fld x.r.a 0 1, fld x.r.a 1 11 * 64, fld x.r.a 1 11 * 64 + fld x.r.c 0 18, true)]
  | 0x11 => [(2, fld x.r.a 10 7 * 64, fld x.r.a 10 7 * 64 + x.count * 64, true)]
  | 0x12 => (x.mac.vb, x.mac.voff * 32, x.mac.voff * 32 + x.mac.v * x.mac.klen * 2, false) :: x.scaleUse e ++ x.macRows e
  | 0x13 => (accRanges x.acc0 x.rows).map fun q => (4, q.1, q.2, true)
  | 0x14 => (accRanges x.acc0 x.rows).map fun q => (4, q.1, q.2, true)
  | _ => []

/-- The ACTs of a pseudo-channel in the last T_FAW cycles. -/
def Stack.recentActs (k : Stack) (pc : Nat) : Nat :=
  ((List.range 32).filter fun b =>
    let x := k.bank pc b
    x.used && decide (k.cycle < x.actAt + k.figSince 6 x.actAt)).length

/-- Whether an ACT of a page meets the DRAM rules (R198, R227). -/
def Stack.actOk (k : Stack) (pc page : Nat) : Bool :=
  let b := k.bank pc page
  let now := k.cycle
  b.page.isNone && decide (b.refUntil ≤ now) && (!b.used || (decide (b.preAt + k.figSince 2 b.preAt ≤ now) && decide (b.actAt + k.figSince 4 b.actAt ≤ now))) &&
  ((List.range 32).all fun i =>
    let x := k.bank pc i
    !x.used || decide (x.actAt + k.figSince 5 x.actAt ≤ now) || decide (i = page % 32)) &&
  decide (k.recentActs pc < 4)

/-- Whether a PRE of a page's bank meets the DRAM rules. -/
def Stack.preOk (k : Stack) (pc page : Nat) : Bool :=
  let b := k.bank pc page
  let now := k.cycle
  b.page.isNone || (decide (b.actAt + k.figSince 3 b.actAt ≤ now) &&
    decide (b.rdAt + k.figSince 7 b.rdAt ≤ now + 1) && (b.wrAt = 0 || decide (b.wrAt + k.figSince 8 b.wrAt ≤ now)))

/-- Whether a row's columns of an open page can begin now: T_RCD since the page was opened, the column rules, the data path, and no refresh of
the bank (R198, R227). -/
def Stack.colOk (k : Stack) (pc page : Nat) (write : Bool) : Bool :=
  let b := k.bank pc page
  decide (b.actAt + k.figSince 1 b.actAt ≤ k.cycle) && decide (b.refUntil ≤ k.cycle) && decide (mget 0 k.dpFree pc ≤ k.cycle) &&
    decide (mget 0 k.ordFree pc ≤ k.cycle) && k.colTurn pc write

/-- The pseudo-channel and the page that a CMOVE writes (R193). -/
def RowCtx.moveTo (x : RowCtx) : Nat × Nat := (fld x.r.a 10 6, fld x.r.c 0 32 + x.p.cmd.p0.toNat)

/-- The DRAM rows and columns that a row of pseudo-channels touches: pseudo-channel and page. -/
def RowCtx.touches (x : RowCtx) : List (Nat × Nat) :=
  let own := x.targets.map fun pc => (pc, x.page.toNat)
  match x.r.op with
  | 0x01 => own
  | 0x02 => own
  | 0x11 => own
  | 0x12 => own
  | 0x18 => own ++ [x.moveTo]
  | 0x21 => x.targets.map fun pc => (pc, x.recPage)
  | _ => []

/-- Whether a refresh must be granted before a row: one falls due on a pseudo-channel that it touches, or one of a bank that it touches can be
postponed no longer (R198, R201, R229; log entry 79). -/
def RowCtx.refreshFirst (x : RowCtx) : Bool :=
  x.touches.any fun q => decide (mget 0 x.k.refAt q.1 ≤ x.k.cycle) ||
    (decide (x.k.fig 18 < mget 0 x.k.refOwed q.1) && decide (mget 0 x.k.refBank q.1 = q.2 % 32))

/-- Writes of a stack's programme that are still on their way to a tile. -/
def State.drainsFlying (s : State) (n : Nat) : Bool := s.tiles.any fun t => t.2.inbox.any fun m => decide (m.tile = 200 + n)

/-- Whether the DRAM rules hold for a row and the parts that it uses are free (R198, R199). -/
def State.partsFree (s : State) (x : RowCtx) : Bool :=
  let now := x.k.cycle
  let page := x.page.toNat
  x.targets.all (fun pc => (x.uses (s.engine x.n pc)).all fun u => (s.engine x.n pc).free now u) &&
  match x.r.op with
  | 0x01 => x.targets.all fun pc => x.k.actOk pc page
  | 0x02 => x.targets.all fun pc => x.k.preOk pc page
  | 0x10 => decide (x.k.treeFree ≤ now)
  | 0x11 => x.targets.all fun pc => x.k.colOk pc page false
  | 0x12 => x.targets.all fun pc => x.k.colOk pc page false
  | 0x18 =>
    decide (x.k.ringFree ≤ now) && (x.targets.all fun pc => x.k.colOk pc page false) && x.k.colOk x.moveTo.1 x.moveTo.2 true
  | 0x20 => x.targets.all fun pc => !(x.p.walks.any fun w => decide (w.pc = pc) && decide (now < w.cols))
  | 0x21 => decide (0 < x.p.fetched)
  | 0x30 => decide (x.p.doneAt ≤ now) && !s.drainsFlying x.n
  | _ => true

/-- The engines of an attention row whose walks' records are poisoned because they failed in this programme (R284). -/
def RowCtx.failedTargets (x : RowCtx) : List Nat :=
  let m := x.r.target &&& x.p.cmd.mask.toNat &&& x.p.failedEng.toNat
  (List.range 64).filter fun pc => m.testBit pc && !x.k.engAvail.getLsbD pc

/-- Whether only the wait of a row applies: it acts on no pseudo-channel and no engine, and has no share of a failed engine to deliver
(R193, R208, R284). -/
def RowCtx.waitOnly (x : RowCtx) : Bool :=
  (engineRow x.r.op || x.r.op == 0x01 || x.r.op == 0x02 || x.r.op == 0x18) && x.targets.isEmpty &&
    (if x.r.op = 0x14 then x.drainEngines.isEmpty else if x.r.op = 0x20 ∨ x.r.op = 0x21 then x.failedTargets.isEmpty else true)

/-- Whether every targeted engine is awake (R198). -/
def State.enginesAwake (s : State) (x : RowCtx) : Bool :=
  !engineRow x.r.op || x.r.op == 0x03 || x.targets.all fun pc => decide ((s.engine x.n pc).sleep = .awake)

/-- Starts the wake of the sleeping engines among some (R200). -/
def State.wakeEngines (s : State) (n : Nat) (pcs : List Nat) : State :=
  pcs.foldl (fun acc pc =>
    let e := acc.engine n pc
    if e.sleep = .asleep then
      acc.setEngine n pc { e with sleep := .waking }
    else acc) s

/-- Whether the row's time has come (R198). -/
def RowCtx.due (x : RowCtx) : Bool :=
  let w := if x.r.wait = 0 then 0 else x.k.figSince x.r.wait x.p.lastIssue
  decide (x.p.lastIssue + 1 ≤ x.k.cycle) && decide (x.p.lastIssue + w + x.r.add ≤ x.k.cycle) && !x.k.preempt

/-! ### Effects of the rows -/

/-- Notes that a row used some engines (R200). -/
def State.touchEngines (s : State) (n : Nat) (pcs : List Nat) (f : Nat → Engine → Engine) : State :=
  pcs.foldl (fun acc pc => acc.setEngine n pc (f pc { acc.engine n pc with lastUse := (acc.stack n).cycle })) s

/-- VLOAD: broadcasts staging bytes into a vector bank (R183, R193). -/
def State.rowVload (s : State) (x : RowCtx) : State :=
  let len := fld x.r.c 0 18
  let lo := fld x.r.a 1 11 * 64
  let until_ := x.k.cycle + cdiv len 512 + x.k.fig 51
  let bs := memRead x.k.vstage x.staging len
  let s1 := s.setStack x.n { s.stack x.n with treeFree := until_ }
  s1.touchEngines x.n x.targets fun _ e =>
    let e1 := e.take x.k.cycle until_ (x.uses e)
    if fld x.r.a 0 1 = 0 then { e1 with vb0 := memWrite e1.vb0 lo bs } else { e1 with vb1 := memWrite e1.vb1 lo bs }

/-- The read of columns of an open page by an engine: bytes, and whether each codeword is uncorrectable or poisoned. -/
def State.columns (s : State) (n pc page col count : Nat) : State × List Byte × List Nat :=
  s.stkRead n ((pc * 524288 + page) * 2048 + col * 64) (count * 64) 1

/-- Occupies a data path for some columns of a page and notes the last of them. -/
def Stack.streamed (k : Stack) (pc page cols : Nat) (write : Bool) : Stack :=
  let until_ := k.cycle + k.stretch cols
  let b := k.bank pc page
  let k1 := k.setBank pc page (if write then { b with wrAt := until_ } else { b with rdAt := until_ })
  let k2 := { k1 with dpFree := mput 0 k1.dpFree pc (max until_ (mget 0 k1.dpFree pc)) }
  if write then { k2 with lastWr := mput 0 k2.lastWr pc (max until_ (mget 0 k2.lastWr pc)) } else { k2 with lastRd := mput 0 k2.lastRd pc until_ }

/-- SLOAD: page columns into the scale buffer (R193, R199). -/
def State.rowSload (s : State) (x : RowCtx) : State :=
  let page := x.page.toNat
  let lo := fld x.r.a 10 7 * 64
  x.targets.foldl (fun acc pc =>
    let r := acc.columns x.n pc page x.col x.count
    let k := r.1.stack x.n
    let s1 := r.1.setStack x.n (k.streamed pc page x.count false)
    let ready := k.cycle + k.stretch x.count - 1 + k.fig 49
    s1.touchEngines x.n [pc] fun _ e =>
      { e.take k.cycle ready (x.uses e) with scale := memWrite e.scale lo r.2.1 }) s

/-- An input element widened to binary32 exactly (R186). -/
def macInput (e : Engine) (m : MacArgs) (k v : Nat) : Num :=
  let i := m.voff * 16 + k * m.v + v
  let bank := if m.vb = 0 then e.vb0 else e.vb1
  let code := ofBytes (memRead bank (2 * i) 2)
  decodeFloat (if m.bf16 then fmtBF16 else fmtF16) code

/-- The value table of codebook weights, as the scale buffer holds it (R187). -/
def macTable (e : Engine) (m : MacArgs) : List Nat :=
  let n := tableBytes m.fmt
  let w := if n = 16 then 1 else 2
  if n = 0 then [] else (List.range (n / w)).map fun i => ofBytes (memRead e.scale (m.sbase * 64 + i * w) w)

/-- The streamed elements of a MAC as groups of at most G consecutive reduction positions: output row, first position, first
stream element, length (R186). -/
def macGroups (m : MacArgs) (pos : Nat × Nat) (n : Nat) : List (Nat × Nat × Nat × Nat) :=
  (List.range n).foldl (fun (acc : List (Nat × Nat × Nat × Nat)) i =>
    let z := macAfter m pos i
    match acc.reverse with
    | (o, k, f, len) :: rest =>
      if o = z.1 ∧ k / macG m.fmt = z.2 / macG m.fmt then (( (o, k, f, len + 1) :: rest).reverse)
      else acc ++ [(z.1, z.2, i, 1)]
    | [] => [(z.1, z.2, i, 1)]) []

/-- One group of one vector: exact sum of products, times the block scale, rounded once (R186). -/
def macGroup (e : Engine) (m : MacArgs) (table codes : List Nat) (g : Nat × Nat × Nat × Nat) (v : Nat) : Lane :=
  let sum := numSum ((List.range g.2.2.2).map fun i =>
    numMul (decodeElem m.fmt table (codes.getD (g.2.2.1 + i) 0)) (macInput e m (g.2.1 + i) v))
  if blockScaled m.fmt then
    let w := scaleBytes m.fmt
    enc32 (numMul sum (decodeScale m.fmt (ofBytes (memRead e.scale (macScaleAt m g.1 g.2.1) w))))
  else enc32 sum

/-- MAC on one engine: the accumulators, the poison flags and the stream position after it (R186 to R188). -/
def Engine.mac (e : Engine) (m : MacArgs) (bs : List Byte) (bad : List Nat) (firstWord : Nat) : Engine :=
  let b := fmtBits m.fmt
  let n := bs.length * 8 / b
  let v := ofBytes bs
  let codes := (List.range n).map fun i => fld v (i * b) b
  let pos := macStart m e
  let table := macTable e m
  let acc := (macGroups m pos n).foldl (fun (a : SMap Lane) g =>
    (List.range m.v).foldl (fun (a : SMap Lane) lane =>
      let key := (m.acc0 + g.1) % 1024 * 16 + lane
      mput 0 a key (f32Add (mget 0 a key) (macGroup e m table codes g lane))) a) e.acc
  let poison := bad.foldl (fun (l : List Nat) w =>
    let lo := (w - firstWord) * 256 / b
    let hi := cdiv ((w - firstWord + 1) * 256) b
    (List.range (hi - lo)).foldl (fun l i => setIns ((m.acc0 + (macAfter m pos (lo + i)).1) % 1024) l) l) e.accPoison
  let z := macAfter m pos n
  { e with acc := acc, accPoison := poison, posO := z.1, posK := z.2 }

/-- MAC: streams weight columns through the targeted engines (R186 to R188, R199). -/
def State.rowMac (s : State) (x : RowCtx) : State :=
  let page := x.page.toNat
  let m := x.mac
  x.targets.foldl (fun acc pc =>
    let r := acc.columns x.n pc page x.col x.count
    let k := r.1.stack x.n
    let end_ := k.cycle + k.stretch x.count
    let s1 := r.1.setStack x.n (k.streamed pc page x.count false)
    s1.touchEngines x.n [pc] fun _ e =>
      let e1 := e.mac m r.2.1 r.2.2 (((pc * 524288 + page) * 2048 + x.col * 64) / 32)
      let own (u : PartUse) : Bool := decide (u.1 = 3)
      let e2 := (e1.take k.cycle end_ ((x.uses e).filter fun u => !own u)).take k.cycle (end_ - 1 + k.fig 50) ((x.uses e).filter own)
      { e2 with busyUntil := end_, accFinal := end_ - 1 + tableReset 0 50 }) s

/-- ACLR: accumulator rows to +0, poison flags cleared (R193). -/
def State.rowAclr (s : State) (x : RowCtx) : State :=
  let rows := (List.range x.rows).map fun i => (x.acc0 + i) % 1024
  s.touchEngines x.n x.targets fun _ e =>
    let acc := e.acc.filter fun c => !rows.contains (c.1 / 16)
    { e.take x.k.cycle (x.k.cycle + x.k.fig 52) (x.uses e) with
      acc := acc, accPoison := e.accPoison.filter fun r => !rows.contains r }

/-- Free bytes for the data of an engine that failed (log entry 2). -/
def State.freeBytes (s : State) : Nat → State × List Byte
  | 0 => (s, [])
  | n + 1 =>
    let v := s.fresh
    let r := v.2.freeBytes n
    (r.1, Config.freeByte v.1 :: r.2)

/-- A write of a unit other than a tile into scratchpad or region memory, in granules with a poison flag each; a counted
write names its counter (R194, R304). `who` marks the writer in the inbox. -/
def State.unitWrite (s : State) (who : Nat) (a : Nat) (bs : List Byte) (poison : Nat → Bool) (acid : Option Nat) : State :=
  (granulePieces a bs).foldl (fun acc g =>
    match decodeAddr g.1 with
    | some (.spad t o) =>
      let y := acc.tile t
      let m : InMsg := { addr := o, bs := g.2, mask := 0xFF#8, poison := poison (g.1 / 64), acid := acid, tile := who, effId := 0 }
      (acc.setTile t { y with inbox := y.inbox ++ [m] }).wakeTile t
    | some (.region r o) => acc.setRegion r ((acc.region r).write o g.2 (poison (g.1 / 64)))
    | _ => acc) s

/-- DRAIN: lanes of accumulator rows of each engine, packed, with the rows' poison flags; the shares of failed engines are
poisoned (R194, R208). -/
def State.rowDrain (s : State) (x : RowCtx) : State :=
  let v := fld x.r.a 20 4 + 1
  let es := x.drainEngines
  let acid := if x.r.a.testBit 30 then some (fld x.r.a 24 6) else none
  let d := x.drainDest.toNat
  let parts := (List.range es.length).foldl (fun (acc : State × List Byte × List (Nat × Nat)) n =>
    let pc := es.getD n 0
    let e := acc.1.engine x.n pc
    let failed := x.p.failedEng.getLsbD pc
    let cells := (List.range x.rows).foldl (fun (l : List Byte) r =>
      (List.range v).foldl (fun l lane =>
        l ++ toBytes 4 (mget 0 e.acc ((x.acc0 + r) % 1024 * 16 + lane)).toNat) l) []
    let f := if failed then acc.1.freeBytes cells.length else (acc.1, cells)
    let bad := (List.range x.rows).filterMap fun r =>
      if failed || e.accPoison.contains ((x.acc0 + r) % 1024) then
        some ((d + (n * x.rows + r) * v * 4), v * 4) else none
    (f.1, acc.2.1 ++ f.2, acc.2.2 ++ bad)) (s, [], [])
  let poison (g : Nat) : Bool := parts.2.2.any fun p => (granulesOf p.1 p.2).contains g
  let s1 := parts.1.unitWrite (200 + x.n) d parts.2.1 poison acid
  let until_ := x.k.cycle + max x.rows (cdiv parts.2.1.length 256)
  let k := s1.stack x.n
  let shares : List DrainRun := es.mapIdx fun i pc => { pc := pc, addr := d + i * x.rows * v * 4, len := x.rows * v * 4, until_ := until_ }
  let s2 := s1.setStack x.n { k with prg := k.prg.map fun p =>
    { p with doneAt := max p.doneAt until_, drains := p.drains.filter (fun q => decide (k.cycle < q.until_)) ++ shares } }
  s2.touchEngines x.n x.targets fun _ e => e.take x.k.cycle (x.k.cycle + x.rows) (x.uses e)

/-- CMOVE: columns over the carousel into an open page of another pseudo-channel, decoded and re-encoded at each end (R184,
R193). -/
def State.rowCmove (s : State) (x : RowCtx) : State :=
  let page := x.page.toNat
  let dpc := x.moveTo.1
  let dpage := x.moveTo.2
  let dcol := fld x.r.a 16 5
  match x.targets with
  | [] => s
  | pc :: _ =>
    let r := s.columns x.n pc page x.col x.count
    let first := ((pc * 524288 + page) * 2048 + x.col * 64) / 32
    let s1 := (List.range (x.count * 2)).foldl (fun acc i =>
      acc.stkWrite x.n ((dpc * 524288 + dpage) * 2048 + dcol * 64 + i * 32) ((r.2.1.drop (i * 32)).take 32) 0xFF#8
        (r.2.2.contains (first + i)) 1) r.1
    let k := s1.stack x.n
    let k1 := (k.streamed pc page (2 * x.count) false).streamed dpc dpage (2 * x.count) true
    let ring := k.cycle + k.carousel (k.stretch (2 * x.count))
    let until_ := max ring (mget 0 k1.dpFree dpc)
    s1.setStack x.n { k1 with ringFree := ring, prg := k1.prg.map fun p => { p with doneAt := max p.doneAt until_ } }

/-- The trip ends of the programme loops that end on a row (R196): innermost first. -/
def prgTrips (row : Nat) : List PrgLoop → List PrgLoop × Option Nat
  | [] => ([], none)
  | l :: ls =>
    if l.endRow = row then
      if l.remaining ≤ 1 then prgTrips row ls
      else ({ l with remaining := l.remaining - 1, trip := l.trip + 1 } :: ls, some l.first)
    else (l :: ls, none)

/-- The sequencer moves past the row it has issued (R196, R198). -/
def Programme.advance (p : Programme) (now : Nat) : Programme :=
  let t := prgTrips p.row p.loops
  { p with loops := t.1, row := t.2.getD (p.row + 1), lastIssue := now }

/-- The sequencer of a stack moves on. -/
def State.advanceRow (s : State) (n : Nat) : State :=
  let k := s.stack n
  s.setStack n { k with prg := k.prg.map fun p => p.advance k.cycle }

/-- An engine's own pipeline is still busy when a row reaches it (R206): only a table that understates a figure lets this
happen. -/
def State.refuses (s : State) (x : RowCtx) : Bool :=
  [0x11, 0x12, 0x13, 0x14].contains x.r.op &&
    x.targets.any fun pc =>
      let e := s.engine x.n pc
      decide (x.k.cycle < e.busyUntil) || ((x.r.op == 0x13 || x.r.op == 0x14) && decide (x.k.cycle < e.accFinal))

/-- The logic die refuses a row: logged, and kept to be issued again (R206). -/
def State.refuseRow (s : State) (x : RowCtx) : State :=
  let k := s.stack x.n
  let pc := (x.targets.find? fun pc => decide (x.k.cycle < (s.engine x.n pc).accFinal)).getD 0
  let last := BitVec.ofNat 64 (pc + 2 ^ 6 + x.r.op * 2 ^ 8 + s.time.toNat % 2 ^ 48 * 2 ^ 16)
  let mask := BitVec.ofNat 64 (x.targets.foldl (fun m pc => m + 2 ^ pc) 0)
  (s.setStack x.n { k with tvRow := satInc k.tvRow, tvLast := last, refusedRow := some (x.p.row, mask) }).pushEvent
    (unitId 4 x.n) 4

/-- The engines that a row acts on run its operation (R217). -/
def State.noteOp (s : State) (x : RowCtx) : State :=
  if engineRow x.r.op then x.targets.foldl (fun acc pc => acc.setEngine x.n pc { acc.engine x.n pc with lastOp := x.r.op }) s else s

/-- The walker's tables of a row that has issued are used up (R272). -/
def State.useFetched (s : State) (x : RowCtx) : State :=
  let k := s.stack x.n
  if x.r.op = 0x21 then s.setStack x.n { k with prg := k.prg.map fun p => { p with fetched := p.fetched - 1 } } else s

/-- One row of the running programme, if its opcode is the one named and it can issue now (R189, R193, R198, R201, R203, R206, R207). A
reserved opcode, and a row beyond the memory, are found by any row's turn. -/
def State.issueRow (s : State) (e : StkAt) (op : Nat) (effect : State → RowCtx → State) : State :=
  let n := e.stack
  let s1 := s.reachStk e
  let k := s1.stack n
  match k.prg with
  | none => s1
  | some p =>
    let x := rowCtx n k p (k.row p.row)
    if p.ended || k.refusedRow.isSome || k.preempt || !s1.stackUp n then s1
    else if x.r.op ≠ op && rowOps.contains x.r.op && decide (p.row ≤ 8191) then s1
    else match s1.rowError x with
      | some c => s1.prgError n c
      | none =>
        if x.waitOnly then (if x.due then (s1.useFetched x).advanceRow n else s1)
        else if !s1.enginesAwake x then s1.wakeEngines n x.targets
        else if !x.due || x.refreshFirst || !s1.partsFree x then s1
        else if s1.refuses x then s1.refuseRow x
        else (((effect s1 x).noteOp x).useFetched x).advanceRow n

/-- ACT: opens a page in each targeted pseudo-channel (R193). -/
def State.rowAct (s : State) (x : RowCtx) : State :=
  x.targets.foldl (fun acc pc =>
    let c := acc.stack x.n
    let p := x.page.toNat
    acc.setStack x.n (c.setBank pc p { c.bank pc p with page := some p, actAt := c.cycle, used := true })) s

/-- PRE: closes the bank of a page in each targeted pseudo-channel (R193). -/
def State.rowPre (s : State) (x : RowCtx) : State :=
  x.targets.foldl (fun acc pc =>
    let c := acc.stack x.n
    let p := x.page.toNat
    let b := c.bank pc p
    if b.page.isSome then acc.setStack x.n (c.setBank pc p { b with page := none, preAt := c.cycle }) else acc) s

/-- WAKE: starts the wake of the targeted engines (R200). -/
def State.rowWake (s : State) (x : RowCtx) : State :=
  (s.wakeEngines x.n x.targets).touchEngines x.n x.targets fun _ e => e

/-- SIG: signals semaphore SEM + P3 by +N (R197, R299). -/
def State.rowSig (s : State) (x : RowCtx) : State :=
  s.sendSignal (.programme x.n x.p.row x.p.cmd.tag) (partyId 3 x.n) 1 (fld x.r.a 0 16 + x.p.cmd.p3.toNat) (fld x.r.b 0 24) 0

/-- LOOP: latches COUNT and END; a count of zero skips the body: the sequencer then steps past END (R196). -/
def Programme.enterLoop (p : Programme) (r : Row) : Programme :=
  let count := fld r.b 0 16
  let end_ := fld r.c 0 13
  if count = 0 then { p with row := end_ }
  else { p with loops := { l := r.a % 4, first := p.row + 1, endRow := end_, remaining := count, trip := 0 } :: p.loops }

/-- LOOP (R196). -/
def State.rowLoop (s : State) (x : RowCtx) : State :=
  let c := s.stack x.n
  s.setStack x.n { c with prg := c.prg.map fun p => p.enterLoop x.r }

/-- END: the row sequence ends (R197). -/
def State.rowEnd (s : State) (x : RowCtx) : State :=
  let c := s.stack x.n
  s.setStack x.n { c with prg := c.prg.map fun p => { p with ended := true } }

/-- A NOP row: only its wait (R193). -/
def execRowNop (k : StkAt) (s : State) : Answer := .next (s.issueRow k 0x00 fun s _ => s)

/-- ACT (R193). -/
def execAct (k : StkAt) (s : State) : Answer := .next (s.issueRow k 0x01 fun s x => s.rowAct x)

/-- PRE (R193). -/
def execPre (k : StkAt) (s : State) : Answer := .next (s.issueRow k 0x02 fun s x => s.rowPre x)

/-- WAKE (R200). -/
def execWake (k : StkAt) (s : State) : Answer := .next (s.issueRow k 0x03 fun s x => s.rowWake x)

/-- VLOAD (R183, R193). -/
def execVload (k : StkAt) (s : State) : Answer := .next (s.issueRow k 0x10 fun s x => s.rowVload x)

/-- SLOAD (R193). -/
def execSload (k : StkAt) (s : State) : Answer := .next (s.issueRow k 0x11 fun s x => s.rowSload x)

/-- MAC (R186 to R188). -/
def execMac (k : StkAt) (s : State) : Answer := .next (s.issueRow k 0x12 fun s x => s.rowMac x)

/-- ACLR (R193). -/
def execAclr (k : StkAt) (s : State) : Answer := .next (s.issueRow k 0x13 fun s x => s.rowAclr x)

/-- DRAIN (R194). -/
def execDrain (k : StkAt) (s : State) : Answer := .next (s.issueRow k 0x14 fun s x => s.rowDrain x)

/-- CMOVE (R193). -/
def execCmove (k : StkAt) (s : State) : Answer := .next (s.issueRow k 0x18 fun s x => s.rowCmove x)

/-- SIG: issued once every earlier row's effects are coherent (R197, R299). -/
def execRowSig (k : StkAt) (s : State) : Answer := .next (s.issueRow k 0x30 fun s x => s.rowSig x)

/-- LOOP (R196). -/
def execRowLoop (k : StkAt) (s : State) : Answer := .next (s.issueRow k 0x31 fun s x => s.rowLoop x)

/-- END (R197). -/
def execRowEnd (k : StkAt) (s : State) : Answer := .next (s.issueRow k 0x32 fun s x => s.rowEnd x)

/-- A page copy that waited begins now that no programme runs and its data paths are free: 2 stack cycles per column over both data paths,
stretched by the throttle, with a boundary after each DRAM page (R202, R276, R282). -/
def Stack.beginCopy (k : Stack) : Stack :=
  if k.kvGo = false || decide (k.kvUntil ≠ 0) then k
  else
    let a := k.kvSrc.toNat % 64
    let b := k.kvDst.toNat % 64
    let start := max k.cycle (max (mget 0 k.dpFree a) (mget 0 k.dpFree b))
    let until_ := start + k.carousel (k.stretch (64 * k.att.pgsz))
    let run (pc first : Nat) : WalkRun :=
      { pc := pc, cw := 0, ncw := 0, start := start, cols := until_
        parts := (List.range k.att.pgsz).map fun i => (start + k.carousel (k.stretch (64 * (i + 1))), [first + i]) }
    { k with kvUntil := until_, kvRuns := [run a k.kvFirst.1, run b k.kvFirst.2], dpFree := mput 0 (mput 0 k.dpFree a until_) b until_ }

/-- The programme completes once every earlier row's effects are coherent: the count rises, its banks are closed, and the next
start command can begin (R197). -/
def execPrgComplete (k : StkAt) (s : State) : Answer :=
  let n := k.stack
  let s1 := s.reachStk k
  let c := s1.stack n
  .next (match c.prg with
    | some p =>
      let coherent := decide (p.doneAt ≤ c.cycle) && !s1.drainsFlying n
      if p.ended && coherent && c.refusedRow.isNone then
        let banks := c.banks.filterMap fun b =>
          let x := if b.2.page.isSome then { b.2 with page := none, preAt := c.cycle } else b.2
          if x = Bank.zero then none else some (b.1, x)
        (s1.setStack n { c with prg := none, lastTag := p.cmd.tag, prgDone := satInc c.prgDone, banks := banks, preempt := false, preemptPages := [] }.beginCopy).cmdEnd
          (unitId 4 n) p.cmd.tag.toNat
      else s1
    | none => s1)

/-- A row refused for a busy engine is issued again when the engine reports idle (R206). -/
def execRowReissue (k : StkAt) (s : State) : Answer :=
  let n := k.stack
  let s1 := s.reachStk k
  let c := s1.stack n
  .next (match c.refusedRow, c.prg with
    | some _, some p =>
      let x := rowCtx n c p (c.row p.row)
      if c.preempt || s1.refuses x || x.refreshFirst || !s1.partsFree x then s1
      else
        let s2 := s1.setStack n { c with refusedRow := none }
        let s3 := match x.r.op with
          | 0x11 => s2.rowSload x
          | 0x12 => s2.rowMac x
          | 0x13 => s2.rowAclr x
          | 0x14 => s2.rowDrain x
          | _ => s2
        (s3.noteOp x).advanceRow n
    | _, _ => s1)

/-! ### Start commands and apertures (R189 to R191, R211) -/

/-- A start command from a 256-byte item (R191). -/
def startOf (tile effId : Nat) (it : List Byte) : StartCmd :=
  let f (o : Nat) : BitVec 64 := BitVec.ofNat 64 (byteField it o 8)
  { tile := tile, entry := byteField it 0 2 % 2 ^ 13, mask := f 8, p0 := f 0x10, p1 := f 0x18, p2 := f 0x20, p3 := f 0x28
    tag := BitVec.ofNat 32 (byteField it 0x30 4), effId := effId }

/-- The controller takes a start command from its port into its queue of sixteen (R190). -/
def execStartCmdAccept (k : StkAt) (s : State) : Answer :=
  let s1 := s.reachStk k
  let c := s1.stack k.stack
  .next (match c.startPort with
    | [] => s1
    | x :: rest =>
      if 16 ≤ c.startQ.length || c.aperPort.any (fun a => a.1 == x.tile && decide (a.2.2.2.2 < x.effId)) then s1
      else (s1.setStack k.stack { c with startPort := rest, startQ := c.startQ ++ [x] }).landed x.tile x.effId)

/-- The sequencer takes the next start command (R189); it begins only while no programme, repair or page copy runs. -/
def execPrgStart (k : StkAt) (s : State) : Answer :=
  let s1 := s.reachStk k
  let c := s1.stack k.stack
  .next (match c.prg, c.startQ with
    | none, x :: rest =>
      if c.kvGo || !s1.stackUp k.stack then s1
      else
        let p : Programme := { cmd := x, row := x.entry, loops := [], lastIssue := c.cycle, doneAt := c.cycle, ended := false
                               failedEng := 0, fetched := 0, configured := 0, walks := [], drains := [] }
        (s1.setStack k.stack { c with startQ := rest, prg := some p }).cmdStart (unitId 4 k.stack) x.tag.toNat
    | _, _ => s1)

/-- Takes the first aperture store of one kind that no earlier store or start command of its tile waits before (R190). -/
def Stack.nextAperture (c : Stack) (prgMem : Bool) : Option (Nat × Bool × Nat × BitVec 2048 × Nat) :=
  c.aperPort.find? fun a => a.2.1 == prgMem && !(c.aperPort.any fun b => b.1 == a.1 && decide (b.2.2.2.2 < a.2.2.2.2)) &&
    !(c.startPort.any fun x => x.tile == a.1 && decide (x.effId < a.2.2.2.2))

/-- Applies an aperture store of one kind (R190). -/
def State.takeAperture (s : State) (k : StkAt) (prgMem : Bool) (f : Stack → Nat → List Byte → Stack) : State :=
  let s1 := s.reachStk k
  let c := s1.stack k.stack
  match c.nextAperture prgMem with
  | none => s1
  | some a =>
    (s1.setStack k.stack (f { c with aperPort := c.aperPort.filter fun b => decide (b ≠ a) } a.2.2.1 (toBytes 256 a.2.2.2.1.toNat))).landed
      a.1 a.2.2.2.2

/-- A store rewrites eight rows of programme memory (R190, R211). -/
def execPrgMemWrite (k : StkAt) (s : State) : Answer :=
  .next (s.takeAperture k true fun c off bs => { c with prgMem := memWrite c.prgMem off bs })

/-- A store writes 256 bytes of the staging buffer (R190, R211). -/
def execVstageWrite (k : StkAt) (s : State) : Answer :=
  .next (s.takeAperture k false fun c off bs => { c with vstage := memWrite c.vstage off bs })

end Sys2Proof.Machine
end

