-- ==== Sys2Proof/Machine/StackAtt.lean ====
section
/-! DEFINITION. The attention walk of a stack controller: page identifiers, page tables, the one-pass softmax of a bank
engine, and its records (R261 to R277, R284). -/

namespace Sys2Proof.Machine

/-! ### Cache pages and their tables -/

/-- The pool's window (R263, R287). -/
def State.poolWin (s : State) (n : Nat) : Option WinRec :=
  match s.job.windows[(s.stack n).att.win]? with
  | some w => if w.valid && decide (w.kind = 2) then some w else none
  | none => none

/-- The stack, pseudo-channel and first DRAM page that a page identifier names; none if it names no page (R263). -/
def State.pageOfId (s : State) (n id : Nat) : Option (Nat × Nat × Nat) :=
  match s.poolWin n with
  | none => none
  | some w =>
    let e := id % 512
    let first := w.pbase + id / 512 * (s.stack n).att.pgsz
    if w.stack ≤ e / 64 ∧ e / 64 < w.stack + w.scount ∧ first + (s.stack n).att.pgsz ≤ w.pbase + w.npage ∧ id < 2 ^ 25 then
      some (e / 64, e % 64, first)
    else none

/-- The page identifier of logical page `j` of a layer, as the tables of a root record give it (R265): none where an entry is
not valid. -/
def State.leafPage (s : State) (n root layer j : Nat) : Option Nat :=
  let l1 := s.tableField n (root + 8) 5
  let e := s.tableField n (l1 + (layer * 32 + j / 512) * 8) 8
  if e % 2 = 0 then none
  else
    let leaf := s.tableField n (fld e 12 28 * 4096 + j % 512 * 8) 8
    if leaf.testBit 32 then some (leaf % 2 ^ 25) else none

/-- LEN of a root record (R265). -/
def State.rootLen (s : State) (n root : Nat) : Nat := fld (s.tableField n root 8) 0 21

/-- HSZ, the bytes of a head segment (R262). -/
def AttCfg.hsz (c : AttCfg) : Nat := 8 * c.hd + 16 * c.hd * fmtBits c.fmt

/-! ### The walk of one engine (R269, R273, R274) -/

/-- The running state of a query row: m, l and o (R273). -/
structure AttRow where
  m : Lane
  l : Lane
  o : List Lane
deriving DecidableEq, Repr

/-- −∞ in binary32. -/
def negInf32 : Lane := 0xFF800000#32

/-- The running state at the start of a walk. -/
def attStart (hd : Nat) : AttRow := { m := negInf32, l := 0, o := List.replicate hd 0 }

/-- The sum of lanes in the order of a list, each addition rounded. -/
def laneSum : List Lane → Lane
  | [] => 0
  | x :: xs => xs.foldl f32Add x

/-- The mask record of a node: ANC and DEPTH (R268). -/
def maskRecord (bank : Memory) (g : AcfgArgs) (node : Nat) : Nat × Nat :=
  let r := ofBytes (memRead bank (g.moff * 64 + 8 * node) 8)
  (fld r 0 32, fld r 32 3)

/-- Whether a query row of node `n` sees the key at slot `p` (R269). -/
def attVisible (bank : Memory) (g : AcfgArgs) (len n p : Nat) : Bool :=
  let mk := maskRecord bank g n
  let draft := p - len
  let seen := decide (p < len) || (decide (draft < g.nn) && mk.1.testBit draft)
  let pos := if p < len then p else len + (maskRecord bank g draft).2
  seen && (decide (g.wlen = 0) || decide (len + mk.2 + 1 ≤ pos + g.wlen))

/-- Element (slot, d) of one of the two halves of a head segment: its code and its scale code (R262). -/
def segElem (c : AttCfg) (seg : List Byte) (v : Bool) (t d : Nat) : Nat × Nat :=
  let b := fmtBits c.fmt
  let base := if v then 4 * c.hd + 8 * c.hd * b else 0
  let bit := (t * c.hd + d) * b
  let code := fld (byteField seg (base + 4 * c.hd + bit / 8) 1) (bit % 8) b
  (code, byteField seg (base + 2 * (t * (c.hd / 32) + d / 32)) 2)

/-- The query element (h, r, d) of the vector bank (R271). -/
def queryElem (bank : Memory) (g : AcfgArgs) (hd h r d : Nat) : Num :=
  decodeFloat (if g.bf16 then fmtBF16 else fmtF16)
    (ofBytes (memRead bank (g.qoff * 64 + (h * g.aq + r) * hd * 2 + d * 2) 2))

/-- The score of a slot: groups of 32 exact products times the K scale, rounded once each, added in ascending order
(R273 item 1). -/
def attScore (bank : Memory) (g : AcfgArgs) (c : AttCfg) (seg : List Byte) (h r t : Nat) : Lane :=
  laneSum ((List.range (c.hd / 32)).map fun j =>
    let sum := numSum ((List.range 32).map fun i =>
      let d := 32 * j + i
      numMul (queryElem bank g c.hd h r d) (decodeElem c.fmt [] (segElem c seg false t d).1))
    enc32 (numMul sum (decodeScale c.fmt (segElem c seg false t (32 * j)).2)))

/-- One head segment streamed past one query row (R273); `first` is the position of slot 0. -/
def attPage (bank : Memory) (g : AcfgArgs) (c : AttCfg) (seg : List Byte) (len first h r : Nat) (x : AttRow) : AttRow :=
  let slots := (List.range 64).filter fun t => attVisible bank g len (r / g.gq) (first + t)
  if slots.isEmpty then x
  else
    let ss := slots.map fun t => (t, attScore bank g c seg h r t)
    let m' := ss.foldl (fun m q => f32MaxProp m q.2) x.m
    let ps := ss.map fun q => (q.1, exp2Engine (f32Sub q.2 m'))
    let k := if x.m = negInf32 then 0#32 else exp2Engine (f32Sub x.m m')
    let o := (List.range c.hd).map fun d =>
      let sum := laneSum (ps.map fun q =>
        let e := segElem c seg true q.1 d
        enc32 (numMul (dec32 q.2) (numMul (decodeElem c.fmt [] e.1) (decodeScale c.fmt e.2))))
      f32Add (f32Mul (x.o.getD d 0) k) sum
    { m := m', l := f32Add (f32Mul x.l k) (laneSum (ps.map (·.2))), o := o }

/-- The record of a query row (R274). -/
def attRecord (g : AcfgArgs) (hd : Nat) (x : AttRow) : List Byte :=
  let zero := numIsZero (dec32 x.l)
  let o := x.o.flatMap fun v =>
    let q := if zero then Num.fin false 0 0 else numDiv (dec32 v) (dec32 x.l)
    if g.half then toBytes 2 (encodeFloat fmtF16 2 q) else toBytes 4 (encodeFloat fmtF32 2 q)
  let bs := toBytes 4 x.m.toNat ++ toBytes 4 x.l.toNat ++ o
  bs ++ List.replicate (g.recSize hd - bs.length) 0

/-! ### The timeline of a walk (R275, R276) -/

/-- Stack cycles of the K part and of the V part of a head segment, the gap before the V values with the V part (R275). -/
def attPartCycles (k : Stack) (c : AttCfg) (g : AcfgArgs) : Nat × Nat :=
  let b := fmtBits c.fmt
  let scale := c.hd / 16
  let value := c.hd * b / 8 * cdiv (512 / max 1 b * g.aq) 8192
  (k.stretch (scale + value), max 24 (k.stretch scale) + k.stretch value)

/-- The DRAM pages of a run of bytes of a cache page that begins at a DRAM page. -/
def runPages (first lo n : Nat) : List Nat := (pagesOf lo n).map (· + first)

/-- The streamed parts of a walk in one engine, in order: cycles and DRAM pages (R272, R276). -/
def walkStream (k : Stack) (c : AttCfg) (g : AcfgArgs) (pages : List (Nat × Nat)) : List (Nat × List Nat) :=
  let cy := attPartCycles k c g
  let half := c.hsz / 2
  pages.flatMap fun p => (List.range g.nh).flatMap fun h =>
    let base := (g.h0 + h) * c.hsz
    [(cy.1, runPages p.2 base half), (cy.2, runPages p.2 (base + half) half)]

/-- The record parts of a walk: one for each DRAM page of records, the first one behind the 64 cycles in which the running state becomes
final (R275, R276). -/
def walkRecords (k : Stack) (c : AttCfg) (g : AcfgArgs) (first : Nat) : List (Nat × List Nat) :=
  let cols := cdiv (g.nh * g.aq * g.recSize c.hd) 64
  (List.range (g.recPages c.hd)).map fun i => ((if i = 0 then 64 else 0) + k.stretch (min 32 (cols - 32 * i)), [first + i])

/-- Parts with the cycles at which they end. -/
def partEnds (start : Nat) : List (Nat × List Nat) → List (Nat × List Nat)
  | [] => []
  | p :: ps => (start + p.1, p.2) :: partEnds (start + p.1) ps

/-- The first cycle from which a column of a page can be read, its bank closed and opened as it must be (R198, R227). -/
def Stack.colFrom (k : Stack) (pc page : Nat) : Nat :=
  let b := k.bank pc page
  let f := k.fig
  if b.page = some page then max k.cycle (b.actAt + f 1)
  else
    let closed := match b.page with
      | none => if b.used then b.preAt else 0
      | some _ => max k.cycle (max (b.actAt + f 3) (max (b.rdAt + f 7) (b.wrAt + f 8)))
    max (max k.cycle b.refUntil) (if b.used then max (closed + f 2) (b.actAt + f 4) else 0) + f 1

/-- The banks of a walk's pages as it leaves them: opened and closed part by part (R275). -/
def Stack.walkBanks (k : Stack) (pc : Nat) (start : Nat) (parts : List (Nat × List Nat)) : Stack :=
  (parts.foldl (fun (acc : Stack × Nat) p =>
    (p.2.foldl (fun c page => c.setBank pc page { c.bank pc page with page := none, actAt := acc.2, preAt := p.1, used := true }) acc.1, p.1))
    (k, start)).1

/-- Streams the pages of one engine in ascending order: the running states by head and row, and the heads in which an
uncorrectable or poisoned codeword was met (R272 to R274). -/
def State.streamPages (s : State) (x : RowCtx) (g : AcfgArgs) (bank : Memory) (len pc : Nat) (pages : List (Nat × Nat)) :
    State × List (List AttRow) × List Nat :=
  let c := x.k.att
  let init : List (List AttRow) := List.replicate g.nh (List.replicate g.aq (attStart c.hd))
  pages.foldl (fun acc p =>
    (List.range g.nh).foldl (fun acc h =>
      let r := acc.1.stkRead x.n ((pc * 524288 + p.2) * 2048 + (g.h0 + h) * c.hsz) c.hsz 1
      let rows := (acc.2.1.getD h []).zipIdx.map fun q => attPage bank g c r.2.1 len (64 * p.1) h q.2 q.1
      (r.1, listSet acc.2.1 h rows, if r.2.2.isEmpty then acc.2.2 else setIns h acc.2.2)) acc) (s, init, [])

/-- Writes the records of one engine, with the poison flag where it is due (R274, R284). -/
def State.writeRecords (s : State) (x : RowCtx) (g : AcfgArgs) (pc : Nat) (rows : List (List AttRow)) (bad : Nat → Bool) : State :=
  let rs := g.recSize x.k.att.hd
  let base := (pc * 524288 + x.recPage) * 2048
  (List.range g.nh).foldl (fun acc h =>
    (List.range g.aq).foldl (fun acc r =>
      let rec_ := attRecord g x.k.att.hd ((rows.getD h []).getD r (attStart x.k.att.hd))
      acc.stkWrite x.n (base + (h * g.aq + r) * rs) rec_ 0xFF#8 (bad h) 1) acc) s

/-- The logical pages that a walk of one engine covers (R272). -/
def AcfgArgs.logicalPages (g : AcfgArgs) (len : Nat) : List Nat :=
  let hi := (len + g.nn - 1) / 64
  let lo := if g.wlen = 0 then 0 else (len + 1 - g.wlen) / 64
  (List.range (hi + 1 - lo)).map (· + lo)

/-- The query and mask ranges of the vector bank, which a walk reads (R271, R275). -/
def AcfgArgs.reads (g : AcfgArgs) (hd : Nat) : List PartUse :=
  [(g.vb, g.qoff * 64, g.qoff * 64 + g.nh * g.aq * hd * 2, false), (g.vb, g.moff * 64, g.moff * 64 + 8 * g.nn, false)]

/-- The ACFG in force for an engine (R271). -/
def State.acfg (s : State) (n pc : Nat) : AcfgArgs := let e := s.engine n pc; acfgOf e.cfgA.toNat e.cfgB.toNat

/-- The walker's read of a word of the table area is decoded and accounted as any other (R238, R259, R260, R264). -/
def State.noteTable (s : State) (n off : Nat) : State :=
  match s.resolve (fld (s.stack n).attTbase.toNat 0 52 + off) with
  | some p => s.noteCodeword p.stack (p.addr / 32) ((s.stack p.stack).codeword (p.addr / 32)).1 0
  | none => s

/-- The table reads of a walk over some logical pages of a layer: the root record, the level-1 entries, and the leaf entries of those that are
valid (R265, R272). -/
def State.noteTables (s : State) (n root layer : Nat) (js : List Nat) : State :=
  let l1 := s.tableField n (root + 8) 5
  let at_ (j : Nat) : Nat := l1 + (layer * 32 + j / 512) * 8
  let tops := js.foldl (fun l j => setIns (j / 512) l) []
  let s1 := tops.foldl (fun acc q => acc.noteTable n (at_ (q * 512))) (s.noteTable n root)
  js.foldl (fun acc j =>
    let e := s.tableField n (at_ j) 8
    if e % 2 = 0 then acc else acc.noteTable n (fld e 12 28 * 4096 + j % 512 * 8)) s1

/-- The walk of one engine: its pages streamed in order, its records written, and the times at which each part ends (R272 to R276). -/
def State.walkEngine (s : State) (x : RowCtx) (len pc : Nat) (pages : List (Nat × Nat)) (miss : Bool) : State :=
  let n := x.n
  let c := x.k.att
  let g := s.acfg n pc
  let e := s.engine n pc
  let r := s.streamPages x g (if g.vb = 0 then e.vb0 else e.vb1) len pc pages
  let s1 := r.1.writeRecords x g pc r.2.1 fun h => miss || r.2.2.contains h
  let k := s1.stack n
  let stream := walkStream x.k c g pages
  let parts := stream ++ walkRecords x.k c g x.recPage
  let first := match parts with | p :: _ => p.2.foldl (fun t q => max t (x.k.colFrom pc q)) x.k.cycle | [] => x.k.cycle
  let reads := g.reads c.hd
  let start := e.occ.foldl (fun t o =>
    if o.write && reads.any (fun u => decide (u.1 = o.part) && decide (o.lo < u.2.2.1) && decide (u.2.1 < o.hi)) then max t o.until_ else t)
    (max first (max (mget 0 x.k.dpFree pc) (mget 0 x.k.ordFree pc)))
  let cols := stream.foldl (fun t p => t + p.1) start
  let w : WalkRun := { pc := pc, cw := (pc * 524288 + x.recPage) * 64, ncw := g.nh * g.aq * g.recSize c.hd / 32, start := start, cols := cols
                       parts := partEnds start parts }
  let k1 := k.walkBanks pc start w.parts
  let s2 := s1.setStack n { k1 with
    dpFree := mput 0 k1.dpFree pc (max w.done (mget 0 k1.dpFree pc)), lastWr := mput 0 k1.lastWr pc w.done
    prg := k1.prg.map fun p => { p with doneAt := max p.doneAt w.done, walks := p.walks ++ [w] }
    attPages := satAdd k1.attPages pages.length }
  s2.touchEngines n [pc] fun _ e => e.take x.k.cycle cols reads

/-- AWALK: one sequence and one layer walked in every targeted engine, each by its own ACFG (R272 to R276, R284). A page that has no entry, in
the range of any of them, poisons every record. -/
def State.rowAwalk (s : State) (x : RowCtx) : State :=
  let n := x.n
  let root := x.k.rootOff (fld x.r.a 0 13)
  let layer := fld x.r.a 13 8
  let len := s.rootLen n root
  let range (pc : Nat) : List Nat := (s.acfg n pc).logicalPages len
  let all := x.targets.foldl (fun l pc => (range pc).foldl (fun l j => setIns j l) l) []
  let found := all.map fun j => (j, (s.leafPage n root layer j).bind fun id => s.pageOfId n id)
  let miss := found.any fun q => q.2.isNone
  let skipped := found.filter fun q => match q.2 with
    | some p => decide (p.1 = n) && !x.targets.contains p.2.1
    | none => false
  let mine (pc : Nat) : List (Nat × Nat) := found.filterMap fun q => match q.2 with
    | some p => if p.1 = n ∧ p.2.1 = pc ∧ (range pc).contains q.1 then some (q.1, p.2.2) else none
    | none => none
  let walked := x.targets.foldl (fun acc pc => acc.walkEngine x len pc (mine pc) miss) (s.noteTables n root layer all)
  let dead := x.failedTargets.foldl (fun acc pc => acc.writeRecords x (s.acfg n pc) pc [] fun _ => true) walked
  let k := dead.stack n
  let s3 := dead.setStack n
    { k with attSkip := satAdd k.attSkip skipped.length, attMiss := if miss then satInc k.attMiss else k.attMiss }
  if miss then s3.pushEvent (unitId 4 n) 7 else s3

/-- ACFG: the query rows of the targeted engines, in force until the next ACFG or the end of the programme; it stands for an engine that has
failed too, whose records it sizes (R271, R284). -/
def State.rowAcfg (s : State) (x : RowCtx) : State :=
  let set (e : Engine) : Engine := { e with cfgA := BitVec.ofNat 32 x.r.a, cfgB := BitVec.ofNat 64 x.r.b }
  let s1 := x.failedTargets.foldl (fun acc pc => acc.setEngine x.n pc (set (acc.engine x.n pc)))
    (s.touchEngines x.n x.targets fun _ e => set e)
  let k := s1.stack x.n
  let mark (p : Programme) : Programme :=
    { p with configured := x.targets.foldl (fun m pc => setBit m pc true) p.configured }
  s1.setStack x.n { k with prg := k.prg.map mark }

/-- ACFG (R271). -/
def execAcfg (k : StkAt) (s : State) : Answer := .next (s.issueRow k 0x20 fun s x => s.rowAcfg x)

/-- AWALK (R272). -/
def execAwalk (k : StkAt) (s : State) : Answer := .next (s.issueRow k 0x21 fun s x => s.rowAwalk x)

/-- The walker has the tables of one more of the programme's next four AWALK rows (R272). -/
def execWalkerTableFetch (k : StkAt) (s : State) : Answer :=
  let s1 := s.reachStk k
  let c := s1.stack k.stack
  let f (p : Programme) : Programme := { p with fetched := min 4 (p.fetched + 1) }
  .next (s1.setStack k.stack { c with prg := c.prg.map f })

end Sys2Proof.Machine
end

