-- ==== Sys2Proof/Machine/StackEvents.lean ====
section
/-! DEFINITION. Events of a stack controller: sleep of bank engines, pre-emption, refresh and bands, throttle, the valid map,
the scrubber, repair, and page copies (R200 to R209, R226 to R260, R276, R282, R289). -/

namespace Sys2Proof.Machine

/-- One event at a controller: its clock advances, then the event acts on the stack. -/
def State.stkEvent (s : State) (k : StkAt) (f : Stack → Stack) : State :=
  let s1 := s.reachStk k
  s1.setStack k.stack (f (s1.stack k.stack))

/-- Whether a controller runs or holds no programme (R200, R209). -/
def Stack.quiet (k : Stack) : Bool := k.prg.isNone && k.startQ.isEmpty

/-- An engine that no row has targeted for 1,200 stack cycles is put to sleep while no programme runs or waits (R182, R200). -/
def execBankEngineSleep (k : StkAt) (pc : Fin 64) (s : State) : Answer :=
  let s1 := s.reachStk k
  let c := s1.stack k.stack
  let e := s1.engine k.stack pc
  .next (if c.quiet && decide (e.sleep = .awake) && decide (e.lastUse + 1200 ≤ c.cycle) then (s1.setEngine k.stack pc Engine.zero).traceSleep (unitId 1 (k.stack * 64 + pc))
    else s1)

/-! ### Pre-emption (R203, R276) -/

/-- An access held for longer than STK_HOLD_MAX, taken as 2,400 at most, pre-empts the programme at its next row boundary (R203, R215). -/
def execPreempt (k : StkAt) (s : State) : Answer :=
  .next (s.stkEvent k fun c =>
    let late := c.held.any fun x => match x.reached with
      | some r => decide (r + min 2400 c.holdMax.toNat < c.cycle) && decide (x.cause = 0)
      | none => false
    if (c.prg.isSome || c.kvGo) && !c.preempt && late then
      { c with preempt := true, preemptAt := c.cycle, preemptCnt := satInc c.preemptCnt }
    else c)

/-- The banks that a pre-emption closed are opened again at their pages. -/
def Stack.reopen (c : Stack) : Stack :=
  c.preemptPages.foldl (fun c p =>
    let b := mget Bank.zero c.banks p.1
    { c with banks := mput Bank.zero c.banks p.1 { b with page := some p.2, actAt := c.cycle, used := true } }) c

/-- A run that goes on later from a cycle on. -/
def WalkRun.delay (w : WalkRun) (at_ d : Nat) : WalkRun :=
  { w with start := if at_ ≤ w.start then w.start + d else w.start, cols := if at_ < w.cols then w.cols + d else w.cols
           parts := w.parts.map fun p => (if at_ < p.1 then p.1 + d else p.1, p.2) }

/-- Changes the runs of a stack, with the times that follow from them: data paths, and the ends of the programme and of the copy. -/
def Stack.mapRuns (c : Stack) (f : WalkRun → WalkRun) : Stack :=
  let walks := (match c.prg with | some p => p.walks | none => []).map f
  let kv := c.kvRuns.map f
  let last (l : List WalkRun) (t : Nat) : Nat := l.foldl (fun m w => max m w.done) t
  { c with dpFree := (walks ++ kv).foldl (fun m w => mput 0 m w.pc (max w.done (mget 0 m w.pc))) c.dpFree
           prg := c.prg.map fun p => { p with walks := walks, doneAt := last walks p.doneAt }
           kvRuns := kv, kvUntil := last kv c.kvUntil }

/-- Walks and page copies that paused at a boundary of their own go on from there when the pre-emption ends (R276). -/
def Stack.resumeWalks (c : Stack) : Stack :=
  c.mapRuns fun w =>
    if w.done ≤ c.preemptAt then w
    else
      let b := if c.preemptAt ≤ w.start then w.start else w.pauseAt c.preemptAt
      w.delay b (c.cycle - b)

/-- Every access held at the pre-emption has been served: closed pages are opened again and the programme resumes (R203). -/
def execPreemptResume (k : StkAt) (s : State) : Answer :=
  .next (s.stkEvent k fun c =>
    let waiting := c.held.any c.heldFirst
    if c.preempt && !waiting then { c.reopen.resumeWalks with preempt := false, preemptPages := [] } else c)

/-! ### Refresh, bands and throttle -/

/-- Refreshes the next bank of a pseudo-channel (R228, R229): an open page is closed first; the bank is then busy for T_RFC, and the page is
opened again after it. -/
def Stack.refreshBank (c : Stack) (pc : Nat) : Stack :=
  let n := mget 0 c.refBank pc
  let b := c.bank pc n
  let ready := if b.page.isSome then c.cycle + c.fig 2 else if b.used then max c.cycle (b.preAt + c.figSince 2 b.preAt) else c.cycle
  let done := ready + c.fig 15
  let b1 : Bank := if b.page.isSome then { b with actAt := done, refUntil := done } else { b with refUntil := done }
  { c.setBank pc n b1 with refBank := mput 0 c.refBank pc ((n + 1) % 32) }

/-- The parts of a run that are not over, each with the cycle at which it begins. -/
def WalkRun.ahead (w : WalkRun) (now : Nat) : List (Nat × List Nat) :=
  (w.parts.foldl (fun (acc : List (Nat × List Nat) × Nat) p => (if now < p.1 then acc.1 ++ [(acc.2, p.2)] else acc.1, p.1)) ([], w.start)).1

/-- Whether a run holds a bank open in its part at a cycle (R275). -/
def WalkRun.opens (w : WalkRun) (now bank : Nat) : Bool :=
  match w.ahead now with
  | p :: _ => p.2.any fun q => decide (q % 32 = bank)
  | [] => false

/-- Whether a run stands at a boundary of its own, or has not begun (R276). -/
def WalkRun.atBoundary (w : WalkRun) (now : Nat) : Bool := decide (now ≤ w.start) || w.parts.any fun p => decide (p.1 = now)

/-- A run waits where it comes to a bank that is being refreshed (R229, R276). -/
def WalkRun.block (w : WalkRun) (now bank ready : Nat) : WalkRun :=
  match (w.ahead now).find? fun p => p.2.any fun q => decide (q % 32 = bank) with
  | some p => w.delay p.1 (ready - p.1)
  | none => w

/-- The refresh of the next bank of a pseudo-channel, and the wait of the runs that come to it. -/
def Stack.grantRefresh (c : Stack) (pc : Nat) : Stack :=
  let n := mget 0 c.refBank pc
  let c1 := c.refreshBank pc
  let ready := (c1.bank pc n).refUntil + c.fig 1
  c1.mapRuns fun w => if w.pc = pc then w.block c.cycle n ready else w

/-- A per-bank refresh falls due every T_REFI and is granted; one of a bank that the programme holds open is postponed, at most N_POSTPONE
times, and then granted once the operations issued on the bank have ended, within a walk or a copy at its next boundary (R201, R228, R229,
R276). -/
def execRefreshDue (k : StkAt) (pc : Fin 64) (s : State) : Answer :=
  .next (s.stkEvent k fun c =>
    let at_ := mget 0 c.refAt pc
    let due := decide (at_ ≤ c.cycle)
    let owed := mget 0 c.refOwed pc + (if due then 1 else 0)
    let c1 := if due then { c with refAt := mput 0 c.refAt pc (at_ + max 1 (c.fig 14)) } else c
    let keep : Stack := { c1 with refOwed := mput 0 c1.refOwed pc owed }
    let n := mget 0 c1.refBank pc
    let b := c1.bank pc n
    let runs := c1.runs.filter fun w => decide (w.pc = pc.val) && w.opens c1.cycle n
    let open_ := (b.page.isSome && c1.prg.isSome) || !runs.isEmpty
    let busy := (b.page.isSome && (decide (c1.cycle < max b.rdAt b.wrAt) || !c1.preOk pc n)) || runs.any fun w => !w.atBoundary c1.cycle
    if owed = 0 then c1
    else if open_ && (decide (owed ≤ c1.fig 18) || busy) then keep
    else { c1.grantRefresh pc with refOwed := mput 0 c1.refOwed pc (owed - 1) })

/-- Exchanges a band's table and its shadow (R231). -/
def Stack.swapBand (c : Stack) (b : Nat) : Stack :=
  (List.range 64).foldl (fun c e =>
    let t := c.table b e
    let sh := c.shadow b e
    { c with tables := mput (tableReset b e) c.tables (b * 64 + e) sh
             shadows := mput (tableReset b e) c.shadows (b * 64 + e) t }) c

/-- A TIMING command ends when the shadow is swapped in all eight controllers (R512; log entry 49). -/
def State.timingDone (s : State) : State :=
  match s.lodge.liveRun with
  | some r => if decide (r.op = 2) && (List.range 8).all fun n => !(s.stack n).swap.getLsbD (fld (r.payload.headD 0).toNat 0 2) then s.liveEnd 0 else s
  | none => s

/-- A refresh boundary, once in 32 refresh intervals: requested swaps first, then the band commanded and the margin of STK_PERT
(R228, R230, R231, R601). -/
def execRefreshBoundary (k : StkAt) (s : State) : Answer :=
  .next ((s.stkEvent k fun c =>
    if c.cycle < c.roundAt then c
    else
      let old := (List.range 64).map fun e => c.fig e
      let c1 := (List.range 4).foldl (fun c b => if c.swap.getLsbD b then c.swapBand b else c) c
      let c2 : Stack := { c1 with swap := 0, band := c1.bandReq, margin := c1.pert.truncate 8 }
      let moved := c.swap ≠ 0#4 ∨ c.band ≠ c.bandReq ∨ c.margin ≠ c2.margin
      { c2 with roundAt := c2.cycle + 32 * max 1 (c2.fig 14)
                oldTab := if moved then old else c2.oldTab, swapAt := if moved then c2.cycle else c2.swapAt }).timingDone)

/-- The Lodge sets bits of STK_BAND.SWAP (R231, R234). -/
def execBandSwapRequest (k : StkAt) (bits : BitVec 4) (s : State) : Answer :=
  .next (s.stkEvent k fun c => { c with swap := c.swap ||| bits })

/-- A new throttle level is in force from the next row boundary (R202). -/
def execThrottleLevelApply (k : StkAt) (s : State) : Answer :=
  .next (s.stkEvent k fun c => { c with throttle := c.throttleReq })

/-- A cleared bit of STK_ENG_AVAIL is set again when its engine is ONLINE and the controller runs and holds no programme
(R209). -/
def execEngAvailRestore (k : StkAt) (pc : Fin 64) (s : State) : Answer :=
  let online := decide ((s.unit (unitId 1 (k.stack * 64 + pc))).allowed = 2)
  .next (s.stkEvent k fun c =>
    if online && c.quiet then { c with engAvail := setBit c.engAvail pc true } else c)

/-! ### The valid map (R246 to R250) -/

/-- The last codeword of a fill is written and the page becomes VALID; a clear that waited for it then sets it to INVALID (R246, R248). -/
def execPageFillDone (k : StkAt) (pc : Fin 64) (page : Nat) (s : State) : Answer :=
  let p := pc.val * 524288 + page
  .next (s.stkEvent k fun c =>
    if c.filling.any (fun f => decide (f.1 = p) && decide (f.2 ≤ c.cycle)) then
      let c1 := { c with filling := c.filling.filter (fun f => decide (f.1 ≠ p)), valid := setIns p c.valid }
      if c.clrLate.contains p then { c1.clearWhere (fun q => decide (q = p)) with clrLate := setDel p c1.clrLate } else c1
    else c)

/-- STK_VALID_CLR and STK_VALID_PCMASK are written and GO is set; writes while GO is set are ignored (R248, R250). -/
def Stack.startClear (c : Stack) (page : BitVec 19) (npage : BitVec 20) (mask : BitVec 64) : Stack :=
  if c.clrGo then c
  else { c with clrPage := page, clrNpage := npage, clrMask := mask, clrGo := true, clrPos := 0 }

def execValidClear (k : StkAt) (page : BitVec 19) (npage : BitVec 20) (pcmask : BitVec 64) (s : State) : Answer :=
  .next (s.stkEvent k fun c => c.startClear page npage pcmask)

/-- A clear has reached its last page and GO reads 0. -/
def execValidClearDone (k : StkAt) (s : State) : Answer :=
  .next (s.stkEvent k fun c => if c.clrGo && decide (c.clearTotal ≤ c.clrPos) then { c with clrGo := false } else c)

/-! ### The scrubber (R251 to R254) -/

/-- The scrubber handles one page (R251). -/
def State.scrubPage (s : State) (n page : Nat) : State :=
  (List.range 64).foldl (fun acc i =>
    let w := page * 64 + i
    let c := (acc.stack n).codeword w
    let s1 := acc.noteCodeword n w c.1 2
    let k := s1.stack n
    match c.1 with
    | .corrected => s1.setStack n (k.storeCodeword w c.2 false)
    | .uncorrectable => s1.setStack n (k.storeCodeword w c.2 true)
    | _ => s1) s

/-- Stack cycles between two visits; a value from 1 to 3,017 is taken as 3,018 (R253). -/
def Stack.scrubPeriod (c : Stack) : Nat := 256 * max 3018 c.scrubInt.toNat

/-- The place of the next visit after a page in order: the next VALID page; at the end of the pass the pages that were dropped
are due, and then the pass is counted and the next one begins (R252, R254, R256). -/
def Stack.scrubOn (c : Stack) (from_ : Nat) : Stack :=
  match c.nextValid from_ with
  | some q => { c with scrubPc := q / 524288, scrubPage := q % 524288 }
  | none =>
    if c.scrubLate.isEmpty then
      let q := (c.nextValid 0).getD 0
      { c with scrubPc := q / 524288, scrubPage := q % 524288, scrubPasses := satInc c.scrubPasses, corrSeen := [] }
    else { c with scrubPc := 64, scrubPage := 0 }

/-- The scrubber once it has taken its next page: a queued one, else the next VALID page in order, else one whose visit was dropped. -/
def Stack.takeVisit (c : Stack) : Stack :=
  match c.scrubQ with
  | _ :: rest => { c with scrubQ := rest }
  | [] => match c.nextValid (c.scrubPc * 524288 + c.scrubPage) with
    | some q => c.scrubOn (q + 1)
    | none => { c with scrubLate := c.scrubLate.drop 1 }.scrubOn (64 * 524288)

/-- One visit of the scrubber. It is served after every other ordinary access; a visit that cannot be served waits, and is dropped when the
next falls due (R251 to R253). -/
def execScrubVisit (k : StkAt) (s : State) : Answer :=
  let n := k.stack
  let s1 := s.reachStk k
  let c := s1.stack n
  .next (if c.scrubInt = 0#24 || decide (c.cycle < c.scrubAt) || !s1.stackUp n then s1
    else
      let next := max c.cycle (c.scrubAt + c.scrubPeriod)
      match c.nextVisit with
      | none => s1.setStack n { c with scrubAt := next, scrubPc := 0, scrubPage := 0 }
      | some q =>
        let a := q * 2048
        let waits := c.holds a || !c.ordReady a false || c.held.any fun x => decide (x.cause = 0) && decide (pcOf x.addr = pcOf a)
        if waits then
          if c.scrubAt + c.scrubPeriod ≤ c.cycle then
            let c1 := c.takeVisit
            s1.setStack n { c1 with scrubAt := next, scrubLate := setIns q c1.scrubLate }
          else s1
        else (s1.setStack n ({ c.takeVisit with scrubAt := next }.ordColumns a 2048 false)).scrubPage n q)

/-! ### Repair (R255 to R258) -/

/-- A page is redirected to the next spare page of its pseudo-channel that was never used (R220, R255). -/
def Stack.remapPage (c : Stack) (p : Nat) : Stack :=
  let pc := p / 524288
  let n := mget 0 c.spareNext pc
  { c with remap := mput 0 c.remap p (524224 + n), spareNext := mput 0 c.spareNext pc (n + 1) }

/-- Migrates a page: its codewords are read and written back, uncorrectable words poisoned (R257). -/
def State.migratePage (s : State) (n p : Nat) : State :=
  if (s.stack n).written p then
    (List.range 64).foldl (fun acc i =>
      let r := acc.readCodeword n (p * 64 + i) 3
      r.1.setStack n ((r.1.stack n).storeCodeword (p * 64 + i) r.2.1 r.2.2)) s
  else s

/-- The Lodge repairs a page that needs it while no programme runs: the page is migrated, a spare row of its bank or a remap
entry takes its place, and the data are written back with uncorrectable words poisoned (R255 to R258). The end of the operation is a boundary of duty 6 (R495). -/
def execPageRepair (k : StkAt) (pc : Fin 64) (page : Nat) (s : State) : Answer :=
  let n := k.stack
  let p := pc.val * 524288 + page
  let s1 := s.reachStk k
  let c := s1.stack n
  let bank := pc.val * 32 + page % 32
  let spares := mget 0 c.spareUsed bank
  let record (s : State) (soft : Nat) : State :=
    { s with lodge := { s.lodge with nvRepairs := s.lodge.nvRepairs ++ [(n * 2 + soft, p)] } }
  let settle (f : Stack → Stack) (s : State) : State :=
    let x := s.stack n
    s.setStack n (f { x with repairWant := setDel p x.repairWant, corrSeen := mput 0 x.corrSeen p 0 })
  .next (if c.prg.isSome || c.kvGo || !c.repairWant.contains p then s1
    else if spares < 4 then
      record (settle (fun x => { x with spareUsed := mput 0 x.spareUsed bank (spares + 1), repairSoft := satInc x.repairSoft })
        (s1.migratePage n p)) 0 |>.dutyBoundary 6
    else if (c.remap.length < 256 ∨ (c.remap.any fun e => decide (e.1 = p))) ∧ mget 0 c.spareNext pc < 64 then
      record (settle (fun x => x.remapPage p) (s1.migratePage n p)) 1 |>.dutyBoundary 6
    else
      (settle id s1).hostEvent 1 |>.dutyBoundary 6)

/-- The Lodge adds the on-die correction counts that the DRAM dies report, one count for each stack (R235, R259). -/
def execOdeccPoll (counts : List Nat) (s : State) : Answer :=
  .next ((List.range 8).foldl (fun acc n =>
    let c := acc.stack n
    acc.setStack n { c with odecc := satAdd c.odecc (counts.getD n 0) }) s)

/-! ### Page copies (R282, R289) -/

/-- STK_KVCOPY is written with GO set. A copy between stacks, or of an identifier that names no page, is refused; writes
while GO is set are ignored; the copy begins once no programme runs. -/
def State.startKvCopy (s : State) (n : Nat) (src dst : BitVec 25) : State :=
  let c := s.stack n
  let here (id : BitVec 25) : Option Nat := match s.pageOfId n id.toNat with
    | some p => if p.1 = n then some p.2.2 else none
    | none => none
  if c.kvGo then s
  else match here src, here dst with
    | some a, some b =>
      let c1 : Stack := { c with kvSrc := src, kvDst := dst, kvErr := false, kvGo := true, kvUntil := 0, kvFirst := (a, b) }
      s.setStack n (if c1.prg.isNone then c1.beginCopy else c1)
    | _, _ => s.setStack n { c with kvSrc := src, kvDst := dst, kvErr := true }

/-- STK_KVCOPY (R289). -/
def execKvcopy (k : StkAt) (src dst : BitVec 25) (s : State) : Answer := .next ((s.reachStk k).startKvCopy k.stack src dst)

/-- Copies the DRAM pages of one cache page to another, decoded and re-encoded, poison with its codeword (R239, R282). -/
def State.copyCachePage (s : State) (n : Nat) (src dst : Nat × Nat × Nat) : State :=
  let a := (src.2.1 * 524288 + src.2.2) * 64
  let b := (dst.2.1 * 524288 + dst.2.2) * 64
  (List.range (64 * (s.stack n).att.pgsz)).foldl (fun acc i =>
    let r := acc.readCodeword n (a + i) 1
    r.1.stkWrite n ((b + i) * 32) r.2.1 0xFF#8 r.2.2 1) s

/-- A page copy ends and GO reads 0 (R289). -/
def execKvcopyDone (k : StkAt) (s : State) : Answer :=
  let n := k.stack
  let s1 := s.reachStk k
  let c := s1.stack n
  .next (match s1.pageOfId n c.kvSrc.toNat, s1.pageOfId n c.kvDst.toNat with
    | some a, some b =>
      if c.kvGo && !c.preempt && decide (c.kvUntil ≠ 0) && decide (c.kvUntil ≤ c.cycle) then
        (s1.setStack n { c with kvGo := false, kvUntil := 0, kvRuns := [] }).copyCachePage n a b
      else s1
    | _, _ => s1)

end Sys2Proof.Machine
end

