-- ==== Sys2Proof/Machine/RegionEng.lean ====
section
/-! DEFINITION. The region copy engine and atomics (R169 to R180, R321 to R325, R600). -/

namespace Sys2Proof.Machine

/-! ### Reads and writes of engines -/

/-- Reads 64-byte granules of the module's memory for an engine, stack memory with its accounting: the bytes by device address
and the granules that carry the poison flag (R239 to R241, R293). -/
def State.fetchGranules (s : State) (gs : List Nat) : State × Memory × List Nat :=
  gs.foldl (fun acc g =>
    if spaceOf (g * 64) = 0 then
      match acc.1.resolve (g * 64 % 2 ^ 52) with
      | some p =>
        let r := if acc.1.stackUp p.stack then acc.1.stkRead p.stack p.addr 64 0 else (acc.1, [], [])
        (r.1, memWrite acc.2.1 (g * 64) r.2.1, if r.2.2.isEmpty then acc.2.2 else setIns g acc.2.2)
      | none => acc
    else
      let bs := (List.range 64).map fun i => acc.1.outside (g * 64 + i)
      (acc.1, memWrite acc.2.1 (g * 64) (bs.map (·.1)), if bs.any (·.2) then setIns g acc.2.2 else acc.2.2)) (s, [], [])

/-- A write of an engine to one granule at its point of coherence: the masked bits of each byte, with a poison flag. -/
def State.performPiece (s : State) (a : Nat) (bs : List Byte) (mask : Byte) (poison : Bool) : State :=
  match decodeAddr a with
  | some (.spad t o) =>
    s.setTile t ((s.tile t).remoteWrite o bs mask poison)
  | some (.region r o) =>
    let x := s.region r
    let new := if mask = 0xFF#8 then bs else bs.mapIdx fun i b => maskByte (memGet x.mem (o + i)) b mask
    s.setRegion r (x.write o new poison)
  | some (.stack x) =>
    match s.resolve x with
    | some p => if s.stackUp p.stack then s.stkWrite p.stack p.addr bs mask poison 0 else s
    | none => s
  | _ => s

/-! ### The traffic of engines at the stack controllers (R203, R210, R236) -/

/-- Whether no stack controller holds anything back: each is up, runs no programme and no page copy, and fills no page. -/
def State.stacksCalm (s : State) : Bool :=
  (List.range 8).all fun n => s.stackUp n && (s.stack n).prg.isNone && !(s.stack n).kvGo && (s.stack n).filling.isEmpty

/-- Whether the controllers serve an engine's accesses to some granules now: their stacks can be reached, and no access is held
(R203, R210, R246). -/
def State.stacksOpen (s : State) (gs : List Nat) : Bool :=
  s.stacksCalm || gs.all fun g =>
    decide (spaceOf (g * 64) ≠ 0) || (match s.resolve (g * 64 % 2 ^ 52) with
      | some p => s.stackUp p.stack && !(s.stack p.stack).holds p.addr
      | none => true)

/-- An engine's traffic reaches the controllers: for each stack that it touches one access stands for it there, which is held, retried and
counted as any other (R203, R205, R236; log entry 80). -/
def State.askStacks (s : State) (unit : Nat) (gs : List Nat) : State :=
  (List.range 8).foldl (fun acc n =>
    match (gs.filterMap fun g => if spaceOf (g * 64) = 0 then s.resolve (g * 64 % 2 ^ 52) else none).find? fun p => decide (p.stack = n) with
    | some p => acc.sendAccess p (.read 0) (.engine unit)
    | none => acc) s

/-- Whether the controllers have served the accesses that stand for an engine's command. -/
def State.stacksAnswered (s : State) (unit : Nat) : Bool :=
  let own (x : StkAcc) : Bool := x.src == .engine unit
  (List.range 8).all fun n => !(s.stack n).inflight.any own && !(s.stack n).held.any own

/-- Writes byte pieces granule by granule; `bad` tells which granules carry the poison flag. -/
def State.performPieces (s : State) (pcs : List (Nat × List Byte × Byte)) (bad : Nat → Bool) : State :=
  pcs.foldl (fun acc p =>
    (granulePieces p.1 p.2.1).foldl (fun acc g => acc.performPiece g.1 g.2 p.2.2 (bad (g.1 / 64))) acc) s

/-- The bytes that pieces write. -/
def piecesBytes (pcs : List (Nat × List Byte × Byte)) : Nat := pcs.foldl (fun n p => n + p.2.1.length) 0

/-! ### Copy commands (R170 to R175) -/

/-- A copy command with its two descriptors. -/
structure CopyCmd where
  item : List Byte
  src : Desc
  dst : Desc
  code : Bool
deriving DecidableEq, Repr

/-- The command of an item that a tile stored (R166, R170). -/
def RegCmd.copy (c : RegCmd) : CopyCmd :=
  let it := toBytes 256 c.item.toNat
  let src := parseDesc (it.take 64) c.tile
  let dst := parseDesc ((it.drop 64).take 64) c.tile
  { item := it, src := src, dst := dst, code := copyIsCode it src dst }

/-- PERM(d). -/
def CopyCmd.perm (c : CopyCmd) (d : Nat) : Nat := fld (byteField c.item 0x80 3) (3 * d) 3

/-- Indices to element number. -/
def ofIndices : List Nat → List Nat → Nat
  | e :: es, i :: is => i + e * ofIndices es is
  | _, _ => 0

/-- The source element that is written at destination element `j` (R171). -/
def CopyCmd.sourceOf (c : CopyCmd) (j : Nat) : Nat :=
  let idx := indicesOf c.dst.exts j
  let n := c.src.exts.length
  let src := (List.range n).map fun d =>
    match (List.range n).find? (fun e => decide (c.perm e = d)) with
    | some e => idx.getD e 0
    | none => 0
  ofIndices c.src.exts src

/-- The 64-byte granules that an element of a descriptor and its scale touch. -/
def Desc.elemGranules (d : Desc) (j : Nat) : List Nat :=
  match d.place (j : Int) with
  | .elem o q =>
    let sp := elemSpan d.base d.bits o
    granulesOf sp.1 sp.2 ++ granulesOf (d.scaleAddr q) (scaleBytes d.fmt)
  | _ => []

/-- The granules that a command touches of one descriptor (R178). -/
def Desc.granules (d : Desc) : List Nat :=
  let t := if tableBytes d.fmt = 0 then [] else granulesOf ((d.base : Int) + d.scaleOff).toNat (tableBytes d.fmt)
  (List.range d.count).foldl (fun acc j => (d.elemGranules j).foldl (fun a g => setIns g a) acc)
    (t.foldl (fun a g => setIns g a) [])

/-- S of R175: the packed source elements, their scales and their table. -/
def CopyCmd.size (c : CopyCmd) : Nat :=
  let d := c.src
  let e0 := d.exts.headD 1
  let blocks := if d.blockSize = 0 then 0 else cdiv e0 d.blockSize * (d.exts.drop 1).foldl (· * ·) 1
  cdiv (d.count * d.bits) 8 + blocks * scaleBytes d.fmt + tableBytes d.fmt

/-- Whether the footprints of the two descriptors share a byte (R175). -/
def CopyCmd.overlaps (c : CopyCmd) : Bool :=
  c.src.footprint.any fun a => c.dst.footprint.any fun b => decide (a.1 ≤ b.2) && decide (b.1 ≤ a.2)

/-- A memory move (R175). -/
def CopyCmd.isMove (c : CopyCmd) : Bool :=
  c.code && ((List.range c.dst.rank).all fun d => decide (c.perm d = d)) &&
    (c.src.str.take c.src.rank == c.dst.str.take c.dst.rank)

/-- The cycles of a command that is not refused (R178). -/
def CopyCmd.cycles (c : CopyCmd) (staged : Bool) : Nat :=
  let r := c.src.granules.length
  let w := c.dst.granules.length
  if staged then 40 + cdiv r 4 + cdiv w 4 else 40 + cdiv (max r w) 4

/-! ### The result of a copy (R173, R174) -/

/-- What a copy writes: pieces, and the destination granules that hold an element of a poisoned source. -/
structure CopyOut where
  pieces : List (Nat × List Byte × Byte)
  bad : List Nat
deriving DecidableEq, Repr

/-- Of several scales written to one place the last one stands, and in stack memory the one that the free choice names, as for the
element codes (R156, R174). -/
def Desc.scalePieces (d : Desc) (choice : Nat) (l : List (Int × Nat)) : List (Nat × List Byte × Byte) :=
  let kept := if spaceOf d.base = 0 then surviveOne choice l else l
  kept.map fun x => (d.scaleAddr x.1, toBytes (scaleBytes d.fmt) x.2, 0xFF#8)

/-- Adds granules to a set. -/
def addGranules (l : List Nat) (a n : Nat) : List Nat := (granulesOf a n).foldl (fun acc g => setIns g acc) l

/-- The destination elements below `lim` of a copy that start a run along the innermost dimension: the first element of each block, or
of each element where the format has none, with the run's length. -/
def Desc.runs (d : Desc) (lim : Nat) : List (Nat × Nat) :=
  let b := max 1 d.blockSize
  let e0 := max 1 (d.exts.headD 1)
  ((List.range (min lim d.count)).filter fun j => j % e0 % b == 0).map fun j => (j, min b (e0 - j % e0))

/-- A code copy of the destination elements below `lim`: element codes, scales and table unchanged. A block takes the scale of its first
element that is not source padding, and 1 where all of it is padding. -/
def CopyCmd.codeCopy (c : CopyCmd) (rd : Reader) (choice lim : Nat) : CopyOut :=
  let d := c.dst
  let sb := scaleBytes d.fmt
  let els := (List.range (min lim d.count)).filterMap fun (j : Nat) =>
    match d.place (j : Int) with
    | .elem o q => some (o, q, c.sourceOf j)
    | _ => none
  let codes := els.map fun e => (e.1, (c.src.codeAt rd (e.2.2 : Int)).1)
  let scaleOf (j : Nat) : Option Nat := match c.src.place (c.sourceOf j : Int) with
    | .elem _ q => some (ofBytes ((List.range sb).map fun i => (rd (c.src.scaleAddr q + i)).1))
    | _ => none
  let scales := if sb = 0 ∨ d.blockSize = 0 then [] else (d.runs lim).filterMap fun r =>
    match d.place (r.1 : Int) with
    | .elem _ q => some (q, (((List.range r.2).filterMap fun i => scaleOf (r.1 + i)).head?).getD (oneScale d.fmt))
    | _ => none
  let t := tableBytes d.fmt
  let sa := ((c.src.base : Int) + c.src.scaleOff).toNat
  let da := ((d.base : Int) + d.scaleOff).toNat
  let table := if t = 0 then [] else [(da, (List.range t).map fun i => (rd (sa + i)).1, 0xFF#8)]
  let bad := els.foldl (fun (acc : List Nat) e =>
    if (c.src.valueAt rd [] (e.2.2 : Int)).2.1 then
      let sp := elemSpan d.base d.bits e.1
      addGranules (addGranules acc sp.1 sp.2) (d.scaleAddr e.2.1) sb
    else acc) (if spanPoison rd sa t then addGranules [] da t else [])
  { pieces := d.storePieces choice codes ++ d.scalePieces choice scales ++ table, bad := bad }

/-- A converting copy of the destination elements below `lim`: values decoded, rounded by ROUND, block scales computed (R118, R119, R121,
R173). -/
def CopyCmd.convert (c : CopyCmd) (rd : Reader) (choice lim : Nat) : CopyOut :=
  let d := c.dst
  let mode := fld (byteField c.item 0x84 1) 0 2
  let table := c.src.tableOf rd
  let tbad := spanPoison rd ((c.src.base : Int) + c.src.scaleOff).toNat (tableBytes c.src.fmt)
  let blocks := (d.runs lim).filterMap fun r =>
    let vs := (List.range r.2).map fun i => c.src.valueAt rd table (c.sourceOf (r.1 + i) : Int)
    match d.place (r.1 : Int) with
    | .elem o q =>
      let bad := tbad || vs.any (·.2.1)
      if d.blockSize = 0 then
        -- the elements of an unscaled format are converted one by one
        some ((List.range r.2).map (fun i => (o, encodeElem d.fmt mode (vs.getD i (.nan, false, false)).1)), none, bad, o, q, r.2)
      else
        let enc := encodeBlock d.fmt mode (vs.map (·.1))
        some ((List.range r.2).map (fun (i : Nat) => (o + (i : Int), enc.2.getD i 0)), some enc.1, bad, o, q, r.2)
    | _ => none
  let codes := blocks.flatMap (·.1)
  let scales := blocks.filterMap fun x => x.2.1.map fun sc => (x.2.2.2.2.1, sc)
  let bad := blocks.foldl (fun (acc : List Nat) x =>
    if x.2.2.1 then
      let a := elemSpan d.base d.bits x.2.2.2.1
      let z := elemSpan d.base d.bits (x.2.2.2.1 + (x.2.2.2.2.2 - 1 : Nat))
      addGranules (addGranules acc a.1 (z.1 + z.2 - a.1)) (d.scaleAddr x.2.2.2.2.1) (scaleBytes d.fmt)
    else acc) []
  { pieces := d.storePieces choice codes ++ d.scalePieces choice scales, bad := bad }

/-- What a copy command writes of its first `lim` destination elements. -/
def CopyCmd.result (c : CopyCmd) (rd : Reader) (choice lim : Nat) : CopyOut :=
  if c.code then c.codeCopy rd choice lim else c.convert rd choice lim

/-! ### The engine (R175 to R180) -/

/-- Whether a region engine may run: its unit is ONLINE or DRAINING. -/
def State.unitUp (s : State) (u : Nat) : Bool := decide ((s.unit u).allowed = 2) || decide ((s.unit u).allowed = 3)

/-- Commands that a copy engine holds (R176). -/
def Region.cpyHeld (r : Region) : Nat := r.cpyQ.length + (if r.cpyRun.isSome then 1 else 0)

/-- A sleeping engine begins to wake on a command (R32). -/
def wakeOf (x : Sleep) : Sleep := if x = .asleep then .waking else x

/-- The engine accepts the first command at its port, if fewer than 32 are held: an overlap is moved, staged or refused. -/
def execCopyCmdAccept (region : Fin 8) (s : State) : Answer :=
  let n := region.val
  let r := s.region n
  .next (match r.cpyPort with
    | [] => s
    | c :: rest =>
      if 32 ≤ r.cpyHeld then s
      else
        let x := c.copy
        let r1 : Region := { r with cpyPort := rest, cpySleep := wakeOf r.cpySleep }
        if x.overlaps && !x.isMove && decide (1048576 < x.size) then
          let s1 := s.setRegion n { r1 with cpyRefused := satInc r1.cpyRefused }
          (s1.setTile c.tile ((s1.tile c.tile).refuse 0x40 c.origin (cdiv x.size 1024))).landed c.tile c.effId
        else
          let staged := x.overlaps && !x.isMove
          (s.setRegion n { r1 with cpyQ := r1.cpyQ ++ [{ c with staged := staged }] }).landed c.tile c.effId)

/-- The engine, awake and idle, starts the next command in order. -/
def execCopyCmdStart (region : Fin 8) (_dt : Nat) (s : State) : Answer :=
  let n := region.val
  let r := s.region n
  .next (match r.cpyQ, r.cpyRun with
    | c :: rest, none =>
      if r.cpySleep ≠ .awake || !s.unitUp (unitId 2 n) then s
      else
        let x := c.copy
        ((s.setRegion n { r with cpyQ := rest, cpyRun := some (c, x.cycles c.staged)
                                 cpyStaged := if c.staged then satInc r.cpyStaged else r.cpyStaged }).askStacks (unitId 2 n)
          (x.src.granules ++ x.dst.granules)).cmdStart (unitId 2 n) (byteField x.item 0x90 4)
    | _, _ => s)

/-- The bytes that pieces deliver to each tile, as arrival increments (R177, R304). -/
def State.arrivePieces (s : State) (acid : Nat) (pcs : List (Nat × List Byte × Byte)) : State :=
  pcs.foldl (fun acc p => match decodeAddr p.1 with
    | some (.spad t _) => acc.arrive t acid p.2.1.length
    | _ => acc) s

/-- Performs the writes of the first `lim` destination elements of a command, with what it wrote (R174 to R178). -/
def State.copyElems (s : State) (c : RegCmd) (lim : Nat) : State × List (Nat × List Byte × Byte) :=
  let x := c.copy
  let f := s.fetchGranules x.src.granules
  let rd : Reader := fun a => (memGet f.2.1 a, f.2.2.contains (a / 64))
  let ch := f.1.fresh
  let out := x.result rd ch.1 lim
  (ch.2.performPieces out.pieces fun g => out.bad.contains g, out.pieces)

/-- A command that was stopped at a descriptor boundary has written a prefix of its destination: the elements of some number of whole
4 KiB of writes, a free value (R108, R178; log entry 35). -/
def State.copyPrefix (s : State) (c : RegCmd) : State :=
  let x := c.copy
  let ch := s.fresh
  let per := max 1 (32768 / max 1 x.dst.bits)
  (ch.2.copyElems c ((Config.free64 ch.1).toNat % (x.dst.count / per + 1) * per)).1

/-- The copy command of region `n` that was running, or that a fence has stopped, leaves its prefix; nothing of it goes on. -/
def State.stopCopy (s : State) (n : Nat) : State :=
  let r := s.region n
  let s1 := s.setRegion n { r with cpyRun := none, cpyStop := none }
  match r.cpyRun, r.cpyStop with
  | some c, _ => s1.copyPrefix c.1
  | none, some c => s1.copyPrefix c
  | none, none => s1

/-- A host-DMA command that was stopped at a descriptor boundary has moved some number of whole 4 KiB, a free value: to the host, or from the
host, whose bytes are free values then (R27, R108, R478; log entry 35). -/
def State.hdmaPrefix (s : State) (c : RegCmd) : State :=
  let it := toBytes 256 c.item.toNat
  let haddr := byteField it 0 8
  let laddr := byteField it 8 7
  let v := s.fresh
  let len := (Config.free64 v.1).toNat % (byteField it 0x10 4 / 4096 + 1) * 4096
  if (byteField it 0x14 1).testBit 0 then
    let g := v.2.fetchGranules (granulesOf laddr len)
    (granulePieces laddr (memRead g.2.1 laddr len)).foldl (fun acc p =>
      acc.hostWrite s.job.owner (haddr + (p.1 - laddr)) p.2 (g.2.2.contains (p.1 / 64)) none) g.1
  else
    let b := v.2.freeBytes len
    b.1.performPieces [(laddr, b.2, 0xFF#8)] fun _ => false

/-- The host-DMA command of region `n` that was running, or that a fence has stopped, leaves its prefix; nothing of it goes on. -/
def State.stopHdma (s : State) (n : Nat) : State :=
  let r := s.region n
  let s1 := s.setRegion n { r with hdmaRun := false, hdmaCut := none, hdmaDenied := none, hdmaQ := if r.hdmaRun then r.hdmaQ.drop 1 else r.hdmaQ }
  match r.hdmaQ, r.hdmaCut with
  | c :: _, none => if r.hdmaRun then s1.hdmaPrefix c else s1
  | _, some c => s1.hdmaPrefix c
  | [], none => s1

/-- Whether the port of the tile that holds an address takes writes now: a tile that does not run yet is woken first (R32). -/
def State.portOpen (s : State) (a : Nat) : Bool :=
  match decodeAddr a with
  | some (.spad t _) => (s.tile t).sleep == .awake
  | _ => true

/-- A write waits at the port of a sleeping tile, which begins to wake (R32). -/
def State.wakePort (s : State) (a : Nat) : State := match decodeAddr a with | some (.spad t _) => s.wakeTile t | _ => s

/-- `dt` tile cycles after its start, at least the figure of R178, the running command completes: its writes are performed, the
arrival counters rise, and the semaphore is signalled. A sleeping destination tile wakes first (R32), and stack controllers that hold its
accesses serve them first (R203). -/
def execCopyCmdComplete (region : Fin 8) (dt : Nat) (s : State) : Answer :=
  let n := region.val
  let r := s.region n
  .next (match r.cpyRun with
    | none => s
    | some (c, need) =>
      if dt < need || !s.unitUp (unitId 2 n) then s
      else if !s.portOpen c.copy.dst.base then s.wakePort c.copy.dst.base
      else if !s.stacksAnswered (unitId 2 n) || !s.stacksOpen (c.copy.src.granules ++ c.copy.dst.granules) then s
      else
        let x := c.copy
        let out := s.copyElems c x.dst.count
        let s1 := out.1
        let q := s1.region n
        let s2 := (s1.setRegion n { q with cpyRun := none, cpyTag := BitVec.ofNat 32 (byteField x.item 0x90 4), cpyDone := satInc q.cpyDone
                                           cpyBytes := satAdd q.cpyBytes (piecesBytes out.2) }).cmdEnd (unitId 2 n)
          (byteField x.item 0x90 4)
        let b := byteField x.item 0x84 1
        let s3 := if b.testBit 3 then s2.arrivePieces (fld (byteField x.item 0x8C 1) 0 6) out.2 else s2
        if b.testBit 2 then s3.sendSignal (.copy c.tile c.origin) (partyId 1 n) 1 (byteField x.item 0x88 2) 1 0 else s3)

/-! ### Atomics (R321 to R325, R332) -/

/-- Record `i` of an item of atomics. -/
def atomRecord (c : RegCmd) (i : Nat) : AtomRec :=
  let it := toBytes 256 c.item.toNat
  let f (o n : Nat) : Nat := byteField it (32 * i + o) n
  { tile := c.tile, addr := f 0 7, op := fld (f 7 1) 0 4, width := fld (f 7 1) 4 2, ret := (f 7 1).testBit 6
    operand := BitVec.ofNat 64 (f 8 8), raddr := f 0x10 7, racid := fld (f 0x17 1) 0 6, effId := c.effId + i }

/-- An atomic of tile `t` to a granule has left the tile and has not reached its memory (R294). -/
def Region.atomAhead (r : Region) (t g : Nat) : Bool :=
  let hits (a : AtomRec) : Bool := decide (a.op ≠ 0) && decide (a.tile = t) && decide (a.addr / 64 = g)
  r.atoms.any hits || r.atomPort.any fun c => (List.range 8).any fun i => hits (atomRecord c i)

/-- A write of a tile to the granule of an atomic that the same tile released before it, and that has not arrived (R294). -/
def State.writeAhead (s : State) (r : AtomRec) : Bool :=
  match decodeAddr r.addr with
  | some (.spad t o) => (s.tile t).inbox.any fun m => decide (m.tile = r.tile) && decide (m.addr / 64 = o / 64) && decide (m.effId < r.effId)
  | _ => false

/-- One record is dispatched towards its point of coherence; an empty one is skipped, an illegal one is refused. -/
def State.dispatchAtom (s : State) (n : Nat) (r : AtomRec) : State :=
  if r.op = 0 then s.landed r.tile r.effId
  else if !atomLegal r.op r.width then
    (s.setRegion n { s.region n with atomRefused := satInc (s.region n).atomRefused }).landed r.tile r.effId
  else
    match decodeAddr r.addr with
    | some (.stack x) =>
      (match s.resolve x with
       | some p => s.sendAccess p (.atomic r) (.effect r.tile r.effId)
       | none => s.landed r.tile r.effId)
    | _ => s.setRegion n { s.region n with atoms := (s.region n).atoms ++ [r] }

/-- The region dispatches the records of the first item at its port in record order (R324). -/
def execAtomBatch (region : Fin 8) (s : State) : Answer :=
  let n := region.val
  .next (match (s.region n).atomPort with
    | [] => s
    | c :: rest =>
      let s1 := s.setRegion n { s.region n with atomPort := rest }
      (List.range 8).foldl (fun acc i => acc.dispatchAtom n (atomRecord c i)) s1)

/-- Performs a record at a scratchpad or a region memory: the value that outside parties see, its new value, and the old
value's return (R323 to R325). -/
def State.performAtom (s : State) (r : AtomRec) : State :=
  let w := atomBytes r.width
  let cells := (List.range w).map fun i => s.outside (r.addr + i)
  let old := ofBytes (cells.map (·.1))
  let new := toBytes w (atomValue r.op r.width old r.operand.toNat)
  (s.performPiece r.addr new 0xFF#8 false).atomReturn r old (cells.any (·.2))

/-- One dispatched record is performed; records to one granule keep their order, and each comes after the tile's earlier writes to its
granule (R294, R324). -/
def execAtomicPerform (region : Fin 8) (idx : Nat) (s : State) : Answer :=
  let r := s.region region.val
  .next (match r.atoms[idx]? with
    | none => s
    | some a =>
      if ((r.atoms.take idx).any fun b => decide (b.addr / 64 = a.addr / 64)) || s.writeAhead a then s
      else if !s.portOpen a.addr then s.wakePort a.addr
      else (s.setRegion region.val { r with atoms := listDrop r.atoms idx }).performAtom a)

end Sys2Proof.Machine
end

