-- ==== Sys2Proof/Machine/SemRows.lean ====
section
/-! DEFINITION. Operations that reach the semaphore unit (R310 to R318). -/

namespace Sys2Proof.Machine

/-- Takes a message that is the first of its party, if it is of the kind asked for. -/
def State.takeSem (s : State) (idx : Nat) (f : State → SemMsg → Option State) : State :=
  match s.netFirst idx with
  | none => s
  | some m => (f { s with sem := { s.sem with net := listDrop s.sem.net idx } } m).getD s

/-- A signal is applied or refused, and its sender's effect is performed; a peer's applied signal is acknowledged (R312, R317, R449). -/
def execSemSignalApply (idx : Nat) (s : State) : Answer :=
  .next (s.takeSem idx fun s m => match m with
    | .signal src party scope sem amount effId =>
      let s1 := s.applySignal src party scope sem amount
      some (match src with
        | .tile t _ => s1.landed t effId
        | .peer node tag =>
          if (s.signalRefusal src sem amount).isNone then s1.sendPacket (s1.reply 3 node tag.toNat 0) else s1
        | _ => s1)
    | _ => none)

/-- A consuming wait reaches the unit (R313). -/
def execSemWaitArrive (idx : Nat) (s : State) : Answer :=
  .next (s.takeSem idx fun s m => match m with
    | .wait t st scope sem n => some (s.applyWait t st scope sem n)
    | _ => none)

/-- An observing wait reaches the unit (R314). -/
def execSemObsArrive (idx : Nat) (s : State) : Answer :=
  .next (s.takeSem idx fun s m => match m with
    | .obs t st scope sem n => some (s.applyObs t st scope sem n)
    | _ => none)

end Sys2Proof.Machine
end

