-- ==== Sys2Proof/Machine/ServPages.lean ====
section
/-! DEFINITION. The ringmaster's page bookkeeping: allocation, page tables, frees, quarantine, copies to host memory, and its
writes to the module's memory (R263 to R266, R279 to R285, R371 to R373). -/

namespace Sys2Proof.Machine

/-! ### Writes of the firmware -/

/-- A write of the Lodge's firmware to the module's memory, performed at its point of coherence. -/
def State.lodgeWrite (s : State) (a : Nat) (bs : List Byte) : State := s.performPieces [(a, bs, 0xFF#8)] fun _ => false

/-- A write into the table area of all eight stacks (R264). -/
def State.tableWrite (s : State) (off : Nat) (bs : List Byte) : State :=
  (List.range 8).foldl (fun acc k => acc.lodgeWrite (fld (acc.stack k).attTbase.toNat 0 52 + off) bs) s

/-- The party that the ringmaster acts as: the steward that owns its duty (R291, R494). -/
def State.ringParty (s : State) : Nat := partyId 6 (fld s.lodge.duty.toNat 0 2)

/-! ### Page identifiers and counts -/

/-- NLAYER, PGSZ and the pool of the job, as every controller holds them (R261, R287). -/
def State.kvCfg (s : State) : AttCfg := (s.stack 0).att

/-- The reference count of a cache page (R266). -/
def State.pageRefs (s : State) (id : Nat) : Nat := mget 0 s.serving.refs id

/-- Whether a page may be allocated: no leaf names it and it is not in quarantine (R280). -/
def State.pageFree (s : State) (id : Nat) : Bool := decide (s.pageRefs id = 0) && !s.serving.quarantine.contains id

/-- The slots of the pool in one pseudo-channel (R263). -/
def State.poolSlots (s : State) : Nat :=
  match s.poolWin 0 with
  | some w => w.npage / max 1 s.kvCfg.pgsz
  | none => 0

/-- A free page of an engine, at its lowest slot. -/
def State.freePageOf (s : State) (e : Nat) : Option Nat :=
  if decide ((s.unit (unitId 1 e)).allowed = 2) && (s.pageOfId 0 e).isSome then
    ((List.range s.poolSlots).map fun n => n * 512 + e).find? fun id => s.pageFree id
  else none

/-- Allocates a page for logical page `j` of a layer: in stack j mod 8, on the lowest engine of those that hold the fewest pages of the
sequence and layer and have a free one, so that no engine holds a second page while another holds none (R263; log entry 81). -/
def State.allocPage (s : State) (held : List (Nat × Nat × Nat)) (layer j : Nat) : Option Nat :=
  let used := (held.filter fun p => decide (p.1 = layer)).map fun p => p.2.2 % 512
  let open_ := (List.range 64).filterMap fun i =>
    let e := j % 8 * 64 + i
    (s.freePageOf e).map fun id => (used.count e, id)
  (open_.foldl (fun (best : Option (Nat × Nat)) x => match best with
    | some b => if x.1 < b.1 then some x else best
    | none => some x) none).map (·.2)

/-- Stages a leaf edit (R279). -/
def State.stageLeaf (s : State) (seq layer j : Nat) (id : Option Nat) : State :=
  { s with serving := { s.serving with staged := s.serving.staged ++ [(seq, layer, j, id)] } }

/-- A leaf entry more names a page. When its count rises above 1, every entry that names it is to be written again with SHARED (R266). -/
def State.takePage (s : State) (id : Nat) : State :=
  let n := s.pageRefs id + 1
  let s1 : State := { s with serving := { s.serving with refs := mput 0 s.serving.refs id n } }
  if n = 2 then
    s1.serving.seqs.foldl (fun acc e =>
      (e.2.pages.filter fun p => decide (p.2.2 = id)).foldl (fun acc p => acc.stageLeaf e.1 p.1 p.2.1 (some id)) acc) s1
  else s1

/-- Allocates pages for the logical pages named; none if the stacks have too few. -/
def State.allocPages (s : State) (held : List (Nat × Nat × Nat)) : List (Nat × Nat) → Option (State × List (Nat × Nat × Nat))
  | [] => some (s, held)
  | (layer, j) :: rest =>
    match s.allocPage held layer j with
    | none => none
    | some id => (s.takePage id).allocPages (held ++ [(layer, j, id)]) rest

/-- The logical pages of every layer that positions below `n` need and that are not held yet. -/
def State.pagesNeeded (s : State) (held : List (Nat × Nat × Nat)) (n : Nat) : List (Nat × Nat) :=
  ((List.range s.kvCfg.nl).flatMap fun l => (List.range (cdiv n 64)).map fun j => (l, j)).filter fun p =>
    !held.any fun q => decide (q.1 = p.1) && decide (q.2.1 = p.2)

/-! ### Page tables (R264, R265) -/

/-- Offset of the level-1 table of a sequence. -/
def l1Offset (seq : Nat) : Nat := (8 + seq) * 65536

/-- The key and the offset of a leaf table: tables are taken from 2^30 on as they are first used. -/
def leafKey (seq layer j : Nat) : Nat := (seq * 256 + layer) * 32 + j / 512
def leafOffset (slot : Nat) : Nat := 2 ^ 30 + slot * 4096

/-- The slot of a leaf table, taken and entered in the level-1 table at its first use. -/
def State.leafSlot (s : State) (seq layer j : Nat) : State × Nat :=
  let key := leafKey seq layer j
  match s.serving.leafs.find? (fun e => e.2 == key) with
  | some e => (s, e.1)
  | none =>
    let n := firstFree s.serving.leafs
    let s1 := { s with serving := { s.serving with leafs := oput s.serving.leafs n key } }
    let s2 := s1.tableWrite (leafOffset n) (List.replicate 4096 0)
    (s2.tableWrite (l1Offset seq + (layer * 32 + j / 512) * 8) (toBytes 8 (1 + leafOffset n)), n)

/-- Writes a leaf entry into all copies of the tables (R265, R266): none makes it not VALID. -/
def State.writeLeaf (s : State) (seq layer j : Nat) (id : Option Nat) : State :=
  let r := s.leafSlot seq layer j
  let v := match id with
    | some p => p + 2 ^ 32 + (if 1 < r.1.pageRefs p then 2 ^ 33 else 0)
    | none => 0
  r.1.tableWrite (leafOffset r.2 + j % 512 * 8) (toBytes 8 v)

/-- Writes the staged edits (R279). -/
def State.applyStaged (s : State) : State :=
  let l := s.serving.staged
  l.foldl (fun acc e => acc.writeLeaf e.1 e.2.1 e.2.2.1 e.2.2.2) { s with serving := { s.serving with staged := [] } }

/-- Gives up the leaf tables of a sequence and clears its level-1 table. -/
def State.dropTables (s : State) (seq : Nat) : State :=
  let mine := s.serving.leafs.filter fun e => decide (e.2 / 8192 = seq)
  if mine.isEmpty then s
  else
    let s1 := mine.foldl (fun acc e =>
      acc.tableWrite (l1Offset seq + e.2 % 8192 * 8) (toBytes 8 0)) s
    { s1 with serving := { s1.serving with leafs := s1.serving.leafs.filter fun e => decide (e.2 / 8192 ≠ seq) } }

/-! ### Frees and quarantine (R266, R279, R280) -/

/-- Records the frees of pages. -/
def State.recordFrees (s : State) (pages : List (Nat × Nat × Nat)) : State :=
  { s with serving := { s.serving with freeing := s.serving.freeing ++ pages.map fun p => p.2.2 } }

/-- Action 5 for frees: counts fall, and pages that nothing names enter quarantine. The answer holds those that enter now. -/
def State.applyFrees (s : State) : State × List Nat :=
  s.serving.freeing.foldl (fun acc id =>
    let n := acc.1.pageRefs id - 1
    let s1 := { acc.1 with serving := { acc.1.serving with refs := mput 0 acc.1.serving.refs id n } }
    (s1, if n = 0 then setIns id acc.2 else acc.2)) ({ s with serving := { s.serving with freeing := [] } }, [])

/-- Clears a run of pages of a pseudo-channel to INVALID, a FILLING one once its fill has ended (R248). -/
def Stack.dropPages (k : Stack) (pc first n : Nat) : Stack :=
  let lo := pc * 524288 + first
  k.clearWhere fun p => decide (lo ≤ p) && decide (p < lo + n)

/-- Action 6: pages leave quarantine, and those that no entry names are cleared (R280). -/
def State.releaseQuarantine (s : State) (pages : List Nat) : State :=
  (pages.filter fun id => decide (s.pageRefs id = 0)).foldl (fun acc id =>
    match acc.pageOfId 0 id with
    | some p => acc.setStack p.1 ((acc.stack p.1).dropPages p.2.1 p.2.2 acc.kvCfg.pgsz)
    | none => acc) { s with serving := { s.serving with quarantine := s.serving.quarantine.filter fun id => !pages.contains id } }

/-! ### Copies -/

/-- Gives logical page `p` of a sequence another page of its stack, repoints the leaf entry and asks for the copy with STK_KVCOPY
(R282, R285): the new list of pages, or none if the stack has no free page. -/
def State.movePage (s : State) (seq : Nat) (held : List (Nat × Nat × Nat)) (p : Nat × Nat × Nat) :
    Option (State × List (Nat × Nat × Nat)) :=
  let stack := p.2.2 % 512 / 64
  (s.allocPage held p.1 stack).map fun id =>
    let s1 := ((s.takePage id).stageLeaf seq p.1 p.2.1 (some id)).recordFrees [p]
    ({ s1 with serving := { s1.serving with kvTodo := s1.serving.kvTodo ++ [(stack, p.2.2, id)] } },
     held.map fun q => if q = p then (p.1, p.2.1, id) else q)

/-- The ringmaster asks each controller that copies nothing for the next page copy that it needs there (R282, R289). -/
def State.askCopies (s : State) : State :=
  (List.range 8).foldl (fun acc n =>
    if (acc.stack n).kvGo then acc
    else match acc.serving.kvTodo.find? fun c => decide (c.1 = n) with
      | some c =>
        ({ acc with serving := { acc.serving with kvTodo := acc.serving.kvTodo.erase c } }).startKvCopy n (BitVec.ofNat 25 c.2.1) (BitVec.ofNat 25 c.2.2)
      | none => acc) s

/-- Whether every page copy that the ringmaster needs has been made (R282). -/
def State.copiesDone (s : State) : Bool := s.serving.kvTodo.isEmpty && (List.range 8).all fun n => !(s.stack n).kvGo

/-- The bytes of a cache page and the codewords in it that carry the poison flag. -/
def State.readCachePage (s : State) (id : Nat) : State × List Byte × List Nat :=
  match s.pageOfId 0 id with
  | none => (s, [], [])
  | some p =>
    let a := (p.2.1 * 524288 + p.2.2) * 2048
    let r := s.stkRead p.1 a (s.kvCfg.pgsz * 2048) 0
    (r.1, r.2.1, r.2.2.map fun w => w - a / 32)

/-- Writes a cache page back; data that arrived poisoned are stored poisoned (R476). -/
def State.writeCachePage (s : State) (id : Nat) (bs : List Byte) (bad : Bool) : State :=
  match s.pageOfId 0 id with
  | none => s
  | some p =>
    let a := (p.2.1 * 524288 + p.2.2) * 2048
    (List.range (bs.length / 32)).foldl (fun acc i =>
      acc.stkWrite p.1 (a + 32 * i) ((bs.drop (32 * i)).take 32) 0xFF#8 bad 0) s

/-- Bytes of a cache page, and the 4 KiB units of host memory that one takes. -/
def State.pageBytes (s : State) : Nat := s.kvCfg.pgsz * 2048
def State.orgUnits (s : State) (n : Nat) : Nat := n * cdiv s.pageBytes 4096

/-- Copies the pages of a sequence to host memory through the physical function, page `i` to the address `place i`: in granules, each with
its poison (R283, R353, R476). The answer names the addresses. -/
def State.savePages (s : State) (pages : List (Nat × Nat × Nat)) (place : Nat → Nat) : State × List (Nat × Nat × Nat) :=
  ((List.range pages.length).zip pages).foldl (fun acc x =>
    let r := acc.1.readCachePage x.2.2.2
    let a := place x.1
    ((List.range (r.2.1.length / 64)).foldl (fun t g =>
      t.hostWrite 0 (a + 64 * g) ((r.2.1.drop (64 * g)).take 64) (r.2.2.contains (2 * g) || r.2.2.contains (2 * g + 1)) none) r.1,
     acc.2 ++ [(x.2.1, x.2.2.1, a)])) (s, [])

/-- Stores the pages that the host has answered, in the order of `saved` (R283). -/
def State.loadPages (s : State) (pages saved : List (Nat × Nat × Nat)) (data : List (List Byte × Bool)) : State :=
  (saved.zip data).foldl (fun acc v =>
    match pages.find? (fun p => decide (p.1 = v.1.1) && decide (p.2.1 = v.1.2.1)) with
    | some p => acc.writeCachePage p.2.2 v.2.1 v.2.2
    | none => acc) s

/-- Places of a cache page in the orangery that hold nothing, lowest first: addresses (R353, R368). -/
def State.orgFree (s : State) : List Nat :=
  let u := s.orgUnits 1
  let base := fld s.serving.orgBase.toNat 12 52
  let used := s.serving.parked.flatMap (fun p => p.saved.map (·.2.2)) ++ s.serving.seqs.flatMap (fun e => e.2.saved.map (·.2.2))
  ((List.range (fld s.serving.orgSize.toNat 12 52 / max 1 u)).map fun i => (base + i * u) * 4096).filter fun a => !used.contains a

/-- Host memory that a pre-empted sequence's pages go to: nothing says where, so each place is a free value (R283; log entry 82). -/
def swapPlace (k i : Nat) : Nat := (Config.free64 (k + i)).toNat / 4096 * 4096

/-! ### Sampling parameters (R371 to R373) -/

/-- The default sampling block (R371). -/
def defaultSamp : List Byte :=
  toBytes 4 0x3F800000 ++ toBytes 4 0 ++ toBytes 4 0x3F800000 ++ toBytes 4 0 ++ toBytes 4 0x3F800000 ++ toBytes 22 0 ++
    toBytes 2 16 ++ toBytes 212 0

/-- The sampling block of a request: that of SAMPADDR, or the defaults. -/
def sampOf (r : ReqRec) (samp : List Byte) : List Byte := if r.sampAddr = 0#64 ∨ samp.length ≠ 256 then defaultSamp else samp

/-- Whether the fields of a sampling block lie in their ranges, and the logit buffer is large enough (R371, R386). -/
def sampOk (vocab : Nat) (hostSamp : Bool) (bs : List Byte) : Bool :=
  let f (o : Nat) : Num := dec32 (BitVec.ofNat 32 (byteField bs o 4))
  let n (i : Nat) : Num := numOfInt (i : Int)
  let le (a b : Num) : Bool := numLt a b || numEq a b
  let temp := f 0
  let nlog := byteField bs 0x2A 2
  (numIsZero temp || (le (n 1) (numMul temp (n 100)) && le temp (n 100))) && decide (byteField bs 4 2 ≤ 1024) &&
  numLt (n 0) (f 8) && le (f 8) (n 1) && le (n 0) (f 0x0C) && numLt (f 0x0C) (n 1) &&
  le (n 1) (f 0x10) && le (f 0x10) (n 16) && le (n 0) (f 0x14) && le (f 0x14) (n 64) && decide (byteField bs 0x28 1 ≤ 24) &&
  decide (nlog ≤ 256) && decide (byteField bs 0x30 8 % 64 = 0) &&
  (!hostSamp || decide (64 + (if nlog = 0 then 4 * vocab else 8 * nlog) ≤ byteField bs 0x38 4))

/-- Bytes of a presence table (R373). -/
def presenceBytes (vocab : Nat) : Nat := cdiv (cdiv vocab 8) 64 * 64

/-- Sets the presence bit of a token of a sequence (R373). -/
def State.markPresent (s : State) (seq tok : Nat) : State :=
  let t := s.tombola 0
  if t.vocab ≤ tok then s
  else
    let a := fld t.penBase.toNat 0 52 + seq * presenceBytes t.vocab + tok / 8
    s.performPieces [(a, [BitVec.ofNat 8 (2 ^ (tok % 8))], BitVec.ofNat 8 (2 ^ (tok % 8)))] fun _ => false

/-- The parameter record and the presence table of an admitted sequence (R372, R373). -/
def State.writeSampling (s : State) (seq : Nat) (q : Request) : State :=
  let bs := sampOf q.r q.samp
  let seed := byteField bs 0x20 8
  let key := (q.fn * 2 ^ 48 ^^^ q.r.rid.toNat * 2 ^ 16 ^^^ q.recordedAt % 2 ^ 16) % 2 ^ 64
  let rec_ := if seed = 0 then bs.take 0x20 ++ toBytes 8 key ++ bs.drop 0x28 else bs
  let t := s.tombola 0
  let s1 := s.lodgeWrite (fld t.parBase.toNat 0 52 + 256 * seq) rec_
  let pw := presenceBytes t.vocab
  let s2 := s1.lodgeWrite (fld t.penBase.toNat 0 52 + seq * pw) (List.replicate pw 0)
  if byteField bs 0x18 1 % 2 = 0 then q.toks.foldl (fun acc tok => acc.markPresent seq tok.toNat) s2 else s2

end Sys2Proof.Machine
end

