-- ==== Sys2Proof/Machine/Serving.lean ====
section
/-! DEFINITION. The ringmaster: request records, the step boundary with its eight actions, output rings, adapters and the orangery
(R36 to R38, R333 to R363, R372, R386 to R388, R399, R402). -/

namespace Sys2Proof.Machine

/-! ### Entries and requests -/

def State.seq (s : State) (i : Nat) : Option SeqEntry := oget s.serving.seqs i
def State.setSeq (s : State) (i : Nat) (e : SeqEntry) : State :=
  { s with serving := { s.serving with seqs := oput s.serving.seqs i e } }
def State.setServing (s : State) (f : Serving → Serving) : State := { s with serving := f s.serving }

/-- The fields of a request record of 128 bytes (R335). -/
def reqRec (bs : List Byte) : ReqRec :=
  let f (o n : Nat) : Nat := byteField bs o n
  let b := f 1 1
  { cls := BitVec.ofNat 2 b, onLate := b.testBit 2, hostSamp := b.testBit 3, notify := b.testBit 4, switchNow := b.testBit 5
    vector := BitVec.ofNat 11 (f 2 2), rid := BitVec.ofNat 32 (f 4 4), tokAddr := BitVec.ofNat 64 (f 8 8), nTok := BitVec.ofNat 21 (f 0x10 4)
    maxNew := BitVec.ofNat 21 (f 0x14 4), adapter := BitVec.ofNat 16 (f 0x18 2), version := BitVec.ofNat 16 (f 0x1A 2)
    ftd := BitVec.ofNat 32 (f 0x1C 4), budget := BitVec.ofNat 32 (f 0x20 4), ttl := BitVec.ofNat 17 (f 0x24 4)
    outAddr := BitVec.ofNat 64 (f 0x28 8), outLog2 := BitVec.ofNat 5 (f 0x30 1), stopN := BitVec.ofNat 4 (f 0x31 1)
    sampAddr := BitVec.ofNat 64 (f 0x38 8), handle := BitVec.ofNat 48 (f 0x40 8)
    stops := (List.range 8).map fun i => BitVec.ofNat 32 (f (0x48 + 4 * i) 4) }

/-- The command that a record of a function's ring spells, with what the host holds at SAMPADDR and TOKADDR; none for a reserved KIND
(R335, R336, R388). -/
def decodeRequest (fn : Nat) (bs samp : List Byte) (toks : List (BitVec 32)) : Option Instr :=
  let r := reqRec bs
  match byteField bs 0 1 with
  | 1 => some (.newReq fn r samp toks)
  | 2 => some (.cancel fn r.rid)
  | 3 => some (.pause fn r.rid r.ttl)
  | 4 => some (.resume fn r samp toks)
  | 5 => some (.adapterLoad fn r)
  | 6 => some (.adapterRetire fn r)
  | 7 => some (.hostChoice fn r.rid (BitVec.ofNat 32 (byteField bs 0x48 4)) (BitVec.ofNat 32 (byteField bs 0x4C 4)))
  | _ => none

/-- A request whose END record action 2 has written, and whose entry action 3 has still to release (R336, R346, R353). -/
def Request.over (q : Request) : Bool := q.endStatus.isSome && q.pendOut.isEmpty && q.cancelled.isNone && !q.disabled

/-- Whether a request of a name is live (R336). -/
def Request.named (q : Request) (fn : Nat) (rid : BitVec 32) : Bool := decide (q.fn = fn) && decide (q.r.rid = rid)

/-- Whether a function has a live request with an identifier: one whose END record has not been published (R336). -/
def State.ridLive (s : State) (fn : Nat) (rid : BitVec 32) : Bool :=
  s.serving.queue.any (·.named fn rid) || s.serving.tails.any (·.named fn rid) ||
    s.serving.seqs.any fun e => e.2.req.named fn rid && !e.2.req.over

/-- Changes a live request, queued or admitted; one whose END record waits for room stays as it is; none if there is none of that name. -/
def State.onRequest (s : State) (fn : Nat) (rid : BitVec 32) (f : Request → Request) : Option State :=
  match s.serving.seqs.find? (fun e => e.2.req.named fn rid && !e.2.req.over) with
  | some e => some (s.setSeq e.1 { e.2 with req := f e.2.req })
  | none =>
    if s.serving.queue.any (·.named fn rid) then
      some (s.setServing fun v => { v with queue := v.queue.map fun q => if q.named fn rid then f q else q })
    else if s.serving.tails.any (·.named fn rid) then some s
    else none

/-- The ringmaster reads the next record of a function's ring (R333, R361): none if it reads nothing there, or its duty waits for a takeover
(R499). A recorded event is a boundary of the duty (R495). -/
def State.takeRecord (s : State) (fn : Nat) : Option State :=
  let x := s.fn fn
  if s.servingRuns && s.dutyUp 0 && x.enabled && x.rqEn && !x.disabledPending && decide (x.rqHead ≠ x.rqTail) then
    some ((s.setFn fn { x with rqHead := x.rqHead + 1 }).dutyBoundary 0)
  else none

/-- A CANCEL or PAUSE that names no live request is counted (R336, R354). -/
def State.unknownRecord (s : State) (fn : Nat) : State :=
  let x := s.fn fn
  s.setFn fn { x with rejUnknown := satInc x.rejUnknown }

/-- Whether the fields of a NEW or RESUME are in range (R335, R350, R480). -/
def State.requestOk (s : State) (fn : Nat) (r : ReqRec) (samp : List Byte) (isResume : Bool) : Bool :=
  decide (1 ≤ r.maxNew.toNat) && decide (r.maxNew.toNat ≤ 1048576) && decide (r.nTok.toNat ≤ 1048543) &&
  (isResume || decide (1 ≤ r.nTok.toNat)) && decide (4 ≤ r.outLog2.toNat) && decide (r.outLog2.toNat ≤ 16) &&
  decide (r.stopN.toNat ≤ 8) && decide (r.outAddr.toNat % 64 = 0) && (!r.notify || decide (r.vector.toNat < vectorCount fn)) &&
  sampOk (s.tombola 0).vocab r.hostSamp (sampOf r samp) && !s.ridLive fn r.rid

/-- A request as it is queued; its first deadline counts from its recording (R348). -/
def State.newRequest (s : State) (fn : Nat) (r : ReqRec) (samp : List Byte) (toks : List (BitVec 32)) (resumeOf : Option Nat) : Request :=
  { fn := fn, r := r, resumeOf := resumeOf, recordedAt := s.time.toNat, samp := samp, toks := toks, emitted := 0
    deadline := if r.ftd = 0#32 then none else some (s.time.toNat + 100 * r.ftd.toNat)
    lateNext := false, cancelled := none, disabled := false, pauseAt := none, endStatus := none, prod := 0, cons := 0
    heldOut := [], pendOut := [] }

/-- Queues a request, or answers it INVALID. -/
def State.queueRequest (s : State) (fn : Nat) (r : ReqRec) (samp : List Byte) (toks : List (BitVec 32)) (resumeOf : Option Nat) : State :=
  if s.requestOk fn r samp resumeOf.isSome then
    s.setServing fun v => { v with queue := v.queue ++ [s.newRequest fn r samp toks resumeOf] }
  else s.setServing fun v => { v with answers := v.answers ++ [(fn, r, 11)] }

/-- NEW: queues a request for admission (R336). -/
def execNewReq (fn : Nat) (r : ReqRec) (samp : List Byte) (toks : List (BitVec 32)) (s : State) : Answer :=
  .next (match s.takeRecord fn with
    | some s1 => s1.queueRequest fn r samp toks none
    | none => s)

/-- CANCEL: recorded for a live request (R347). -/
def execCancel (fn : Nat) (rid : BitVec 32) (s : State) : Answer :=
  .next (match s.takeRecord fn with
    | some s1 => (s1.onRequest fn rid fun q => { q with cancelled := some s1.time.toNat }).getD (s1.unknownRecord fn)
    | none => s)

/-- PAUSE: asks to park a live request; a second one, and one whose time-to-live is out of range, are ignored and counted
(R336, R353, R354). -/
def execPause (fn : Nat) (rid : BitVec 32) (ttl : BitVec 17) (s : State) : Answer :=
  .next (match s.takeRecord fn with
    | none => s
    | some s1 =>
      let parking := s1.serving.seqs.any fun e => decide (e.2.req.fn = fn) && decide (e.2.req.r.rid = rid) && decide (e.2.state = .parking)
      if parking || ttl.toNat = 0 || decide (86400 < ttl.toNat) then s1.unknownRecord fn
      else (s1.onRequest fn rid fun q => { q with pauseAt := some (s1.time.toNat, ttl.toNat) }).getD (s1.unknownRecord fn))

/-- RESUME: queues the resumption of a parked conversation, or answers NEEDS_PREFILL or UNKNOWN (R354). -/
def execResume (fn : Nat) (r : ReqRec) (samp : List Byte) (toks : List (BitVec 32)) (s : State) : Answer :=
  .next (match s.takeRecord fn with
    | none => s
    | some s1 =>
      let h := r.handle.toNat
      let answer (st : Nat) : State := s1.setServing fun v => { v with answers := v.answers ++ [(fn, r, st)] }
      match s1.serving.parked.find? (fun p => decide (p.handle = h) && decide (p.fn = fn)) with
      | some p =>
        if p.taken then answer 8
        else if p.expires ≤ s1.time.toNat then answer 7
        else
          let s2 := s1.queueRequest fn r samp toks (some h)
          if s2.serving.queue.length = s1.serving.queue.length then s2
          else s2.setServing fun v => { v with parked := v.parked.map fun q => if q.handle = h then { q with taken := true } else q }
      | none => answer (if s1.serving.expired.contains (h, fn) then 7 else 8))

/-- HOST_CHOICE: the host's token, taken only if it answers the last block (R388). -/
def execHostChoice (fn : Nat) (rid : BitVec 32) (choice lstep : BitVec 32) (s : State) : Answer :=
  .next (match s.takeRecord fn with
    | none => s
    | some s1 =>
      match s1.serving.seqs.find? (fun e => decide (e.2.req.fn = fn) && decide (e.2.req.r.rid = rid)) with
      | some e =>
        if e.2.waiting && decide (e.2.lstep = lstep.toNat) && decide (choice.toNat < (s1.tombola 0).vocab) then
          s1.setSeq e.1 { e.2 with choice := some choice, waiting := false }
        else s1
      | none => s1)

/-! ### Adapters (R355 to R359) -/

def State.adSlot (s : State) (i : Nat) : AdSlot := mget AdSlot.zero s.serving.slots i
def State.setAdSlot (s : State) (i : Nat) (x : AdSlot) : State :=
  s.setServing fun v => { v with slots := mput AdSlot.zero v.slots i x }

/-- Adapter slots that count against a tenant's quota (R412). -/
def State.slotsOf (s : State) (fn : Nat) : Nat := (s.serving.slots.filter fun e => decide (e.2.tenant = fn) && decide (e.2.state ≠ 0)).length

/-- The READY slot of a triple; version 0 names the newest (R335, R355). -/
def State.readySlot (s : State) (fn adapter version : Nat) : Option Nat :=
  let l := s.serving.slots.filter fun e => decide (e.2.tenant = fn) && decide (e.2.adapter = adapter) && decide (e.2.state = 2) &&
    (decide (version = 0) || decide (e.2.version = version))
  l.foldl (fun acc e => match acc with
    | none => some e.1
    | some i => if (s.adSlot i).version < e.2.version then some e.1 else some i) none

/-- ADAPTER_LOAD: takes a free slot within the quota and marks it LOADING (R356). -/
def execAdapterLoad (fn : Nat) (r : ReqRec) (s : State) : Answer :=
  .next (match s.takeRecord fn with
    | none => s
    | some s1 =>
      let answer (st : Nat) : State := s1.setServing fun v => { v with answers := v.answers ++ [(fn, r, st)] }
      let same := s1.serving.slots.any fun e => decide (e.2.tenant = fn) && decide (e.2.state ≠ 0) &&
        decide (e.2.adapter = r.adapter.toNat) && decide (e.2.version = r.version.toNat)
      let free := (List.range 1024).find? fun i => decide ((s1.adSlot i).state = 0)
      if same || decide (r.adapter.toNat = 0) || decide (r.version.toNat = 0) then answer 11
      else if fld (s1.fn fn).quotaA.toNat 16 11 ≤ s1.slotsOf fn then answer 9
      else match free with
        | none => answer 9
        | some i =>
          let x := { AdSlot.zero with tenant := fn, adapter := r.adapter.toNat, version := r.version.toNat, state := 1 }
          s1.setAdSlot i { x with switchNow := r.switchNow, loader := some (r, fn) })

/-- ADAPTER_RETIRE: no new request binds to the version from the next action 4 on (R359). -/
def execAdapterRetire (fn : Nat) (r : ReqRec) (s : State) : Answer :=
  .next (match s.takeRecord fn with
    | none => s
    | some s1 => match s1.readySlot fn r.adapter.toNat (max 1 r.version.toNat) with
      | some i =>
        (s1.setAdSlot i { s1.adSlot i with retireAt := some s1.time.toNat }).setServing fun v => { v with retires := v.retires ++ [(fn, r)] }
      | none => s1.setServing fun v => { v with answers := v.answers ++ [(fn, r, 10)] })

/-- Bytes of one matrix of an adapter image: values, then scales for the scaled formats, up to a 64-byte boundary (R357). -/
def adapterMatrix (fmt rows inner : Nat) : Nat :=
  cdiv (rows * inner * fmtBits fmt / 8 + (if fmtScale fmt = .none then 0 else rows * cdiv inner 32 * 2)) 64 * 64

/-- A field of an adapter image's header: `n` bytes at byte `o` (R357). -/
def adField (m : AdapterImage) (o n : Nat) : Nat := byteField m.header o n

/-- RANK of an adapter image, and the widths DIN and DOUT of its targets (R357). -/
def adRank (m : AdapterImage) : Nat := adField m 0x08 2 % 2 ^ 9
def adWidths (m : AdapterImage) : List (Nat × Nat) :=
  (List.range (adField m 0x0B 1 % 16)).map fun t => (adField m (0x20 + 4 * t) 2, adField m (0x22 + 4 * t) 2)

/-- The payload size that the layout of R357 gives. -/
def adapterSize (m : AdapterImage) : Nat :=
  adField m 0x0C 2 % 2 ^ 9 * ((adWidths m).foldl (fun n w =>
    n + adapterMatrix (adField m 0x0A 1) (adRank m) w.1 + adapterMatrix (adField m 0x0A 1) w.2 (adRank m)) 0)

/-- The checks of an adapter image (R357), its CRC-32C taken with the field CRC zero. -/
def State.adapterOk (s : State) (x : AdSlot) (m : AdapterImage) (payload : List Byte) : Bool :=
  let dim (w : Nat) : Bool := decide (32 ≤ w) && decide (w % 32 = 0)
  let limit := match x.loader with | some l => l.1.nTok.toNat * 64 | none => 0
  let nTgt := adField m 0x0B 1 % 16
  let nLayer := adField m 0x0C 2 % 2 ^ 9
  let crc := crc32c (m.header.take 0x1C ++ List.replicate 4 0 ++ m.header.drop 0x20 ++ payload)
  m.readOk && decide (m.header.length = 64) && decide (adField m 0 4 = 0x41445052) && decide (adField m 4 2 = x.adapter) &&
  decide (adField m 6 2 = x.version) && decide (1 ≤ (adRank m)) && decide ((adRank m) ≤ 256) &&
  [0x02, 0x03, 0x18, 0x1A].contains (adField m 0x0A 1) && decide (1 ≤ nTgt) && decide (nTgt ≤ 8) &&
  decide (1 ≤ nLayer) && decide (nLayer ≤ s.kvCfg.nl) &&
  decide (some (adField m 0x10 8) = s.job.image.map (·.modelId.toNat)) && decide (adField m 0x18 4 = adapterSize m) && decide (payload.length = adField m 0x18 4) &&
  decide (64 + adField m 0x18 4 ≤ limit) && decide (64 + adField m 0x18 4 ≤ s.imageField 0x09 0x14 4) &&
  (adWidths m).all (fun w => dim w.1 && dim w.2) && decide (adField m 0x1C 4 = crc.toNat)

/-- The copy of an adapter image and its checks are done: the slot becomes READY, or FREE with INVALID answered (R356, R357). -/
def execAdapterReady (slot : Nat) (img : AdapterImage) (payload : List Byte) (s : State) : Answer :=
  let x := s.adSlot slot
  .next (if x.state ≠ 1 then s
    else if s.adapterOk x img payload then
      let base := s.imageField 0x09 0x18 7 % 2 ^ 52 + slot * s.imageField 0x09 0x14 4
      (s.lodgeWrite base payload).setAdSlot slot { x with state := 2, rank := adRank img, readyAt := some s.time.toNat, answer := some 12 }
    else
      let s1 := s.setAdSlot slot AdSlot.zero
      match x.loader with
      | some l =>
        let s2 := if img.readOk then s1 else s1.readRefused l.2
        s2.setServing fun v => { v with answers := v.answers ++ [(l.2, l.1, 11)] }
      | none => s1)

/-! ### Output (R337 to R340) -/

/-- An output record (R338). -/
def outRecord (tok : BitVec 32) (seqno : Nat) (rid : BitVec 32) (late last : Bool) (status : Nat) : BitVec 128 :=
  BitVec.ofNat 128 (tok.toNat + seqno % 2 ^ 32 * 2 ^ 32 + rid.toNat * 2 ^ 64 + (if late then 2 ^ 96 else 0) +
    (if last then 2 ^ 97 else 0) + status * 2 ^ 104)

/-- What CONS of a request's ring reads as, if the host's answer is among those given (R340). -/
def consOf (cons : List (Nat × BitVec 32 × BitVec 32)) (q : Request) : BitVec 32 :=
  match cons.find? (fun c => decide (c.1 = q.fn) && decide (c.2.1 = q.r.rid)) with
  | some c => c.2.2
  | none => q.cons

/-- Publishes the records of a request that find room; the rest are held (R340). -/
def State.publish (s : State) (q : Request) (new : List (BitVec 128)) (cons : List (Nat × BitVec 32 × BitVec 32)) : State × Request :=
  let rs := q.heldOut ++ new
  let n := 2 ^ q.r.outLog2.toNat
  let room (c : BitVec 32) : Nat := n - (q.prod - c).toNat
  let c := if room q.cons < rs.length then consOf cons q else q.cons
  let go := rs.take (room c)
  let a := q.r.outAddr.toNat
  let s1 := (List.range go.length).foldl (fun acc i =>
    acc.hostWrite q.fn (a + 64 + 16 * ((q.prod.toNat + i) % n)) (toBytes 16 (go.getD i 0).toNat) false none) s
  let prod := q.prod + BitVec.ofNat 32 go.length
  let q1 := { q with prod := prod, cons := c, heldOut := rs.drop (room c), pendOut := [] }
  if go.isEmpty then (s1, q1)
  else
    let s2 := s1.hostWrite q.fn a (toBytes 4 prod.toNat) false none
    (if q.r.notify then s2.msix q.fn q.r.vector.toNat else s2, q1)

/-- Publishes the END record of a request; records that find no room stay in `tails`. -/
def State.finish (s : State) (q : Request) (tok : BitVec 32) (seqno status : Nat) (cons : List (Nat × BitVec 32 × BitVec 32)) : State :=
  let r := s.publish q [outRecord tok seqno q.r.rid false true status] cons
  if r.2.heldOut.isEmpty then r.1 else r.1.setServing fun v => { v with tails := v.tails ++ [r.2] }

/-- Answers a record that never became a live request with one END record on its own ring. -/
def State.answerRecord (s : State) (a : Nat × ReqRec × Nat) : State :=
  (s.publish (s.newRequest a.1 a.2.1 [] [] none) [outRecord 0 0 a.2.1.rid false true a.2.2] []).1

/-! ### The plan and the report (R341 to R343) -/

def State.stepArea (s : State) : Nat := fld s.serving.stepArea.toNat 0 56
def State.chunk (s : State) : Nat := s.imageField 0x09 0x10 4 % 2 ^ 17
def State.nver (s : State) : Nat := s.imageField 0x09 0x20 1 % 2 ^ 6

/-- Bytes of the module's memory as the firmware reads them. -/
def State.bytesAt (s : State) (a n : Nat) : List Byte := (List.range n).map fun i => (s.outside (a + i)).1

/-- The report entry of a sequence. -/
def State.reportOf (s : State) (seq : Nat) : Option (List Byte) :=
  let a := s.stepArea + 0x100000
  let n := min 8192 (ofBytes (s.bytesAt (a + 8) 4))
  ((List.range n).map fun i => s.bytesAt (a + 64 + 64 * i) 64).find? fun bs => decide (byteField bs 0 2 % 2 ^ 13 = seq)

/-- The emitted tokens of a report entry that count, and the end they cause (R346): `len` is the length before the first. -/
def examine (r : ReqRec) (emitted len : Nat) : List (BitVec 32) → List (BitVec 32) × Option Nat
  | [] => ([], none)
  | t :: ts =>
    if (r.stops.take r.stopN.toNat).contains t then ([t], some 1)
    else if emitted + 1 = r.maxNew.toNat then ([t], some 2)
    else if 1048576 < len + 1 + 32 then ([t], some 3)
    else
      let rest := examine r (emitted + 1) (len + 1) ts
      (t :: rest.1, rest.2)

/-- Action 1 for one sequence of the step: its deadlines are judged, and count on, from the step's end (R38, R344, R346, R348). -/
def State.commitSeq (s : State) (i : Nat) (e : SeqEntry) : State :=
  let q := e.req
  let ended := s.serving.stepEnd
  let missed := match q.deadline with | some d => decide (d < ended) | none => false
  match s.reportOf i with
  | none => s.setSeq i { e with inPlan := false, req := { q with lateNext := missed } }
  | some bs =>
    let reruns := byteField bs 4 1
    let withdrawn := byteField bs 3 1 % 2 = 1
    let s1 := s.setServing fun v => { v with reruns := satAdd v.reruns reruns
                                             withdrawn := if withdrawn then satInc v.withdrawn else v.withdrawn }
    if withdrawn then s1.setSeq i { e with inPlan := false, req := { q with lateNext := missed } }
    else
      let pre := decide (e.state = .prefill)
      let base := if pre then e.cstart + e.clen - 1 else e.len
      let toks := (List.range (min 8 (byteField bs 2 1))).map fun k => BitVec.ofNat 32 (byteField bs (8 + 4 * k) 4)
      let x := examine q.r q.emitted base toks
      let n := x.1.length
      let len := if pre then e.cstart + e.clen else e.len + n
      let out := (List.range n).map fun k => (x.1.getD k 0, q.emitted + k, missed)
      let deadline := if n = 0 then q.deadline
        else if q.r.budget = 0#32 then none else some (ended + 100 * q.r.budget.toNat)
      let q1 := { q with emitted := q.emitted + n, pendOut := q.pendOut ++ out, endStatus := x.2, deadline := deadline, lateNext := missed }
      let pos := if pre then e.cstart + e.clen else e.prefillPos
      let st := if pre && decide (pos < e.promptLen) then .prefill else .decode
      let s2 := s1.setSeq i { e with len := len, prefillPos := pos, state := st, inPlan := false, req := q1 }
      x.1.foldl (fun acc t => acc.markPresent i t.toNat) s2

/-- Notes which deadlines of requests that took no part in the step have passed (R349). -/
def State.noteDeadlines (s : State) (inStep : List Nat) : State :=
  let f (q : Request) : Request :=
    { q with lateNext := match q.deadline with | some d => decide (d < s.time.toNat) | none => false }
  s.setServing fun v => { v with queue := v.queue.map f
                                 seqs := v.seqs.map fun e => if inStep.contains e.1 then e else (e.1, { e.2 with req := f e.2.req }) }

/-- The sequences of the step that has ended. -/
def State.stepSeqs (s : State) : List Nat :=
  if s.serving.stepOpen && s.serving.stepDone then (s.serving.seqs.filter fun e => e.2.inPlan).map (·.1) else []

/-- Action 1: what the step's report holds is committed (R344). -/
def State.action1 (s : State) : State :=
  (s.stepSeqs.foldl (fun acc i => match s.seq i with
    | some e => acc.commitSeq i e
    | none => acc) s).setServing fun v => { v with stepOpen := v.stepOpen && !v.stepDone }

/-! ### Actions 2 to 6 -/

/-- The exported logits of a host-sampled sequence are written through its function, then LSTEP (R386, R387). -/
def State.publishBlock (s : State) (i : Nat) (e : SeqEntry) : State :=
  match e.block with
  | none => s
  | some a =>
    let bs := sampOf e.req.r e.req.samp
    let nlog := byteField bs 0x2A 2
    let vocab := (s.tombola 0).vocab
    let n := if nlog = 0 then vocab else nlog
    let h := byteField bs 0x30 8
    let lstep := e.lstep + 1
    let s1 := s.hostWrite e.req.fn (h + 4) (toBytes 4 e.req.r.rid.toNat ++ toBytes 4 e.len ++ toBytes 4 n) false none
    let s2 := s1.hostWrite e.req.fn (h + 64) (s1.bytesAt a (if nlog = 0 then 4 * n else 8 * n)) false none
    let s3 := s2.hostWrite e.req.fn h (toBytes 4 lstep) false none
    let s4 := if e.req.r.notify then s3.msix e.req.fn e.req.r.vector.toNat else s3
    s4.setSeq i { e with block := none, lstep := lstep % 2 ^ 32, waiting := true, choice := none }

/-- Action 2 for one sequence: its tokens, its logits, and the PAUSED record of a completed parking (R340, R344, R353). -/
def State.publishSeq (s : State) (cons : List (Nat × BitVec 32 × BitVec 32)) (i : Nat) (e : SeqEntry) : State :=
  let q := e.req
  if q.cancelled.isSome || q.disabled then s.setSeq i { e with req := { q with pendOut := [] }, block := none }
  else
    let n := q.pendOut.length
    let rs := (List.range n).map fun k =>
      let p := q.pendOut.getD k (0, 0, false)
      let last := q.endStatus.isSome && decide (k + 1 = n)
      outRecord p.1 p.2.1 q.r.rid p.2.2 last (if last then q.endStatus.getD 0 else 0)
    let r := s.publish q rs cons
    let e1 := { e with req := r.2 }
    if q.endStatus.isSome then
      (if r.2.heldOut.isEmpty then r.1 else r.1.setServing fun v => { v with tails := v.tails ++ [r.2] }).setSeq i e1
    else if e.parkDone then
      let h := r.1.serving.nextHandle
      let ttl := match q.pauseAt with | some p => p.2 | none => 0
      let p : Parked := { handle := h, fn := q.fn, len := e.len, saved := e.saved, taken := false
                          expires := s.time.toNat + ttl * 100000000 }
      ((r.1.finish r.2 (BitVec.ofNat 32 h) (h / 2 ^ 32) 6 cons).setServing fun v =>
        { v with nextHandle := (h + 1) % 2 ^ 48, parked := v.parked ++ [p] }).setSeq i
          { e1 with req := { r.2 with endStatus := some 6 } }
    else (r.1.setSeq i e1).publishBlock i e1

/-- Action 2 (R344): records of sequences, of ended requests that had no room, and of adapters. -/
def State.action2 (s : State) (cons : List (Nat × BitVec 32 × BitVec 32)) : State :=
  let s0 := s.serving.tails.foldl (fun acc q =>
    let r := acc.publish q [] cons
    if r.2.heldOut.isEmpty then r.1 else r.1.setServing fun v => { v with tails := v.tails ++ [r.2] }) (s.setServing fun v => { v with tails := [] })
  let s1 := s0.serving.seqs.foldl (fun acc e => acc.publishSeq cons e.1 e.2) s0
  let s2 := s1.serving.slots.foldl (fun acc e =>
    match e.2.answer, e.2.loader with
    | some st, some l => (acc.answerRecord (l.2, l.1, st)).setAdSlot e.1 { e.2 with answer := none, loader := none }
    | _, _ => acc) s1
  -- retirements that an earlier action 4 has made are answered DONE
  let done := s2.serving.retires.filter fun x => (s2.readySlot x.1 x.2.adapter.toNat (max 1 x.2.version.toNat)).isNone
  done.foldl (fun acc x => acc.answerRecord (x.1, x.2, 12))
    (s2.setServing fun v => { v with retires := v.retires.filter fun x => !done.contains x })

/-- Releases an entry: its adapter reference, its pages and its leaf entries (R344). -/
def State.releaseSeq (s : State) (i : Nat) (e : SeqEntry) : State :=
  let s1 := match e.slot with
    | some k => s.setAdSlot k { s.adSlot k with refcnt := (s.adSlot k).refcnt - 1 }
    | none => s
  let s2 := e.pages.foldl (fun acc p => acc.stageLeaf i p.1 p.2.1 none) s1
  (s2.recordFrees e.pages).setServing fun v => { v with seqs := odel v.seqs i }

/-- How a request ends at action 3: none if it goes on, else the status of its END record, 0 for no record (R344, R347, R349,
R360, R402). -/
def State.endOf (s : State) (q : Request) : Option Nat :=
  if q.disabled then some 0
  else if q.cancelled.isSome then some 4
  else if q.endStatus.isSome then some 0
  else if q.r.onLate && q.lateNext then some 5
  else if s.serving.endPend then some 4
  else none

/-- A queued request that breaks a quota or names a version that is not READY (R350, R412). -/
def State.refuseQueued (s : State) (q : Request) : Option Nat :=
  let held := (s.serving.seqs.filter fun e => decide (e.2.req.fn = q.fn)).length
  if fld (s.fn q.fn).quotaA.toNat 0 14 ≤ held then some 9
  else if q.r.adapter ≠ 0#16 ∧ (s.readySlot q.fn q.r.adapter.toNat q.r.version.toNat).isNone then some 10
  else none

/-- A conversation whose RESUME has ended before its admission stays parked. -/
def State.untake (s : State) (h : Option Nat) : State :=
  match h with
  | some h => s.setServing fun v => { v with parked := v.parked.map fun p => if p.handle = h then { p with taken := false } else p }
  | none => s

/-- Ends the queued requests that are due to end. -/
def State.endQueued (s : State) (cons : List (Nat × BitVec 32 × BitVec 32)) : State :=
  s.serving.queue.foldl (fun acc q =>
    let st := match acc.endOf q with
      | some n => some n
      | none => acc.refuseQueued q
    match st with
    | none => acc.setServing fun v => { v with queue := v.queue ++ [q] }
    | some 0 => acc.untake q.resumeOf
    | some n => (acc.finish q 0 0 n cons).untake q.resumeOf) (s.setServing fun v => { v with queue := [] })

/-- Action 3 (R344): ends by cancellation, disable, deadline and R346; answers; what disabled functions held. -/
def State.action3 (s : State) (cons : List (Nat × BitVec 32 × BitVec 32)) : State :=
  let s1 := s.serving.seqs.foldl (fun acc e =>
    match acc.endOf e.2.req with
    | none => acc
    | some 0 => acc.releaseSeq e.1 e.2
    | some n => (acc.finish e.2.req 0 0 n cons).releaseSeq e.1 e.2) s
  let s2 := s1.serving.answers.foldl (fun acc a => acc.answerRecord a) (s1.setServing fun v => { v with answers := [] })
  let s3 := s2.endQueued cons
  let dead := (s3.fns.filter fun f => f.2.disabledPending).map (·.1)
  let s4 := s3.setServing fun v => { v with
    parked := v.parked.filter fun p => !dead.contains p.fn && (p.taken || decide (s3.time.toNat < p.expires))
    expired := v.expired ++ ((v.parked.filter fun p => !p.taken && decide (p.expires ≤ s3.time.toNat)).map fun p => (p.handle, p.fn))
    tails := v.tails.filter fun q => !dead.contains q.fn }
  let s5 := s4.serving.slots.foldl (fun acc e =>
    if dead.contains e.2.tenant && decide (e.2.refcnt = 0) then acc.setAdSlot e.1 AdSlot.zero else acc) s4
  dead.foldl (fun acc f => acc.setFn f { acc.fn f with disabledPending := false }) s5

/-- Rebinds the entries that are bound to an older version of an adapter (R358). -/
def State.switchTo (s : State) (k : Nat) : State :=
  let x := s.adSlot k
  s.serving.seqs.foldl (fun acc e =>
    match e.2.slot with
    | some j =>
      let y := acc.adSlot j
      if j ≠ k ∧ y.tenant = x.tenant ∧ y.adapter = x.adapter ∧ y.version < x.version then
        ((acc.setAdSlot j { y with refcnt := y.refcnt - 1 }).setAdSlot k { acc.adSlot k with refcnt := (acc.adSlot k).refcnt + 1 }).setSeq e.1
          { e.2 with slot := some k }
      else acc
    | none => acc) s

/-- Action 4: switches, retirements, and slots that nothing uses, which are still answered for (R356, R358, R359). -/
def State.action4 (s : State) : State :=
  let s1 := s.serving.slots.foldl (fun acc e =>
    if e.2.state = 2 ∧ e.2.switchNow ∧ e.2.readyAt.isSome then
      let a := acc.switchTo e.1
      a.setAdSlot e.1 { a.adSlot e.1 with readyAt := none }
    else acc) s
  let s2 := s1.serving.slots.foldl (fun acc e =>
    if e.2.retireAt.isSome ∧ e.2.state = 2 then acc.setAdSlot e.1 { acc.adSlot e.1 with state := 3, retireAt := none } else acc) s1
  s2.serving.slots.foldl (fun acc e =>
    let x := acc.adSlot e.1
    let newest := acc.readySlot x.tenant x.adapter 0 == some e.1
    if x.refcnt = 0 ∧ (x.state = 3 ∨ (x.state = 2 ∧ !newest)) then
      (match x.answer, x.loader with
       | some st, some l => acc.setServing fun v => { v with answers := v.answers ++ [(l.2, l.1, st)] }
       | _, _ => acc).setAdSlot e.1 AdSlot.zero
    else acc) s2

/-- The pages of a sequence that its next step writes: those of positions L to L + NN − 1, or of its next chunk. -/
def State.writeSpan (s : State) (e : SeqEntry) : Nat × Nat :=
  if e.state = .prefill then (e.prefillPos, min s.chunk (e.promptLen - e.prefillPos))
  else (e.len, if e.req.r.hostSamp then 1 else s.nver)

/-- A page of sequence `i` is given another place; where its stack has none, the sequence is marked (R282). -/
def State.moveOf (s : State) (i : Nat) (p : Nat × Nat × Nat) (mark : Bool) : State :=
  match s.seq i with
  | none => s
  | some e => match s.movePage i e.pages p with
    | some r => r.1.setSeq i { e with pages := r.2 }
    | none => if mark then s.setSeq i { e with noPage := true } else s

/-- Pages shared with another entry that the next step will write for a sequence are copied; a sequence whose stack is full sits out
(R282). -/
def State.unshare (s : State) (i : Nat) : State :=
  match s.seq i with
  | none => s
  | some e =>
    let sp := s.writeSpan e
    (e.pages.filter fun p => decide (1 < s.pageRefs p.2.2) && decide (sp.1 / 64 ≤ p.2.1) && decide (p.2.1 ≤ (sp.1 + sp.2 - 1) / 64)).foldl
      (fun acc p => acc.moveOf i p true) s

/-- One page of each RETIRED engine is moved (R285). -/
def State.leaveRetired (s : State) : State :=
  let all := s.serving.seqs.flatMap fun e => e.2.pages.map fun p => (e.1, p)
  let engines := ((all.map fun x => x.2.2.2 % 512).eraseDups).filter fun e => decide ((s.unit (unitId 1 e)).allowed = 5)
  engines.foldl (fun acc e => match all.find? fun x => decide (x.2.2.2 % 512 = e) with
    | some x => acc.moveOf x.1 x.2 false
    | none => acc) s

/-- The page copies that action 5 needs (R282, R285). -/
def State.planCopies (s : State) : State :=
  ((s.serving.seqs.map (·.1)).foldl (fun acc i => acc.unshare i) s).leaveRetired

/-- Action 5 once its copies are made: page edits and frees (R279, R280). The answer holds the pages that enter quarantine now. -/
def State.action5 (s : State) : State × List Nat :=
  let s2 := s.applyStaged
  let gone := ((s2.serving.leafs.map fun e => e.2 / 8192).eraseDups).filter fun i => (s2.seq i).isNone
  let s3 := gone.foldl (fun acc i => acc.dropTables i) s2
  s3.applyFrees

/-! ### Action 7 (R350 to R354) -/

/-- The class of a sequence for planning: one that has sat out 64 steps counts as class 0 (R351). -/
def planClass (e : SeqEntry) : Nat := if 64 ≤ e.satOut then 0 else e.req.r.cls.toNat

/-- Whether a sequence can take part in the next step at all. -/
def canRun (e : SeqEntry) : Bool :=
  !e.noPage && (decide (e.state = .prefill) || decide (e.state = .decode)) && decide (e.req.heldOut.length < 64) &&
    (!e.req.r.hostSamp || decide (e.state = .prefill) || e.choice.isSome)

/-- A coefficient of the cost table (R399). -/
def State.cost (s : State) (off : Nat) : Lane := BitVec.ofNat 32 (s.imageField 0x09 off 4)

/-- The predicted duration of a step in nanoseconds (R399). -/
def State.predict (s : State) (plan : List SeqEntry) : Lane :=
  let n (k : Nat) : Lane := enc32 (numOfInt (k : Int))
  let dec := plan.filter fun e => decide (e.state ≠ .prefill)
  let pre := plan.filter fun e => decide (e.state = .prefill)
  let rows := dec.foldl (fun r e => r + (if e.req.r.hostSamp then 1 else s.nver)) 0
  let p0 := f32Add (s.cost 0x40) (f32Mul (s.cost 0x44) (n plan.length))
  let p1 := f32Add p0 (f32Mul (if rows ≤ 16 then s.cost 0x48 else s.cost 0x4C) (n rows))
  let p2 := dec.foldl (fun p e =>
    let x := f32Add p (f32Div (f32Mul (s.cost 0x50) (n e.len)) (n 1024))
    if e.req.r.hostSamp then f32Add x (s.cost 0x5C) else x) p1
  let p3 := pre.foldl (fun p e =>
    let sp := s.writeSpan e
    let x := f32Add p (f32Mul (s.cost 0x54) (n sp.2))
    f32Add x (f32Div (f32Mul (f32Mul (s.cost 0x58) (n sp.2)) (n (sp.1 + sp.2))) (n 1024))) p2
  let p4 := plan.foldl (fun p e => match e.slot with
    | some k => f32Add p (f32Div (f32Mul (s.cost 0x60) (n (s.adSlot k).rank)) (n 256))
    | none => p) p3
  let clk := match s.power.clevel with | 0 => 16 | 1 => 12 | 2 => 8 | _ => 4
  f32Div (f32Mul p4 (n 16)) (n clk)

/-- Whether a plan's prediction exceeds the smallest time left to a deadline of class 0 or 1 (R350, R399). -/
def State.tooLong (s : State) (plan : List SeqEntry) : Bool :=
  let left := plan.filterMap fun e =>
    if planClass e ≤ 1 then e.req.deadline.map fun d => (d - s.time.toNat) * 10 else none
  left.any fun l => numLt (numOfInt (l : Int)) (dec32 (s.predict plan))

/-- Entries in class order, oldest first. -/
def classOrder (l : List (Nat × SeqEntry)) : List (Nat × SeqEntry) :=
  let before (a b : Nat × SeqEntry) : Bool :=
    decide (planClass a.2 < planClass b.2) || (decide (planClass a.2 = planClass b.2) && decide (a.2.admitted ≤ b.2.admitted))
  let ins (x : Nat × SeqEntry) (l : List (Nat × SeqEntry)) : List (Nat × SeqEntry) :=
    l.filter (fun y => before y x) ++ [x] ++ l.filter (fun y => !before y x)
  l.foldl (fun acc x => ins x acc) []

/-- Takes sequences out of a plan, in the order given, until its prediction allows (R350 item 3): the plan and those taken out. -/
def State.shrink (s : State) : List Nat → List (Nat × SeqEntry) → List (Nat × SeqEntry)
  | [], plan => plan
  | v :: vs, plan => if s.tooLong (plan.map (·.2)) then s.shrink vs (plan.filter fun e => decide (e.1 ≠ v)) else plan

/-- A parked or parking conversation's units against its tenant's orangery quota (R353, R412). -/
def State.orgHeld (s : State) (fn : Nat) : Nat :=
  (s.serving.parked.filter fun p => decide (p.fn = fn)).foldl (fun n (p : Parked) => n + s.orgUnits p.saved.length) 0 +
  (s.serving.seqs.filter fun e => decide (e.2.req.fn = fn) && decide (e.2.state = .parking)).foldl (fun n e => n + s.orgUnits (max e.2.pages.length e.2.saved.length)) 0

/-- Pages that parkings under way still have to place in the orangery. -/
def State.orgWaiting (s : State) : Nat :=
  (s.serving.seqs.filter fun e => decide (e.2.state = .parking)).foldl (fun n e => n + e.2.pages.length) 0

/-- Item 2 of action 7: sequences with a PAUSE become PARKING, or the PAUSE is refused with QUOTA (R353). -/
def State.startParking (s : State) (cons : List (Nat × BitVec 32 × BitVec 32)) : State :=
  s.serving.seqs.foldl (fun acc e =>
    if e.2.req.pauseAt.isNone ∨ e.2.state = .parking then acc
    else
      let units := acc.orgUnits (max e.2.pages.length e.2.saved.length)
      let room := decide (acc.orgHeld e.2.req.fn + units ≤ fld (acc.fn e.2.req.fn).quotaA.toNat 32 32) &&
        decide (fld acc.serving.orgSize.toNat 12 52 ≠ 0) && decide (acc.orgWaiting + e.2.pages.length ≤ acc.orgFree.length)
      if room then acc.setSeq e.1 { e.2 with state := .parking, parkDone := false }
      else
        let r := acc.publish e.2.req [outRecord 0 0 e.2.req.r.rid false false 9] cons
        r.1.setSeq e.1 { e.2 with req := { r.2 with pauseAt := none } }) s

/-- The lowest free sequence-table entry. -/
def State.freeSeq (s : State) : Option Nat :=
  let n := firstFree s.serving.seqs
  if n < 8192 then some n else none

/-- Item 5 of action 7: admits one queued request, if an entry, its quota, its pages and the prediction allow (R350, R354, R355). -/
def State.admitOne (s : State) (q : Request) (plan : List (Nat × SeqEntry)) : Option (State × List (Nat × SeqEntry)) :=
  let parked := match q.resumeOf with
    | some h => s.serving.parked.find? fun (p : Parked) => decide (p.handle = h)
    | none => none
  let len := match parked with | some p => p.len | none => 0
  let slot := if q.r.adapter = 0#16 then none else s.readySlot q.fn q.r.adapter.toNat q.r.version.toNat
  match s.freeSeq with
  | none => none
  | some i =>
    let prompt := len + q.r.nTok.toNat
    let e0 : SeqEntry :=
      { req := q, state := if len < prompt then .prefill else .decode, len := len, prefillPos := len, promptLen := prompt, satOut := 0
        admitted := s.serving.nextAdmit, slot := slot, pages := [], saved := [], noPage := false, block := none, returned := false, parkDone := false
        lstep := 0, choice := none, waiting := false, inPlan := false, cstart := 0, clen := 0 }
    if (s.refuseQueued q).isSome ∨ (q.resumeOf.isSome ∧ parked.isNone) then none
    else if s.tooLong ((plan.map (·.2)) ++ [e0]) then none
    else
      let sp := s.writeSpan e0
      let saved := match parked with | some p => p.saved | none => []
      let need := match parked with
        | some _ => saved.map fun (v : Nat × Nat × Nat) => (v.1, v.2.1)
        | none => s.pagesNeeded [] (sp.1 + sp.2)
      match s.allocPages [] need with
      | none => none
      | some r =>
        -- a resumed conversation waits, swapped, until its pages are back
        let e1 : SeqEntry := { e0 with pages := r.2, saved := saved, state := if parked.isSome then .swapped else e0.state }
        let s1 := r.1.writeSampling i q
        let s2 := match slot with
          | some k => s1.setAdSlot k { s1.adSlot k with refcnt := (s1.adSlot k).refcnt + 1 }
          | none => s1
        let s3 := r.2.foldl (fun acc p => if parked.isSome then acc else acc.stageLeaf i p.1 p.2.1 (some p.2.2)) s2
        let s4 := (s3.setSeq i e1).setServing fun v => { v with nextAdmit := v.nextAdmit + 1 }
        some (s4, if parked.isSome then plan else plan ++ [(i, e1)])

/-- Admits queued requests in class order, recording order within a class; one that cannot be admitted stays queued. -/
def State.admitAll (s : State) (plan : List (Nat × SeqEntry)) : State × List (Nat × SeqEntry) :=
  let q := (List.range 4).flatMap fun c => s.serving.queue.filter fun q => decide (q.r.cls.toNat = c)
  q.foldl (fun acc r =>
    match acc.1.admitOne r acc.2 with
    | some x => (x.1.setServing fun v => { v with queue := v.queue.filter fun y => !(decide (y.fn = r.fn) && decide (y.r.rid = r.r.rid)) }, x.2)
    | none => acc) (s, plan)

/-- The victim of a pre-emption (R352): sequences that sit out first, then those that run; the lowest class first, the most
recently admitted first; class 0 last. -/
def State.victim (s : State) (keep : Nat) : Option Nat :=
  let l := s.serving.seqs.filter fun e => decide (e.1 ≠ keep) && !e.2.pages.isEmpty &&
    (decide (e.2.state = .sitout) || decide (e.2.state = .prefill) || decide (e.2.state = .decode))
  let zero := l.filter fun e => decide (planClass e.2 = 0)
  let rest := l.filter fun e => decide (planClass e.2 ≠ 0)
  let sit := rest.filter fun e => decide (e.2.state = .sitout)
  let run := rest.filter fun e => decide (e.2.state ≠ .sitout)
  let order := (classOrder sit).reverse ++ (classOrder run).reverse ++ (classOrder zero).reverse
  order.head?.map (·.1)

/-- One sequence is pre-empted for another: it is SWAPPED, and its pages are to be copied out (R283, R352). -/
def State.preemptFor (s : State) (keep : Nat) : State :=
  match s.victim keep with
  | some v => (match s.seq v with
    | some x => s.setSeq v { x with state := .swapped, returned := false }
    | none => s)
  | none => s

/-- Item 6 of action 7: the pages that the plan's sequences will write are allocated; where pages are short a victim is swapped out
and the sequence sits out (R282, R350, R352). -/
def State.allocPlan (s : State) (plan : List Nat) : State × List Nat :=
  plan.foldl (fun acc i =>
    match acc.1.seq i with
    | none => acc
    | some e =>
      if e.state = .swapped then acc
      else
        let sp := acc.1.writeSpan e
        match acc.1.allocPages e.pages (acc.1.pagesNeeded e.pages (sp.1 + sp.2)) with
        | some r =>
          let new := r.2.drop e.pages.length
          ((new.foldl (fun a p => a.stageLeaf i p.1 p.2.1 (some p.2.2)) r.1).setSeq i { e with pages := r.2 }, acc.2 ++ [i])
        | none =>
          let s1 := acc.1.preemptFor i
          (s1, acc.2.filter fun j => match s1.seq j with | some x => decide (x.state ≠ .swapped) | none => false)) (s, [])

/-- Sequences that found no page for a copy have another pre-empted (R282). -/
def State.makeRoom (s : State) : State :=
  (s.serving.seqs.filter fun e => e.2.noPage).foldl (fun acc e => acc.preemptFor e.1) s

/-- Swapped sequences whose copies lie in host memory take pages again as these become free (R283, R352). -/
def State.startSwapIns (s : State) : State :=
  (classOrder (s.serving.seqs.filter fun e => decide (e.2.state = .swapped) && !e.2.saved.isEmpty && e.2.pages.isEmpty)).foldl (fun acc e =>
    match acc.allocPages [] (e.2.saved.map fun v => (v.1, v.2.1)) with
    | some r => r.1.setSeq e.1 { e.2 with pages := r.2 }
    | none => acc) s

/-- Marks the sequences of the plan, and those that sit out (R350, R351). -/
def State.markPlan (s : State) (plan : List Nat) : State :=
  s.serving.seqs.foldl (fun acc e =>
    match acc.seq e.1 with
    | none => acc
    | some x =>
      if plan.contains e.1 then
        let sp := acc.writeSpan x
        acc.setSeq e.1 { x with inPlan := true, noPage := false, satOut := 0, cstart := if x.state = .prefill then sp.1 else 0
                                clen := if x.state = .prefill then sp.2 else 0 }
      else if x.state = .swapped ∨ x.state = .parking then acc.setSeq e.1 { x with inPlan := false, noPage := false }
      else
        let waits := x.req.r.hostSamp && decide (x.state = .decode) && x.choice.isNone
        acc.setSeq e.1 { x with inPlan := false, noPage := false, satOut := if waits then x.satOut else x.satOut + 1
                                state := if waits then x.state else .sitout }) s

/-- The state of a sequence that returns to the plan. -/
def runState (e : SeqEntry) : SeqState := if e.prefillPos < e.promptLen then .prefill else .decode

/-- Action 7 (R350): the sequences of the next step. -/
def State.action7 (s : State) (cons : List (Nat × BitVec 32 × BitVec 32)) : State :=
  let s1 := s.serving.seqs.foldl (fun acc e =>
    if e.2.state = .swapped ∧ e.2.returned then acc.setSeq e.1 { e.2 with state := runState e.2, returned := false } else acc) s
  let s2 := s1.startParking cons
  let run := s2.serving.seqs.filter fun e => canRun e.2
  let order := ((classOrder run).reverse.filter fun e => decide (planClass e.2 ≠ 0)).map (·.1)
  let plan0 := s2.shrink order run
  let sat := classOrder (s2.serving.seqs.filter fun e => decide (e.2.state = .sitout) && canRun { e.2 with state := runState e.2 })
  let plan1 : List (Nat × SeqEntry) := sat.foldl (fun (plan : List (Nat × SeqEntry)) (e : Nat × SeqEntry) =>
    let x : Nat × SeqEntry := (e.1, { e.2 with state := runState e.2 })
    if 64 ≤ e.2.satOut ∨ !s2.tooLong ((plan ++ [x]).map (·.2)) then plan ++ [x] else plan) plan0
  let s3 := plan1.foldl (fun acc e => acc.setSeq e.1 e.2) s2
  let r := s3.admitAll plan1
  let a := r.1.makeRoom.allocPlan ((classOrder r.2).map (·.1))
  (a.1.startSwapIns).markPlan a.2

/-! ### Action 8 and the boundary -/

/-- A plan entry (R342). -/
def planEntry (i : Nat) (e : SeqEntry) : List Byte :=
  let mode := if e.state = .prefill then (if e.cstart + e.clen < e.promptLen then 1 else 2) else 0
  toBytes 2 i ++ toBytes 1 mode ++ toBytes 1 (e.req.r.cls.toNat + (if e.req.r.hostSamp then 4 else 0)) ++ toBytes 4 e.len ++
    toBytes 4 e.cstart ++ toBytes 4 e.clen ++
    toBytes 2 (match e.slot with | some k => k + 0x8000 | none => 0) ++ toBytes 14 0

/-- Action 8: root records into the table not in force, STK_ATT_SNAP, the plan, and snapshot-done if the plan has sequences
(R265, R279, R341, R342). -/
def State.action8 (s : State) : State :=
  let s0 := s.applyStaged
  let index := !(s0.stack 0).attSnap.getLsbD 0
  let base := if index then 0x40000 else 0
  let step := s0.serving.step + 1
  let s1 := s0.serving.seqs.foldl (fun acc e =>
    acc.tableWrite (base + 32 * e.1) (toBytes 8 (e.2.len + (if e.2.inPlan then 2 ^ 21 else 0)) ++ toBytes 8 (l1Offset e.1) ++ toBytes 16 0))
    ((List.range 8192).foldl (fun acc i => if (s0.seq i).isSome || s0.tableField 0 (base + 32 * i) 8 = 0 then acc
      else acc.tableWrite (base + 32 * i) (toBytes 32 0)) s0)
  let snap := BitVec.ofNat 64 ((if index then 1 else 0) + step.toNat % 2 ^ 32 * 2 ^ 32)
  let s2 := (List.range 8).foldl (fun acc k => acc.setStack k { acc.stack k with attSnap := snap }) s1
  let plan := s2.serving.seqs.filter fun e => e.2.inPlan
  let area := s2.stepArea
  let s3 := s2.lodgeWrite area (toBytes 8 step.toNat ++ toBytes 4 plan.length ++ toBytes 52 0)
  let s4 := (List.range plan.length).foldl (fun acc k => match plan[k]? with
    | some e => acc.lodgeWrite (area + 64 + 32 * k) (planEntry e.1 e.2)
    | none => acc) s3
  let s5 := s4.setServing fun v => { v with step := step, stepOpen := !plan.isEmpty, stepDone := false }
  if plan.isEmpty then s5
  else s5.sendSignal .lodge s5.ringParty 1 (s5.imageField 0x09 8 2) (s5.imageField 0x09 0x0A 1 % 2 ^ 7) 0

/-- The serving job ends at a boundary (R402): ENDED with CAUSE 2. -/
def State.endServing (s : State) : State :=
  (s.setServing fun v => { v with endPend := false, stepOpen := false, stepDone := false }).endJob 2

/-- One action of the boundary, each to completion before the next begins (R36): none while action 5 waits for its page copies, which run
only while no programme does (R282). Effects recorded between two actions stand in the state that the next one reads (R37). -/
def State.bndAction (s : State) (cons : List (Nat × BitVec 32 × BitVec 32)) (b : Boundary) : Option (State × Boundary) :=
  let go (t : State) : Option (State × Boundary) := some (t, { b with next := b.next + 1 })
  match b.next with
  | 1 => some (s.action1, { b with next := 2, inStep := s.stepSeqs })
  | 2 => go (s.action2 cons)
  | 3 => some ((s.noteDeadlines b.inStep).action3 cons, { b with next := 4, ending := s.serving.endPend })
  | 4 => go s.action4
  | 5 =>
    let s1 := (if b.asked then s else s.planCopies).askCopies
    if !s1.copiesDone then some (s1, { b with asked := true })
    else
      let r := s1.action5
      some (r.1.setServing fun v => { v with quarantine := v.quarantine ++ r.2 }, { b with next := 6, asked := false, release := s.serving.quarantine })
  | 6 => go (s.releaseQuarantine b.release)
  | 7 => go (if b.ending then s else (s.applyQuotas false).action7 cons)
  | 8 => go (if b.ending then s.endServing else s.action8)
  | _ => none

/-- Actions up to `last`, at most `n` of them; those of a boundary that cannot go on stop. -/
def State.bndRun (cons : List (Nat × BitVec 32 × BitVec 32)) (last : Nat) : Nat → State → Boundary → State × Boundary
  | 0, s, b => (s, b)
  | n + 1, s, b =>
    if last < b.next then (s, b)
    else match s.bndAction cons b with
      | none => (s, b)
      | some r => if r.2.next = b.next then r else bndRun cons last n (r.1.dutyBoundary 0) r.2

/-- The entries in which two states of the ringmaster differ. -/
def State.changedSeqs (s t : State) : List Nat :=
  ((s.serving.seqs.map (·.1) ++ t.serving.seqs.map (·.1)).eraseDups).filter fun i => decide (s.seq i ≠ t.seq i)

/-- The boundary's length counts: at most 20 µs and 1 µs for each sequence changed, in Lodge cycles (R345, R370). Stewards that came back get
their duties again (R500). -/
def State.bndClose (s : State) (b : Boundary) : State :=
  let n := min b.cycles (2000 + 100 * b.changed.length)
  s.giveDuties.retirePending.setServing fun v => { v with bnd := none, bndMax := BitVec.ofNat 32 (min (2 ^ 32 - 1) (max v.bndMax.toNat n)) }

/-- Actions of a boundary from its next one to action `last`. -/
def State.bndStep (s : State) (last cycles : Nat) (cons : List (Nat × BitVec 32 × BitVec 32)) (b : Boundary) : State :=
  let r := State.bndRun cons last 8 s b
  let b1 : Boundary := { r.2 with cycles := b.cycles + cycles, changed := (b.changed ++ s.changedSeqs r.1).eraseDups }
  if 8 < b1.next then r.1.bndClose b1 else r.1.setServing fun v => { v with bnd := some b1 }

/-- The step boundary (R36, R37, R344, R345): it begins when the step-complete bell of the step has arrived, or while no step runs, and
performs the actions from the next one to action `run.last`; 8 completes it. While the ringmaster's duty waits for a takeover it stands, and the new
owner goes on with the first action not recorded complete (R499). `cons` is what the host answers to reads of CONS. -/
def execStepBoundary (run : BoundaryRun) (cons : List (Nat × BitVec 32 × BitVec 32)) (s : State) : Answer :=
  .next (if !s.servingRuns || !s.dutyUp 0 then s
    else match s.serving.bnd with
      | none =>
        if s.serving.stepOpen && !s.serving.stepDone then s else s.bndStep run.last run.cycles cons Boundary.zero
      | some b => s.bndStep run.last run.cycles cons b)

/-! ### Copies to and from host memory (R283, R353, R354) -/

/-- A sequence's pages are in host memory: the frees and the leaf edits are recorded (R283). -/
def State.pagesOut (s : State) (seq : Nat) (e : SeqEntry) (place : Nat → Nat) (parkDone : Bool) : State :=
  let r := s.savePages e.pages place
  (e.pages.foldl (fun acc p => acc.stageLeaf seq p.1 p.2.1 none) (r.1.recordFrees e.pages)).setSeq seq
    { e with saved := e.saved ++ r.2, pages := [], parkDone := parkDone }

/-- A parking copy completes and its frees are recorded (R353). -/
def execParkCopyDone (seq : Nat) (s : State) : Answer :=
  .next (match s.seq seq with
    | some e =>
      if e.state ≠ .parking || e.parkDone then s
      else s.pagesOut seq e (fun i => s.orgFree.getD i 0) true
    | none => s)

/-- A pre-empted sequence's pages are in host memory, and their frees are recorded (R283). -/
def execSwapOutDone (seq : Nat) (s : State) : Answer :=
  .next (match s.seq seq with
    | some e =>
      if e.state ≠ .swapped || !e.saved.isEmpty || e.pages.isEmpty then s
      else ({ s with frees := s.frees + e.pages.length }).pagesOut seq e (swapPlace s.frees) e.parkDone
    | none => s)

/-- A swapped or resumed sequence's pages have been read from host memory, as the host answers, and stored; its leaf edits are recorded
(R283, R354). -/
def execSwapInDone (copy : SwapIn) (s : State) : Answer :=
  let seq := copy.seq
  let data := copy.data
  .next (match s.seq seq with
    | some e =>
      if e.state ≠ .swapped || e.saved.isEmpty || e.pages.isEmpty || decide (data.length ≠ e.saved.length) ||
          data.any (fun d => decide (d.1.length ≠ s.pageBytes)) then s
      else
        let s1 := s.loadPages e.pages e.saved data
        let s2 := e.pages.foldl (fun acc p => acc.stageLeaf seq p.1 p.2.1 (some p.2.2)) s1
        let s3 := match e.req.resumeOf with
          | some h => s2.setServing fun v => { v with parked := v.parked.filter fun p => decide (p.handle ≠ h) }
          | none => s2
        s3.setSeq seq { e with saved := [], returned := true, req := { e.req with resumeOf := none } }
    | none => s)

/-- A parked conversation's time-to-live expires and it is discarded (R354). -/
def execTtlExpire (handle : BitVec 48) (s : State) : Answer :=
  let go (p : Parked) : Bool := decide (p.handle = handle.toNat) && !p.taken && decide (p.expires ≤ s.time.toNat)
  .next (s.setServing fun v => { v with parked := v.parked.filter fun p => !go p
                                        expired := v.expired ++ ((v.parked.filter go).map fun p => (p.handle, p.fn)) })

/-! ### Registers of the rings (R334, R360, R365) -/

/-- SRV_IFNEG.OFFER: version 1 is chosen if the host offers it; ignored while the ring is enabled (R11, R12, R334). -/
def execReqIfneg (fn : Nat) (offer : BitVec 16) (s : State) : Answer :=
  let x := s.fn fn
  .next (if x.rqEn then s else s.setFn fn { x with ifActive := bestVersion offer })

/-- SRV_RQ_CTL: LOG2N is ignored while EN is 1; EN stays 0 without a version or beyond the ring-depth quota (R334, R365, R412). -/
def execRingEnable (fn : Nat) (value : BitVec 64) (s : State) : Answer :=
  let x := s.fn fn
  let log := if x.rqEn then x.rqLog2n else value.truncate 5
  let quota := fld x.quotaA.toNat 28 4
  let ok := decide (x.ifActive ≠ 0#8) && decide (4 ≤ log.toNat) && decide (log.toNat ≤ quota)
  .next (s.setFn fn { x with rqLog2n := log, rqEn := value.getLsbD 8 && (x.rqEn || ok) })

/-- A virtual function is disabled or reset (R360): its ring, its host writes and its notifications stop at once, and its requests
end at the next action 3. -/
def State.stopFunction (s : State) (fn : Nat) : State :=
  let x := s.fn fn
  let live := s.servingRuns
  let s1 := s.setFn fn { x with enabled := false, rqEn := false, disabledPending := live }
  let unarm (m : SMap NtfSlot) (e : Nat × NtfSlot) : SMap NtfSlot :=
    if e.2.func = fn then mput NtfSlot.zero m e.1 { e.2 with armed := false } else m
  let s2 := { s1 with sem := { s1.sem with ntf := s1.sem.ntf.foldl unarm s1.sem.ntf } }
  let mark (q : Request) : Request := if q.fn = fn then { q with disabled := true } else q
  s2.setServing fun v => { v with
    queue := v.queue.map mark
    seqs := v.seqs.map fun (e : Nat × SeqEntry) => (e.1, { e.2 with req := mark e.2.req })
    answers := v.answers.filter fun a => decide (a.1 ≠ fn)
    parked := if live then v.parked else v.parked.filter fun p => decide (p.fn ≠ fn) }

def execFunctionDisable (fn : Nat) (s : State) : Answer := .next (if fn = 0 then s else s.stopFunction fn)

end Sys2Proof.Machine
end

