-- ==== Sys2Proof/Machine/Tombola.lean ====
section
/-! DEFINITION. The tombola: choice of a token, verification of a draft tree, its proposal, and the export of logits (R371 to R392). -/

namespace Sys2Proof.Machine

/-! ### Arithmetic -/

/-- log2 e in binary32. -/
def log2e32 : Lane := 0x3FB8AA3B#32

/-- Whether a lane is larger as a value. -/
def laneLt (a b : Lane) : Bool := numLt (dec32 a) (dec32 b)

/-- The mixing function of the generator (R375). -/
def drawMix (x0 : Reg64) : Reg64 :=
  let x1 := (x0 ^^^ (x0 >>> 30)) * 0xBF58476D1CE4E5B9#64
  let x2 := (x1 ^^^ (x1 >>> 27)) * 0x94D049BB133111EB#64
  x2 ^^^ (x2 >>> 31)

/-- The draw u of a position, a 24-bit uniform number, in units of 2^-24 (R375). -/
def drawBits (key : Reg64) (pos : Nat) : Nat :=
  (drawMix (key ^^^ drawMix (BitVec.ofNat 64 pos + 0x9E3779B97F4A7C15#64)) >>> 40).toNat

/-- The same as a binary32 value. -/
def drawLane (key : Reg64) (pos : Nat) : Lane := enc32 (.fin false (drawBits key pos) (-24))

/-! ### Commands and their data -/

/-- The fields of a tombola command (R382). -/
structure TmbCmd where
  op : Nat
  lfmt : Nat
  seq : Nat
  len : Nat
  logAddr : Nat
  stride : Nat
  nn : Nat
  tree : Nat
  mask : Nat
  res : Nat
  sem : Nat
  sig : Bool
  tag : BitVec 32
deriving DecidableEq, Repr

def tmbCmd (item : BitVec 2048) : TmbCmd :=
  let it := toBytes 256 item.toNat
  let f (o n : Nat) : Nat := byteField it o n
  { op := f 0 1, lfmt := f 1 1, seq := fld (f 2 2) 0 13, len := fld (f 4 4) 0 21, logAddr := f 8 7, stride := f 0x10 4
    nn := fld (f 0x14 1) 0 6, tree := f 0x18 7, mask := f 0x20 7, res := f 0x28 7, sem := f 0x30 2
    sig := (f 0x32 1).testBit 0, tag := BitVec.ofNat 32 (f 0x34 4) }

/-- Bytes of one logit. -/
def TmbCmd.width (c : TmbCmd) : Nat := if c.lfmt = 1 then 4 else 2

/-- The rows that a command reads: node rows for VERIFY, head rows 1 to D for PROPOSE, node 0's for EXPORT (R377, R379, R387;
log entry 40). -/
def TmbCmd.rows (c : TmbCmd) : List Nat :=
  match c.op with
  | 1 => List.range c.nn
  | 2 => (List.range c.nn).map (· + 1)
  | _ => [0]

/-- The template: parent, depth and rank of node n (R376, R390). -/
def Tombola.node (t : Tombola) (n : Nat) : Nat × Nat × Nat :=
  let w := (mget 0 t.tree n).toNat
  (fld w 0 5, fld w 5 3, fld w 8 4)

/-- Template nodes. -/
def Tombola.nodes (t : Tombola) : Nat := t.ntree + 1

/-- The template's largest depth. -/
def Tombola.depth (t : Tombola) : Nat := (List.range t.nodes).foldl (fun m n => max m (t.node n).2.1) 0

/-- The mask of a node and its ancestors (R268). -/
def Tombola.ancestors (t : Tombola) : Nat → Nat → Nat
  | 0, _ => 0
  | fuel + 1, n => if n = 0 then 1 else t.ancestors fuel (t.node n).1 ||| 2 ^ n

/-- The parameter record and the presence table of a sequence (R372, R373). -/
def Tombola.parAddr (t : Tombola) (seq : Nat) : Nat := fld t.parBase.toNat 0 52 + 256 * seq
def Tombola.penAddr (t : Tombola) (seq : Nat) : Nat := fld t.penBase.toNat 0 52 + seq * presenceBytes t.vocab

/-- Reads bytes of the module's memory, and whether a granule of them carries the poison flag. -/
def State.fetchBytes (s : State) (a n : Nat) : State × List Byte × Bool :=
  let r := s.fetchGranules (granulesOf a n)
  (r.1, memRead r.2.1 a n, !r.2.2.isEmpty)

/-- The logits of a row, widened to binary32. -/
def widenRow (lfmt w : Nat) (bs : List Byte) (vocab : Nat) : List Lane :=
  (chunks w vocab bs).map fun x =>
    let v := ofBytes x
    match lfmt with
    | 1 => BitVec.ofNat 32 v
    | 2 => enc32 (decodeFloat fmtF16 v)
    | _ => enc32 (decodeFloat fmtBF16 v)

/-- Reads the rows of a command: their logits, and whether one carries the poison flag. -/
def State.readRows (s : State) (vocab : Nat) (c : TmbCmd) : State × List (List Lane) × Bool :=
  c.rows.foldl (fun (acc : State × List (List Lane) × Bool) n =>
    let r := acc.1.fetchBytes (c.logAddr + n * c.stride) (vocab * c.width)
    (r.1, acc.2.1 ++ [widenRow c.lfmt c.width r.2.1 vocab], acc.2.2 || r.2.2)) (s, [], false)

/-! ### The choice of one token (R374) -/

/-- A candidate: identifier, value and weight. -/
abbrev Cand := Nat × Lane × Lane

/-- Puts a candidate of a higher identifier into a list that falls by value. -/
def candInsert (x : Cand) : List Cand → List Cand
  | [] => [x]
  | y :: l => if laneLt y.2.1 x.2.1 then x :: y :: l else y :: candInsert x l

/-- The `k` largest candidates, falling, ties by ascending identifier. -/
def topCands (k : Nat) (l : List Cand) : List Cand := l.foldl (fun acc x => (candInsert x acc).take k) []

/-- A NaN ranks as −∞. -/
def orNegInf (x : Lane) : Lane := if isNan32 x then negInf32 else x

/-- A row as candidates in rising order of identifier. -/
def rowCands (zs ps : List Lane) : List Cand := zs.mapIdx fun i z => (i, z, ps.getD i 0)

/-- Bias entries are added (R374, item 1). -/
def biased (par : List Byte) (row : List Lane) : List Lane :=
  (List.range (byteField par 0x28 1)).foldl (fun acc i =>
    let tok := byteField par (0x40 + 8 * i) 4
    if tok < acc.length then listSet acc tok (f32Add (acc.getD tok 0) (BitVec.ofNat 32 (byteField par (0x44 + 8 * i) 4))) else acc)
    (row.map orNegInf)

/-- Penalties on present tokens (R374, item 2). -/
def penalised (par : List Byte) (present : Nat → Bool) (row : List Lane) : List Lane :=
  let rep := BitVec.ofNat 32 (byteField par 0x10 4)
  let pres := BitVec.ofNat 32 (byteField par 0x14 4)
  row.mapIdx fun i x =>
    if present i then
      let y := if numEq (dec32 rep) (numOfInt 1) then x
        else if numLt (numOfInt 0) (dec32 x) then f32Div x rep else f32Mul x rep
      orNegInf (f32Sub y pres)
    else orNegInf x

/-- The prefix of a list that reaches TOPP, at least one token (R374, item 6). -/
def topPrefix (topp sum : Lane) : List Cand → List Cand
  | [] => []
  | x :: l =>
    let s1 := f32Add sum x.2.2
    if !isNan32 s1 && !laneLt s1 topp then [x] else x :: topPrefix topp s1 l

/-- Adds a candidate to a list that rises by identifier. -/
def insertById (x : Cand) : List Cand → List Cand
  | [] => [x]
  | y :: l => if x.1 < y.1 then x :: y :: l else y :: insertById x l

/-- Sum of the weights in ascending token order. -/
def weightSum (l : List Cand) : Lane := (l.foldl (fun acc x => insertById x acc) []).foldl (fun a x => f32Add a x.2.2) 0

/-- The first candidate at which the running sum exceeds a bound, else the last. -/
def drawFrom (bound sum : Lane) : List Cand → Nat
  | [] => 0
  | [x] => x.1
  | x :: l =>
    let s1 := f32Add sum x.2.2
    if laneLt bound s1 then x.1 else drawFrom bound s1 l

/-- Chooses the token of a position from a logit row: the token, and whether every adjusted logit was −∞ (R374). -/
def chooseToken (par : List Byte) (present : Nat → Bool) (row : List Lane) (pos : Nat) : Nat × Bool :=
  let f (o : Nat) : Lane := BitVec.ofNat 32 (byteField par o 4)
  let adj := penalised par present (biased par row)
  if adj.all fun x => x == negInf32 then (0, true)
  else if numIsZero (dec32 (f 0)) then
    ((topCands 1 (rowCands adj [])).map (·.1) |>.headD 0, false)
  else
    let z := adj.map fun x => f32Div x (f 0)
    let zmax := z.foldl (fun m x => if laneLt m x then x else m) negInf32
    let nums := z.map fun x => f32Exp2 (f32Mul (f32Sub x zmax) log2e32)
    let total := nums.foldl f32Add 0
    let k := if byteField par 4 2 = 0 then 1024 else byteField par 4 2
    let cands := topCands k (rowCands z (nums.map fun x => f32Div x total))
    let kept := topPrefix (f 8) 0 cands
    let floor := f32Mul (f 0x0C) (kept.headD (0, 0, 0)).2.2
    let left := kept.take 1 ++ (kept.drop 1).filter fun x => !laneLt x.2.2 floor
    let u := drawLane (BitVec.ofNat 64 (byteField par 0x20 8)) pos
    (drawFrom (f32Mul u (weightSum left)) 0 left, false)

/-! ### Verification (R379 to R381) -/

/-- A node record: token, parent, depth (R377). -/
abbrev NodeRec := Nat × Nat × Nat

def nodeRecs (bs : List Byte) (nn : Nat) : List NodeRec :=
  (List.range nn).map fun i =>
    let w := byteField bs (8 * i) 8
    (fld w 0 32, fld w 32 5, fld w 37 3)

/-- What a walk finds: the path, the tokens of its nodes after node 0, the newly chosen token, and the choices with every logit
−∞. -/
structure WalkOut where
  path : List Nat
  toks : List Nat
  newTok : Nat
  empties : Nat
deriving DecidableEq, Repr

/-- The walk from a node on; `choose` gives the token of a node's row with the tokens accepted so far. -/
def treeWalk (nodes : List NodeRec) (choose : Nat → List Nat → Nat × Bool) : Nat → Nat → WalkOut → WalkOut
  | 0, _, w => w
  | fuel + 1, n, w =>
    let c := choose n w.toks
    let w1 := { w with newTok := c.1, empties := w.empties + (if c.2 then 1 else 0) }
    let child := (List.range nodes.length).find? fun i =>
      decide (n < i) && decide ((nodes.getD i (0, 0, 0)).2.1 = n) && decide ((nodes.getD i (0, 0, 0)).1 = c.1)
    match child with
    | some i =>
      if (nodes.getD n (0, 0, 0)).2.2 = 7 ∨ fuel = 0 then w1
      else treeWalk nodes choose fuel i { w1 with path := w1.path ++ [i], toks := w1.toks ++ [c.1] }
    | none => w1

/-- The result record; unused token fields hold free values (R381; log entry 2). -/
def resultRecord (w : WalkOut) (poison : Bool) (free : Nat) : List Byte :=
  let n := w.path.length
  toBytes 1 n ++ toBytes 1 ((if poison then 1 else 0) + (if 0 < w.empties then 2 else 0)) ++
    (List.range 8).flatMap (fun i => toBytes 1 (w.path.getD i 0xFF)) ++ toBytes 2 0 ++ toBytes 4 w.newTok ++
    (List.range 8).flatMap (fun i => toBytes 4 (if i < n then (w.toks ++ [w.newTok]).getD i 0 else (Config.free64 (free + i)).toNat)) ++
    toBytes 16 0

/-! ### Checks (R384) -/

/-- Whether a range lies in space 0x0, 0x1 or 0x2 and is populated. -/
def State.tmbRange (s : State) (a n : Nat) : Bool := decide (spaceOf a ≤ 2) && s.populatedRange a n

/-- The size of an EXPORT block (R386). -/
def exportBytes (vocab nlog : Nat) : Nat := if nlog = 0 then 4 * vocab else 8 * nlog

/-- The first check that a command fails before it reads. -/
def State.tmbError (s : State) (d : Nat) (c : TmbCmd) (nlog : Nat) : Option Nat :=
  let t := s.tombola d
  let rows := c.rows.all fun n => s.tmbRange (c.logAddr + n * c.stride) (t.vocab * c.width)
  let rest := match c.op with
    | 1 => s.tmbRange c.tree (8 * c.nn) && s.tmbRange c.res 64
    | 2 => s.tmbRange c.tree (8 * t.nodes) && s.tmbRange c.mask (8 * t.nodes) && s.tmbRange c.res 16
    | _ => s.tmbRange c.res (exportBytes t.vocab nlog)
  let nnOk := match c.op with
    | 1 => decide (1 ≤ c.nn) && decide (c.nn ≤ t.nodes)
    | 2 => decide (1 ≤ c.nn) && decide (c.nn ≤ 7) && decide (t.depth ≤ c.nn)
    | _ => decide (c.nn = 1)
  if c.op = 0 ∨ 3 < c.op ∨ c.lfmt = 0 ∨ 3 < c.lfmt then some 1
  else if nnOk = false then some 2
  else if c.stride % 64 ≠ 0 ∨ rows = false ∨ rest = false then some 3
  else if !s.serving.stepOpen || !(match s.seq c.seq with | some e => e.inPlan | none => false) then some 4
  else none

/-- A command fails a check: TMB_ERR, the queue discarded, the job torn down (R384). -/
def State.tmbFail (s : State) (d : Nat) (tag : BitVec 32) (code : Nat) : State :=
  (s.setTombola d { s.tombola d with err := BitVec.ofNat 8 code, errTag := tag, q := [], running := none }).requestTeardown 6 none

/-- Whether the signal of a command lies outside the job's quota (R384). -/
def State.tmbSigBad (s : State) (d : Nat) (c : TmbCmd) : Bool := c.sig && !s.quotaOk (.tombola d c.tag) c.sem

/-! ### What the commands do -/

/-- What a command will deliver, and the cycles it takes (R385). -/
structure TmbOut where
  writes : List (Nat × List Byte)
  block : Option (Nat × Nat)
  empties : Nat
  poison : Bool
  cycles : Nat
deriving DecidableEq, Repr

/-- VERIFY: the result record, or the error of a node record (R379 to R381). -/
def State.doVerify (s : State) (d : Nat) (c : TmbCmd) (par : List Byte) : Except Nat (State × TmbOut) :=
  let t := s.tombola d
  let tr := s.fetchBytes c.tree (8 * c.nn)
  let nodes := nodeRecs tr.2.1 c.nn
  if (List.range c.nn).any fun i => decide (1 ≤ i) && decide (i ≤ (nodes.getD i (0, 0, 0)).2.1) then .error 5
  else if s.tmbSigBad d c then .error 6
  else
    let rows := tr.1.readRows t.vocab c
    let pen := rows.1.fetchBytes (t.penAddr c.seq) (presenceBytes t.vocab)
    let choose (n : Nat) (toks : List Nat) : Nat × Bool :=
      let present (i : Nat) : Bool := (pen.2.1.getD (i / 8) 0).getLsbD (i % 8) || toks.contains i
      chooseToken par present (rows.2.1.getD n []) (c.len + (nodes.getD n (0, 0, 0)).2.2 + 1)
    let w := treeWalk nodes choose 8 0 { path := [0], toks := [], newTok := 0, empties := 0 }
    let s1 := pen.1
    .ok ({ s1 with frees := s1.frees + 8 },
      { writes := [(c.res, resultRecord w rows.2.2 s1.frees)], block := none, empties := w.empties, poison := rows.2.2
        cycles := 400 + cdiv (c.nn * t.vocab * c.width) 256 + 64 * w.path.length })

/-- PROPOSE: node records and mask records of the template (R377, R268). A rank that the vocabulary does not have gives a free
token (log entry 2). -/
def State.doPropose (s : State) (d : Nat) (c : TmbCmd) : Except Nat (State × TmbOut) :=
  if s.tmbSigBad d c then .error 6
  else
    let t := s.tombola d
    let res := s.fetchBytes c.res 16
    let rows := res.1.readRows t.vocab c
    let ranked := rows.2.1.map fun r => (topCands 16 (rowCands (r.map orNegInf) [])).map (·.1)
    let fr := rows.1.fresh
    let token (n : Nat) : Nat :=
      let x := t.node n
      if n = 0 then byteField res.2.1 12 4
      else ((ranked.getD (x.2.1 - 1) []).getD x.2.2 ((Config.free64 fr.1).toNat % 2 ^ 32))
    let recs := (List.range t.nodes).flatMap fun n =>
      let x := t.node n
      toBytes 8 (token n + x.1 * 2 ^ 32 + x.2.1 * 2 ^ 37 + x.2.2 * 2 ^ 40)
    let masks := (List.range t.nodes).flatMap fun n => toBytes 8 (t.ancestors 8 n + (t.node n).2.1 * 2 ^ 32)
    .ok (fr.2, { writes := [(c.tree, recs), (c.mask, masks)], block := none, empties := 0, poison := false
                 cycles := 400 + cdiv (c.nn * t.vocab * c.width) 256 })

/-- EXPORT: the block of node 0's raw logits, top-N or full (R386, R387). -/
def State.doExport (s : State) (d : Nat) (c : TmbCmd) (nlog : Nat) : Except Nat (State × TmbOut) :=
  if s.tmbSigBad d c then .error 6
  else
    let t := s.tombola d
    let rows := s.readRows t.vocab c
    let row := rows.2.1.headD []
    let block := if nlog = 0 then row.flatMap fun x => toBytes 4 x.toNat
      else ((topCands nlog (rowCands (row.map orNegInf) row)).flatMap fun x => toBytes 4 x.1 ++ toBytes 4 x.2.2.toNat)
    .ok (rows.1, { writes := [(c.res, block)], block := some (c.seq, c.res), empties := 0, poison := false
                   cycles := 400 + cdiv (t.vocab * c.width) 256 + (if nlog = 0 then cdiv (t.vocab * 4) 256 else 0) })

/-- The tombola's clock runs on. -/
def State.reachTmb (s : State) (d dt : Nat) : State := s.setTombola d { s.tombola d with cycle := (s.tombola d).cycle + dt }

/-- The tombola, idle, takes the command at the head of its queue: one of the wrong kind waits for its own row; one that fails a
check is refused. It waits while a stack controller holds one of its reads (R203). What it reads it reads now, what it writes is performed at its completion (R383). -/
def State.tmbStart (s0 : State) (d dt op : Nat) (run : State → TmbCmd → List Byte → Nat → Except Nat (State × TmbOut)) : State :=
  let s := s0.reachTmb d dt
  let t := s.tombola d
  match t.q, t.running with
  | x :: rest, none =>
    let c := tmbCmd x.2
    if !s.unitUp (unitId 6 d) then s
    else
      let s1 := s.setTombola d { t with q := rest }
      if !s.stacksOpen (granulesOf (t.parAddr c.seq) 256 ++ c.rows.flatMap fun n => granulesOf (c.logAddr + n * c.stride) (t.vocab * c.width)) then s
      else
      let par := s1.fetchBytes (t.parAddr c.seq) 256
      let nlog := byteField par.2.1 0x2A 2
      match s1.tmbError d c nlog with
      | some code => s1.tmbFail d c.tag code
      | none =>
        if c.op ≠ op then s
        else match run par.1 c par.2.1 nlog with
          | .error code => s1.tmbFail d c.tag code
          | .ok (s2, o) =>
            let y := s2.tombola d
            (s2.setTombola d { y with running := some { tile := x.1, item := x.2, due := y.cycle + o.cycles, writes := o.writes, block := o.block
                                                        empties := o.empties, poison := o.poison } }).cmdStart (unitId 6 d) c.tag.toNat
  | _, _ => s

/-- VERIFY: walks the draft tree and chooses tokens (R379). -/
def execVerify (d : Fin 2) (dt : Nat) (s : State) : Answer :=
  .next (s.tmbStart d.val dt 1 fun s c par _ => s.doVerify d.val c par)

/-- PROPOSE: builds the next draft tree and its mask records (R377). -/
def execPropose (d : Fin 2) (dt : Nat) (s : State) : Answer :=
  .next (s.tmbStart d.val dt 2 fun s c _ _ => s.doPropose d.val c)

/-- EXPORT: takes node 0's logits (R387). -/
def execExportLogits (d : Fin 2) (dt : Nat) (s : State) : Answer :=
  .next (s.tmbStart d.val dt 3 fun s c _ nlog => s.doExport d.val c nlog)

/-- A command's results are written; the block of an EXPORT is noted in its sequence (R381, R383, R387). -/
def State.tmbDeliver (s : State) (r : TmbRun) : State :=
  let s1 := r.writes.foldl (fun acc w => acc.lodgeWrite w.1 w.2) s
  match r.block with
  | some b => (match s1.seq b.1 with
    | some e => s1.setSeq b.1 { e with block := some b.2 }
    | none => s1)
  | none => s1

/-- The running command completes once its cycles have passed: its results are performed, a sleeping tile that they go to being woken first,
and then its signal leaves (R32, R383, R385). The tombola has no party of its own (R291): it releases for the tile that issued the command. -/
def execTmbCmdComplete (d : Fin 2) (dt : Nat) (s : State) : Answer :=
  let s1 := s.reachTmb d.val dt
  let t := s1.tombola d.val
  .next (match t.running with
    | some r =>
      if t.cycle < r.due || !s1.unitUp (unitId 6 d.val) || !s1.stacksOpen (r.writes.flatMap fun w => granulesOf w.1 w.2.length) then s1
      else match r.writes.find? fun w => !s1.portOpen w.1 with
        | some w => s1.wakePort w.1
        | none =>
          let c := tmbCmd r.item
          let s2 := (s1.setTombola d.val { t with
            running := none, commands := satInc t.commands, tag := c.tag, empty := satAdd t.empty r.empties
            poisonCnt := if r.poison then satInc t.poisonCnt else t.poisonCnt }).tmbDeliver r
          let s3 := s2.cmdEnd (unitId 6 d.val) c.tag.toNat
          if c.sig then s3.sendSignal (.tombola d.val c.tag) (partyId 0 r.tile) 1 c.sem 1 0 else s3
    | none => s1)

end Sys2Proof.Machine
end

