-- ==== Sys2Proof/Machine/JobImage.lean ====
section
/-! DEFINITION. The job image container: its layout, its checks, and what it loads (R224, R261, R376, R396 to R401). -/

namespace Sys2Proof.Machine

/-! ### Layout -/

/-- The sections of a container; a MODEL section's payload is the model that the Lodge reads from host memory (R397). -/
def sectionsOf (bs model : List Byte) : List Section :=
  (List.range (min 4096 (byteField bs 0x0C 4))).map fun i =>
    let e := 0x40 + 16 * i
    let ty := byteField bs e 2
    { type := ty, index := byteField bs (e + 2) 2
      payload := if ty = 0x0D then model else (bs.drop (byteField bs (e + 8) 8)).take (byteField bs (e + 4) 4) }

/-- The image of a container (R396, R397), with the digest of its TOTAL bytes (R571). -/
def imageOf (bs model : List Byte) : Image :=
  { serving := !(byteField bs 8 1).testBit 4, owner := byteField bs 0x0A 2 % 2 ^ 13, modelId := BitVec.ofNat 64 (byteField bs 0x10 8)
    modelBytes := byteField bs 0x18 8, preempt := (byteField bs 0x2C 1).testBit 0, digest := Config.sha3 (bs.take (byteField bs 0x20 8))
    sections := sectionsOf bs model }

/-- The payloads of the sections of a type. -/
def Image.ofType (m : Image) (ty : Nat) : List Section := m.sections.filter fun x => x.type == ty

/-- The payload of the first section of a type, empty where there is none. -/
def Image.payload (m : Image) (ty : Nat) : List Byte := ((m.ofType ty).head?.map (·.payload)).getD []

/-- The tiles, or the stacks, that a section's INDEX names among `n`. -/
def Section.names (x : Section) (n : Nat) : List Nat := if x.index = 0xFFFF then List.range n else if x.index < n then [x.index] else []

/-- The windows of an image (R225, R397). -/
def Image.windows (m : Image) : List WinRec :=
  (chunks 24 64 (m.payload 0x06)).map fun w =>
    let a := byteField w 0 8
    let b := byteField w 8 8
    let f := byteField w 16 1
    { valid := a.testBit 0, kind := fld a 1 2, rmostly := a.testBit 3, base := fld a 8 32 * 2 ^ 20, pbase := fld b 0 19
      npage := fld b 20 19 + 1, stack := fld b 40 3, scount := fld b 43 3 + 1, isModel := f.testBit 0, keep := f.testBit 1
      save := f.testBit 2 }

/-- An entry of LIVEMAP: address, length, source (R397). -/
abbrev LiveRange := Nat × Nat × Nat

def Image.liveMap (m : Image) : List LiveRange :=
  (m.ofType 0x0B).flatMap fun x => (chunks 24 (x.payload.length / 24) x.payload).map fun e =>
    (byteField e 0 7, byteField e 8 4, byteField e 16 7)

/-- CKARR, CKGO and W (R397, R406; the places of the fields are log entry 41's). -/
def Image.ckpt (m : Image) : Option CkptCfg :=
  match m.ofType 0x0C with
  | x :: _ => some { ckarr := byteField x.payload 0 2, ckgo := byteField x.payload 2 2, w := byteField x.payload 4 1 % 2 ^ 7 }
  | [] => none

/-- The parents of the template, its depth, and the ranks (R376, R390). -/
def treeWord (bs : List Byte) (n : Nat) : Nat := byteField bs (24 + 8 * n) 8

def treeDepth (bs : List Byte) : Nat → Nat → Nat
  | 0, _ => 32
  | fuel + 1, n => if n = 0 then 0 else treeDepth bs fuel (fld (treeWord bs n) 0 5) + 1

/-! ### The checks of R401 -/

/-- Pages and stacks of two windows that meet. -/
def WinRec.stackSpan (w : WinRec) : Nat × Nat :=
  match w.kind with
  | 0 => (w.stack, w.stack + 1)
  | 1 => (0, 8)
  | _ => (w.stack, w.stack + w.scount)

def WinRec.sharesPage (a b : WinRec) : Bool :=
  decide (a.stackSpan.1 < b.stackSpan.2) && decide (b.stackSpan.1 < a.stackSpan.2) &&
    decide (a.pbase < b.pbase + b.npage) && decide (b.pbase < a.pbase + a.npage)

def WinRec.sharesAddress (a b : WinRec) : Bool := decide (a.base < b.base + b.bytes) && decide (b.base < a.base + a.bytes)

/-- One window by itself (R224). -/
def WinRec.ok (w : WinRec) : Bool :=
  decide (w.kind ≠ 3) && decide (w.pbase + w.npage ≤ 524224) && (decide (w.kind ≠ 2) || decide (w.stack + w.scount ≤ 8)) &&
    decide (w.base + w.bytes ≤ 2 ^ 52)

/-- No two of the windows meet. -/
def windowsApart : List WinRec → Bool
  | [] => true
  | w :: l => (l.all fun x => !w.sharesPage x && !w.sharesAddress x) && windowsApart l

/-- The window table keeps R224 and clear of the windows that a suspended job keeps, or the job that `m` is to pre-empt (R401, 0x05;
R405). -/
def State.windowsOk (s : State) (m : Image) (preempts : Bool) : Bool :=
  let ws := m.windows.filter (·.valid)
  let other := if preempts then s.job.image else s.job.suspended.map (·.1)
  let held := match other with
    | some x => x.windows.filter fun (w : WinRec) => w.valid && (w.keep || w.save)
    | none => []
  (m.ofType 0x06).all (fun x => decide (x.payload.length % 24 = 0) && decide (x.payload.length ≤ 1536)) &&
    (ws.all (·.ok)) && windowsApart ws && (ws.all fun w => held.all fun x => !w.sharesPage x && !w.sharesAddress x)

/-- ATTCFG keeps R261 (0x06). -/
def attOk (bs : List Byte) : Bool :=
  let c := byteField bs 0 8
  let hd := (fld c 24 3 + 1) * 32
  let fmt := fld c 16 8
  let b := if fmt = 0x1A ∨ fmt = 0x18 then 8 else 4
  decide (16 ≤ bs.length) && [0x1A, 0x18, 0x19, 0x1B].contains fmt && decide (8 ≤ fld c 8 8) && decide (fld c 8 8 ≤ 128) &&
    decide ((fld c 28 7 + 1) * (8 * hd + 16 * hd * b) ≤ fld c 8 8 * 2048)

/-- The tree template keeps R376 (0x07). -/
def treeOk (bs : List Byte) : Bool :=
  let n := fld (byteField bs 0 8) 24 5 + 1
  (List.range n).all fun i => decide (i = 0) ||
    (decide (fld (treeWord bs i) 0 5 < i) && decide (treeDepth bs 32 i ≤ 7) &&
      (List.range i).all fun j => decide (j = 0) ||
        !(decide (fld (treeWord bs i) 0 5 = fld (treeWord bs j) 0 5) && decide (fld (treeWord bs i) 8 4 = fld (treeWord bs j) 8 4)))

/-- TILEPROG: the image fits in the scratchpad and the entries are bundle addresses (R40, R397). -/
def progOk (bs : List Byte) : Bool :=
  let entry (e : Nat) : Bool := decide (e < 0x600000) && decide (e % 8 = 0)
  decide (12 ≤ bs.length) && decide (byteField bs 0 4 + (bs.length - 12) ≤ 0x600000) && entry (byteField bs 4 4) && entry (byteField bs 8 4)

/-- KRANGE: up to 16 ranges of scratchpad addresses (R102). -/
def krangeOk (bs : List Byte) : Bool :=
  decide (bs.length % 8 = 0) && decide (bs.length ≤ 128) && (chunks 8 16 bs).all fun x =>
    let w := ofBytes x
    !w.testBit 23 || (decide (fld w 0 23 < 0x600000) && decide (fld w 32 23 < 0x600000) && decide (fld w 0 23 ≤ fld w 32 23))

/-- The slots of a slot mask. -/
def maskSlots (m : Nat) : List Nat := (List.range 8).filter (m.testBit ·)

/-- CURVE: a slot mask and a table with a valid header for each slot (R138, R139, R397). -/
def curveOk (bs : List Byte) : Bool :=
  let n := (maskSlots (byteField bs 0 1)).length
  decide (bs.length = 1 + 4096 * n) && (List.range n).all fun i => curveValid (memWrite [] 0 ((bs.drop (1 + 4096 * i)).take 16))

/-- A coefficient of the cost table: finite and not negative (R399). -/
def costOk (bs : List Byte) (o : Nat) : Bool :=
  match dec32 (BitVec.ofNat 32 (byteField bs o 4)) with
  | .fin neg m _ => !neg || decide (m = 0)
  | _ => false

/-- SERVCFG keeps its ranges (R398, R399). -/
def State.servOk (s : State) (m : Image) (ws : List WinRec) : Bool :=
  let bs := m.payload 0x09
  let area := byteField bs 0 7
  let src := byteField bs 0x0C 2 % 2 ^ 11
  let size := byteField bs 0x14 4
  let slot := byteField bs 0x18 7 % 2 ^ 52
  let w := byteField bs 0x0A 1 % 2 ^ 7
  let chunk := byteField bs 0x10 4 % 2 ^ 17
  let nver := byteField bs 0x20 1 % 2 ^ 6
  decide (0x80 ≤ bs.length) && decide (spaceOf area = 1) && decide (area % 2 ^ 21 = 0) && decide (area % 2 ^ 52 < 2 ^ 27) &&
    s.inQuota m.owner (byteField bs 8 2) && decide (1 ≤ w) && decide (w ≤ 96) && decide (0x100 ≤ src) &&
    decide (1 ≤ chunk) && decide (chunk ≤ 65536) && decide (size % 2048 = 0) &&
    (ws.any fun x => x.valid && decide (x.base ≤ slot) && decide (slot + 1024 * size ≤ x.base + x.bytes)) &&
    decide (1 ≤ nver) && decide (nver ≤ 32) && decide (nver ≤ fld (byteField (m.payload 0x08) 0 8) 24 5 + 1) &&
    ((List.range 9).all fun i => costOk bs (0x40 + 4 * i)) && decide (byteField bs 0x64 28 = 0)

/-- An address range in scratchpads or region memories, or a stack window of the new job. -/
def State.loadable (s : State) (a n : Nat) (spaces : List Nat) : Bool :=
  spaces.contains (spaceOf a) && s.populatedRange a n

/-- The other sections lie in their ranges (0x08); `s` holds the image's windows. -/
def State.sectionsOk (s : State) (m : Image) : Bool :=
  let inSem (n : Nat) : Bool := s.inQuota m.owner n
  let sect (x : Section) : Bool :=
    match x.type with
    | 0x01 => !(x.names 96).isEmpty && progOk x.payload
    | 0x02 => !(x.names 96).isEmpty && decide (x.payload.length ≤ 65536)
    | 0x03 => !(x.names 96).isEmpty && krangeOk x.payload
    | 0x04 => !(x.names 96).isEmpty && curveOk x.payload
    | 0x05 => !(x.names 8).isEmpty && decide (x.payload.length ≤ 262144)
    | 0x08 => decide (1 ≤ fld (byteField x.payload 0 8) 0 21) && decide (fld (byteField x.payload 0 8) 0 21 ≤ 1048576)
    | 0x0E => decide (8 ≤ x.payload.length) && s.loadable (byteField x.payload 0 7) (x.payload.length - 8) [0, 1, 2]
    | _ => true
  let live (e : LiveRange) : Bool := s.loadable e.1 e.2.1 [1, 2] && (decide (e.2.2 = 0) || s.loadable e.2.2 e.2.1 [0, 1])
  let ck := match m.ckpt with
    | some c => inSem c.ckarr && inSem c.ckgo && decide (1 ≤ c.w) && decide (c.w ≤ 96)
    | none => true
  m.sections.all sect && (m.liveMap.all live) && ck && (!m.serving || s.servOk m s.job.windows)

/-- Whether a logical tile, or a stack, is unavailable (R17, R210). -/
def State.tileLost (s : State) (t : Nat) : Bool :=
  match s.physTile t with
  | some u => (s.unit u).unavailable
  | none => true

def State.stackLost (s : State) (k : Nat) : Bool := (s.unit (unitId 4 k)).unavailable || decide ((s.unit (unitId 4 k)).allowed = 5)

/-- Named tiles and stacks are there (0x04). -/
def State.unitsOk (s : State) (m : Image) : Bool :=
  let tiles := m.sections.flatMap fun x => if 1 ≤ x.type ∧ x.type ≤ 4 then x.names 96 else []
  let stks := m.sections.flatMap fun x => if x.type = 5 ∨ x.type = 0x0A then x.names 8 else []
  let wins := (m.windows.filter (·.valid)).flatMap fun w => (List.range 8).filter fun k => decide (w.stackSpan.1 ≤ k) && decide (k < w.stackSpan.2)
  !(tiles.any fun t => s.tileLost t) && !((stks ++ wins).any fun k => s.stackLost k)

/-- The bytes that the windows marked MODEL hold. -/
def modelRoom (ws : List WinRec) : Nat := (ws.filter fun w => w.valid && w.isModel).foldl (fun n w => n + w.bytes) 0

/-- Header, CRC, sections and types (0x01). -/
def containerOk (bs : List Byte) (m : Image) : Bool :=
  let total := byteField bs 0x20 8
  let n := byteField bs 0x0C 4
  let body := bs.take total
  let allowed (ty : Nat) : Bool :=
    decide (1 ≤ ty) && decide (ty ≤ 0x0E) && (if m.serving then decide (ty ≠ 0x0C) else !([7, 8, 9].contains ty))
  let inside (i : Nat) : Bool :=
    let e := 0x40 + 16 * i
    decide (byteField bs e 2 = 0x0D) || decide (byteField bs (e + 8) 8 + byteField bs (e + 4) 4 ≤ total)
  decide (byteField bs 0 4 = 0x4A5A4F45) && decide (1 ≤ n) && decide (n ≤ 4096) && decide (0x40 + 16 * n ≤ total) &&
    decide (total ≤ bs.length) &&
    decide (crc32c (body.take 0x28 ++ List.replicate 4 0 ++ body.drop 0x2C) = BitVec.ofNat 32 (byteField bs 0x28 4)) &&
    (m.sections.all fun x => allowed x.type) && (List.range n).all inside

/-- The first check of R401 that a container fails; none if it may start. `ok` is false where a read of host memory failed. -/
def State.refuseImage (s : State) (bs : List Byte) (m : Image) (ok preempts : Bool) : Option Nat :=
  let s' := { s with job := { s.job with windows := m.windows } }
  let ver (n : Nat) (active : BitVec 8) : Bool := decide (n = active.toNat) && decide (active ≠ 0#8)
  if !ok && bs.isEmpty then some 0x09
  else if !containerOk bs m then some 0x01
  else if !(ver (byteField bs 4 2) s.lodge.ifActive0 && ver (byteField bs 6 2) s.lodge.ifActive4 && decide (byteField bs 8 1 % 16 = 1))
    then some 0x02
  else if 4096 < m.owner || !(s.fn m.owner).enabled || (m.serving && decide (m.owner ≠ 0)) then some 0x03
  else if !s.unitsOk m then some 0x04
  else if !s.windowsOk m preempts then some 0x05
  else if m.serving && ((m.ofType 0x07).isEmpty || !((m.ofType 0x07).all fun x => attOk x.payload)) then some 0x06
  else if m.serving && !treeOk (m.payload 0x08) then some 0x07
  else if !s'.sectionsOk m then some 0x08
  else if !ok || decide (modelRoom m.windows < m.modelBytes) then some 0x09
  else none

/-! ### Loading -/

/-- Clears every stack page that `keep` does not name to INVALID, a FILLING one when its fill ends (R248, R394). -/
def State.clearPages (s : State) (keep : Nat → Nat → Bool) : State :=
  (List.range 8).foldl (fun acc n => acc.setStack n ((acc.stack n).clearWhere fun page => !keep n (page % 524288))) s

/-- Whether windows cover a page of a stack. -/
def coversPage (ws : List WinRec) (k page : Nat) : Bool :=
  ws.any fun w => w.valid && decide (w.stackSpan.1 ≤ k) && decide (k < w.stackSpan.2) && decide (w.pbase ≤ page) && decide (page < w.pbase + w.npage)

/-- A tile as the module gives it to a job: zero, but for its power state and its health data (R33, R81, R82, R597). -/
def Tile.handOver (t : Tile) : Tile :=
  let z := Tile.zero
  { z with sleep := t.sleep, lqCe := t.lqCe, sqCe := t.sqCe, qUe := t.qUe, pert := t.pert, pertSlips := t.pertSlips
           pertFlips := t.pertFlips, pertWins := t.pertWins }

/-- Loads curve tables into the slots of a mask (R138, R397). -/
def Tile.loadCurves (t : Tile) (bs : List Byte) : Tile :=
  let slots := maskSlots (byteField bs 0 1)
  (List.range slots.length).foldl (fun acc i =>
    { acc with curve := mput [] acc.curve (slots.getD i 0) (memWrite [] 0 ((bs.drop (1 + 4096 * i)).take 4096)) }) t

/-- The fields START, VALID and END of TIL_KRANGE_n; its other bits are reserved (R6, R102). -/
def krangeMask : Reg64 := 0x007FFFFF00FFFFFF#64

/-- Loads one section into a tile; TILEPROG makes it a tile of the job, both streams at their entries (R40, R397). -/
def Tile.loadSection (t : Tile) (x : Section) : Tile :=
  match x.type with
  | 0x01 =>
    let a := byteField x.payload 4 4
    let e := byteField x.payload 8 4
    { t with spad := memWrite t.spad (byteField x.payload 0 4) (x.payload.drop 12), active := true
             core := { t.core with pcA := a, pcE := e, lastA := 0, lastE := 0, stallA := .run, stallE := .run } }
  | 0x02 => { t with core := { t.core with desc := memWrite t.core.desc 0 x.payload } }
  | 0x03 => { t with krange := (List.range (x.payload.length / 8)).foldl (fun m i =>
      mput 0 m i (BitVec.ofNat 64 (byteField x.payload (8 * i) 8) &&& krangeMask)) t.krange }
  | 0x04 => t.loadCurves x.payload
  | _ => t

/-- The first window of a tile's streams is open from their first cycle (R40, R79, R89). -/
def Tile.firstWindow (t : Tile) : Tile :=
  let t1 := { t with windows := [Window.fresh t.nextWin t.cycle t.core], nextWin := t.nextWin + 1 }
  { t1 with tsSnap := BitVec.ofNat 64 t1.tsWord }

/-- A tile of a job as its image gives it; a sleeping tile that gets a programme begins to wake (R32). -/
def Tile.fromImage (t : Tile) (m : Image) (n : Nat) : Tile :=
  let t1 := (m.sections.filter fun x => (x.names 96).contains n).foldl Tile.loadSection t.handOver
  if t1.active then ({ t1 with sleep := wakeOf t1.sleep }).firstWindow else t1

/-- Bytes of the module's memory as the Lodge writes them at a start: all spaces at once, past the turnstiles. -/
def State.lodgeLoad (s : State) (a : Nat) (bs : List Byte) : State :=
  match decodeAddr a with
  | some (.spad t o) =>
    let x := s.tile t
    s.setTile t { x with spad := memWrite x.spad o bs, spadPoison := poisonWrite x.spadPoison o bs.length false }
  | _ => s.lodgeWrite a bs

/-- The LIVEMAP ranges with a source are loaded from it, those that `sel` chooses (R397, R403). -/
def State.loadSources (s : State) (m : Image) (sel : LiveRange → Bool) : State :=
  (m.liveMap.filter fun e => decide (e.2.2 ≠ 0) && sel e).foldl (fun acc e => acc.lodgeLoad e.1 (acc.bytesAt e.2.2 e.2.1)) s

/-- The INIT sections, in section order (R401). -/
def State.loadInit (s : State) (m : Image) : State :=
  (m.ofType 0x0E).foldl (fun acc x => acc.lodgeLoad (byteField x.payload 0 7) (x.payload.drop 8)) s

/-- The model's bytes into the MODEL windows in window order (R397). -/
def State.loadModel (s : State) (m : Image) : State :=
  ((m.windows.filter fun w => w.valid && w.isModel).foldl (fun (acc : State × List Byte) w =>
    (acc.1.lodgeWrite w.base (acc.2.take w.bytes), acc.2.drop w.bytes)) (s, m.payload 0x0D)).1

/-- The ATTCFG section for a stack: the last one that names it (R264, R397). -/
def Image.attOf (m : Image) (n : Nat) : List Byte :=
  (m.ofType 0x07).foldl (fun bs x => if (x.names 8).contains n then x.payload else bs) []

/-- A controller at job start: its programme memory is the image's, everything of an earlier job is gone (R189, R213, R287, R288). -/
def Stack.atStart (k : Stack) (n : Nat) (m : Image) : Stack :=
  let att := m.attOf n
  let prg := (m.ofType 0x05).foldl (fun mem x => if (x.names 8).contains n then memWrite mem 0 x.payload else mem) []
  { k with prgMem := prg, vstage := [], startPort := [], startQ := [], aperPort := [], prg := none, preempt := false, preemptPages := []
           refusedRow := none, errCode := 0, errRow := 0, errTag := 0, inflight := [], held := []
           attCfg := maskWord (BitVec.ofNat 64 (byteField att 0 8)) attCfgBits
           attTbase := maskWord (BitVec.ofNat 64 (byteField att 8 8)) attTbaseBits
           attSnap := 0, kvGo := false, kvErr := false, kvUntil := 0, kvRuns := [] }

/-- A region without the engine work of a job that is over; its released atomics are still performed (R108). -/
def Region.cancel (r : Region) : Region :=
  { r with cpyPort := [], cpyQ := [], cpyRun := none, cpyStop := none, hdmaPort := [], hdmaQ := [], hdmaRun := false
           hdmaDenied := none, hdmaCut := none }

/-- A tombola at job start (R389 to R391). -/
def Tombola.atStart (t : Tombola) (m : Image) : Tombola :=
  let bs := m.payload 0x08
  let cfg := byteField bs 0 8
  let word (i : Nat) : BitVec 13 :=
    let w := treeWord bs i
    BitVec.ofNat 13 (fld w 0 5 + treeDepth bs 32 i % 8 * 32 + fld w 8 4 * 256 + fld w 12 1 * 4096)
  { t with q := [], running := none, err := 0, errTag := 0, vocab := fld cfg 0 21, ntree := fld cfg 24 5
           parBase := maskWord (BitVec.ofNat 64 (byteField bs 8 8)) (2 ^ 52 - 256)
           penBase := maskWord (BitVec.ofNat 64 (byteField bs 16 8)) (2 ^ 52 - 64)
           tree := (List.range 32).foldl (fun acc i => mput 0 acc i (word i)) [] }

/-- The ringmaster at job start: parked conversations stay for a serving job of the same model and the same ATTCFG (R369, R402). -/
def Serving.atStart (v : Serving) (m : Image) (same : Bool) : Serving :=
  { v with seqs := [], slots := [], refs := [], quarantine := [], freeing := [], staged := [], leafs := [], endPend := false
           stepOpen := false, stepDone := false, bnd := none, kvTodo := [], step := 0, stepArea := BitVec.ofNat 64 (byteField (m.payload 0x09) 0 7)
           parked := if same then v.parked.map fun p => { p with taken := false } else [] }

/-- Semaphores of the job's range at job start (R319, R331). -/
def SemUnit.atStart (u : SemUnit) (lo n : Nat) : SemUnit :=
  { u with sems := u.sems.filter fun e => decide (e.1 < lo) || decide (lo + n ≤ e.1)
           net := u.net.filter (fun m => match m with | .signal (.doorbell _) _ _ _ _ _ => true | .signal (.peer _ _) _ _ _ _ _ => true | _ => false)
           mismatchCnt := 0, mismatchLast := 0 }

/-- Everything that a job's start zeroes or writes, before its sections are loaded (R401, items 3 and 4). -/
def State.prepare (s : State) (m : Image) : State :=
  let q := s.quota m.owner
  let sameAtt (n : Nat) : Bool :=
    let x := (s.stack n).atStart n m
    decide ((s.stack n).attCfg = x.attCfg) && decide ((s.stack n).attTbase = x.attTbase)
  let sameCfg := m.serving && decide (m.modelId = s.job.resident) && (List.range 8).all sameAtt
  let s1 := (List.range 96).foldl (fun acc n => acc.setTile n (acc.tile n).handOver) s
  let s2 := (List.range 8).foldl (fun acc n => (acc.setStack n ((acc.stack n).atStart n m)).setRegion n (acc.region n).cancel) s1
  let s3 := (List.range 2).foldl (fun acc d =>
    (acc.setTombola d ((acc.tombola d).atStart m)).setBand d { acc.band d with q := [], running := none, err := 0, errTag := 0 }) s2
  { s3 with engines := [], sem := s3.sem.atStart q.1 q.2, serving := s3.serving.atStart m sameCfg
            job := { s3.job with windows := m.windows, image := some m, lost := [] } }

/-- Lodge cycles of a switch: a free value within T_switch (R404; log entry 2). -/
def State.switchTime (s : State) (live model kind : Nat) : State :=
  let v := s.fresh
  let most := 1200 + (live * 1000 + model * 12000) / 12000000
  { v.2 with job := { v.2.job with switchCycles := BitVec.ofNat 48 ((Config.free64 v.1).toNat % (most + 1)), switchKind := BitVec.ofNat 3 kind } }

/-- Bytes that a job's start loads into tiles and regions (R404). -/
def Image.liveBytes (m : Image) : Nat :=
  (m.sections.filter fun x => [1, 2, 4, 14].contains x.type).foldl (fun n x => n + x.payload.length) 0 +
    (m.liveMap.filter fun e => decide (e.2.2 ≠ 0)).foldl (fun n e => n + e.2.1) 0

/-- The pages that stay when a job of an image starts (R394, R405). -/
def State.keptPages (s : State) (m : Image) (k page : Nat) : Bool :=
  (decide (m.modelId = s.job.resident) && coversPage (s.job.windows.filter (·.isModel)) k page) ||
    (match s.job.suspended with
     | some x => coversPage (x.1.windows.filter fun w => w.keep || w.save) k page
     | none => false)

/-- The model becomes resident if another one was (R394, R401). -/
def State.placeModel (s : State) (m : Image) : State :=
  if m.modelId = s.job.resident then s
  else
    let s1 := s.loadModel m
    { s1 with job := { s1.job with resident := m.modelId } }

/-- A job starts (R401). -/
def State.startJob (s : State) (m : Image) : State :=
  let model := if m.modelId = s.job.resident then 0 else m.modelBytes
  let s1 := ((s.clearPages (s.keptPages m)).prepare m).placeModel m
  let s2 := (List.range 96).foldl (fun acc n => acc.setTile n ((acc.tile n).fromImage m n)) s1
  let s3 := (s2.loadSources m fun _ => true).loadInit m
  let j := { s3.job with state := 2, cause := 0, refuse := 0, owner := m.owner, jobNo := s3.job.jobNo + 1, ckTaken := 0, ckResumed := 0 }
  { s3 with job := { j with ckHalf := false, ckpt0 := none, ckpt1 := none, tearing := none, haltTile := none } }.switchTime m.liveBytes model 4

end Sys2Proof.Machine
end

