-- ==== Sys2Proof/Machine/Jobs.lean ====
section
/-! DEFINITION. Job control: starts, ends, teardown, checkpoints, pre-emption, quiesce points, interface versions and quotas
(R393 to R421). -/

namespace Sys2Proof.Machine

/-! ### Start and end (R400 to R402, R416) -/

/-- The party that job control acts as: the steward that owns duty 5 (R291, R494). -/
def State.jobParty (s : State) : Nat := partyId 6 (fld s.lodge.duty.toNat 10 2)

/-- REFUSE is set; unless a job holds the module, the job goes to ENDED with CAUSE 8 (R401). -/
def State.refuseJob (s : State) (owner code : Nat) : State :=
  let j := { s.job with refuse := BitVec.ofNat 8 code }
  if s.jobLive then { s with job := j } else { s with job := { j with state := 5, cause := 8, owner := owner } }

/-- GO: `image` and `model` are the bytes that the Lodge reads from host memory. A PREEMPT image waits for the running job's
checkpoint (R401, R405). -/
def execJobGo (image model : List Byte) (hostReadOk : Bool) (s : State) : Answer :=
  let m := imageOf image model
  let running := decide (s.job.state = 2)
  let mayWait := m.preempt && !s.servingRuns && s.job.suspended.isNone
  .next (if s.job.state = 1 ∨ s.job.state = 3 ∨ (running && !mayWait) then s.refuseJob m.owner 0x0A
    else match s.refuseImage image m hostReadOk running with
      | some code => (if hostReadOk then s else s.readRefused 0).refuseJob m.owner code
      | none => if running then { s with job := { s.job with waiting := some m } } else s.startJob m)

/-- END: a serving job ends at the next step boundary (R402). -/
def execJobEnd (s : State) : Answer := .next (if s.servingRuns then s.setServing fun v => { v with endPend := true } else s)

/-- ABORT: the running job is torn down with cause 3 (R409). -/
def execJobAbort (s : State) : Answer := .next (if s.jobLive then s.requestTeardown 3 none else s)

/-- RELEASE: an ENDED job's state is given up, its tiles zeroed, and STATE becomes NONE (R33, R410, R416). -/
def execJobRelease (s : State) : Answer :=
  .next (if s.job.state = 5 then
    let s1 := (List.range 96).foldl (fun acc n => acc.setTile n (acc.tile n).handOver) s
    { s1 with job := { s1.job with state := 0, image := none } }
  else s)

/-- A tile has finished its part of the job (R42). -/
def Tile.finished (t : Tile) : Bool :=
  !t.active || (t.core.ended && t.windows.isEmpty && t.releaseQ.isEmpty && decide (t.halt.reason = 0#8) && t.haltPend.isNone)

/-- No copy, DMA, programme, tombola or bandstand command of the job is left (R402). -/
def State.enginesIdle (s : State) : Bool :=
  ((List.range 8).all fun n =>
    (s.region n).copyIdle && (s.region n).hdmaIdle && (s.stack n).prg.isNone && (s.stack n).startQ.isEmpty && (s.stack n).startPort.isEmpty) &&
  (List.range 2).all fun d => (s.tombola d).q.isEmpty && (s.tombola d).running.isNone

/-- A non-serving job ends with CAUSE 1 when all its tiles and engine commands are done (R402). -/
def execJobFinish (s : State) : Answer :=
  .next (if decide (s.job.state = 2) && !s.servingRuns && s.job.tearing.isNone && ((List.range 96).all fun n => (s.tile n).finished) &&
      s.enginesIdle then s.endJob 1
    else s)

/-! ### Teardown (R409, R410) -/

/-- A tile is stopped from outside: reason and detail as R110 gives; no bundle of it halted, so STREAM and PC are free values
(log entry 2). -/
def State.stopTile (s : State) (n reason detail : Nat) : State :=
  let t := s.tile n
  if t.active && decide (t.halt.reason = 0#8) then
    let v := s.fresh
    let f := Config.free64 v.1
    let h : HaltRec := { reason := BitVec.ofNat 8 reason, streamE := f.getLsbD 63, pc := f.truncate 23, detail := BitVec.ofNat 32 detail }
    ((v.2.setTile n { t.dropHeld with halt := h, haltPend := none, releaseQ := [], mode := .normal, cur := none, fences := [], loads := []
                                      sloads := [], regReads := [], slipNow := [], refusals := [] }).traceHalt n h).statusTile n 3 2
  else s

/-- The final boundary of a serving job: tokens of a completed step, then the end of every live request; parked conversations are
discarded (R410). -/
def State.finalBoundary (s : State) (cause : Nat) : State :=
  let st := if cause = 3 then 4 else 13
  let s1 := (s.action1.noteDeadlines s.stepSeqs).action2 []
  let s2 := s1.serving.seqs.foldl (fun acc e =>
    match acc.endOf e.2.req with
    | some 0 => acc
    | some n => acc.finish e.2.req 0 0 n []
    | none => acc.finish e.2.req 0 0 st []) s1
  let s3 := s2.serving.queue.foldl (fun acc q =>
    match acc.endOf q with
    | some 0 => acc
    | some n => acc.finish q 0 0 n []
    | none => acc.finish q 0 0 st []) s2
  let s4 := s3.serving.answers.foldl (fun acc a => acc.answerRecord a) s3
  let s5 := s4.setServing fun v => { v with seqs := [], queue := [], answers := [], parked := [], endPend := false, stepOpen := false, stepDone := false, bnd := none, kvTodo := [] }
  (s5.fns.filter fun f => f.2.disabledPending).foldl (fun acc f => acc.setFn f.1 { acc.fn f.1 with disabledPending := false }) s5

/-- The work of engines is cancelled at its next boundary and held threshold signals are discarded (R178, R307, R409). -/
def State.cancelWork (s : State) : State :=
  let s1 := (List.range 8).foldl (fun acc n =>
    let x := (acc.stopCopy n).stopHdma n
    (x.setRegion n (x.region n).cancel).setStack n { x.stack n with prg := none, startQ := [], startPort := [], refusedRow := none }) s
  let s2 := (List.range 2).foldl (fun acc d =>
    (acc.setTombola d { acc.tombola d with q := [], running := none }).setBand d { acc.band d with q := [], running := none }) s1
  (List.range 96).foldl (fun acc n => (acc.setTile n { acc.tile n with thr := [], thrPort := [] }).withdrawTile n) s2

/-- LDG_JOB_FAULT (R418). -/
def haltFault (t : Tile) (n : Nat) : Reg64 :=
  BitVec.ofNat 64 (t.halt.reason.toNat + n * 2 ^ 8 + t.halt.pc.toNat * 2 ^ 18 + bitAt t.halt.streamE 41)

/-- The Lodge tears the job down for the cause recorded: tiles, engines, waiters, LDG_JOB_FAULT, ENDED and JOBVEC (R108, R409). -/
def State.teardown (s : State) : State :=
  match s.job.tearing with
    | none => s
    | some c =>
      let cause := c.toNat
      let first := s.job.haltTile.getD 0
      let reason := if cause = 4 then 0xF0 else 0xF1
      let detail := if cause = 4 then first else 0
      let serving := s.servingRuns
      let s1 := (List.range 96).foldl (fun acc n => acc.stopTile n reason detail) s
      let s2 := s1.cancelWork
      let s3 := if serving then s2.finalBoundary cause else s2
      let s4 := if cause = 4 then { s3 with job := { s3.job with fault := haltFault (s3.tile first) first } } else s3
      (s4.endJob cause).msix s4.job.owner s4.job.jobVec.toNat

/-- The teardown that was asked for is carried out. -/
def execJobTeardown (s : State) : Answer := .next s.teardown

/-! ### Live state (R403, R406, R408) -/

/-- The fixed part of a tile's live state: registers, loop state, descriptor table, arrival counters and curve memory. -/
def Tile.fixedPart (t : Tile) : Tile :=
  let c := t.core
  { Tile.zero with
    ac := t.ac, curve := t.curve
    core := { TileCore.zero with
      sA := c.sA, sE := c.sE, aReg := c.aReg, tReg := c.tReg, binds := c.binds, pcA := c.pcA, pcE := c.pcE, lastA := c.lastA
      lastE := c.lastE, stallA := c.stallA, stallE := c.stallE, loopsA := c.loopsA, loopsE := c.loopsE, vreg := c.vreg
      poisoned := c.poisoned, desc := c.desc } }

/-- A stream that waited for CKGO goes on past its wait (R408). -/
def pastWait (x : Stall) : Stall := match x with | .semWait => .run | y => y

/-- A tile with its saved part put back over what its image gives it. -/
def Tile.putFixed (t : Tile) (v : Tile) : Tile :=
  ({ t with ac := v.ac, curve := v.curve, core := { v.core with stallA := pastWait v.core.stallA, stallE := pastWait v.core.stallE } }).firstWindow

/-- Saves the live state: fixed parts, the owner's semaphores but CKARR and CKGO, and the LIVEMAP ranges without a source (R406). -/
def State.saveLive (s : State) (m : Image) (c : CkptCfg) : Saved :=
  let q := s.quota m.owner
  { tiles := (s.tiles.filter fun e => e.2.active).map fun e => (e.1, e.2.fixedPart)
    sems := ((s.sem.sems.filter fun e => decide (q.1 ≤ e.1) && decide (e.1 < q.1 + q.2) && decide (e.1 ≠ c.ckarr) && decide (e.1 ≠ c.ckgo)).map
      fun e => (e.1, e.2.value))
    ranges := (m.liveMap.filter fun e => decide (e.2.2 = 0)).map fun e => (e.1, s.bytesAt e.1 e.2.1) }

/-- Bytes of saved live state (R404). -/
def Saved.size (v : Saved) : Nat := v.tiles.length * 131072 + v.ranges.foldl (fun n r => n + r.2.length) 0

/-- The range of a LIVEMAP address belongs to a tile. -/
def rangeOfTile (a n : Nat) : Bool := decide (decodeAddr a = some (.spad n (a % 2 ^ 23)))

/-- Loads the tiles that `sel` chooses from the image, then from what was saved (R403, R408). -/
def State.reloadTiles (s : State) (m : Image) (v : Option Saved) (sel : Nat → Bool) : State :=
  let pick := (List.range 96).filter sel
  let s1 := pick.foldl (fun acc n => acc.setTile n ((acc.tile n).fromImage m n)) s
  let s2 := s1.loadSources m fun e => pick.any fun n => rangeOfTile e.1 n
  match v with
  | none => s2
  | some x =>
    let s3 := (x.tiles.filter fun e => pick.contains e.1).foldl (fun acc e => acc.setTile e.1 ((acc.tile e.1).putFixed e.2)) s2
    (x.ranges.filter fun r => pick.any fun n => rangeOfTile r.1 n).foldl (fun acc r => acc.lodgeLoad r.1 r.2) s3

/-- Puts back the saved ranges of region memory and the saved semaphores (R408). -/
def State.restoreRest (s : State) (m : Image) (v : Saved) : State :=
  let q := s.quota m.owner
  let s0 := { s with sem := s.sem.atStart q.1 q.2 }
  let s1 := v.sems.foldl (fun acc e => acc.setSema e.1 { Sem.zero with value := e.2 }) s0
  let s2 := s1.loadSources m fun e => decide (spaceOf e.1 = 1)
  (v.ranges.filter fun r => decide (spaceOf r.1 = 1)).foldl (fun acc r => acc.lodgeLoad r.1 r.2) s2

/-- The last valid checkpoint (R406, R419). -/
def Job.lastCkpt (j : Job) : Option Saved := if j.ckHalf then j.ckpt1 else j.ckpt0

/-- Whether the running non-serving job stands at a checkpoint: CKARR has reached W. -/
def State.atCheckpoint (s : State) : Option (Image × CkptCfg) :=
  match s.job.image with
  | some m => match m.ckpt with
    | some c => if decide (s.job.state = 2) && !m.serving && s.job.tearing.isNone && decide (c.w ≤ (s.sema c.ckarr).value) then some (m, c) else none
    | none => none
  | none => none

/-- The checkpoint goes into the half of the SAVE window that does not hold the last valid one, and that half becomes valid (R406). -/
def State.takeCheckpoint (s : State) (m : Image) (c : CkptCfg) : State :=
  let v := s.saveLive m c
  let half := if s.job.ckTaken = 0#32 then false else !s.job.ckHalf
  let j := { s.job with ckTaken := satInc s.job.ckTaken, ckHalf := half }
  let s1 := { s with job := if half then { j with ckpt1 := some v } else { j with ckpt0 := some v } }
  s1.setSema c.ckarr { s1.sema c.ckarr with value := 0 }

/-- The Lodge takes a checkpoint and signals CKGO by W (R406); one that a PREEMPT image waits for is taken by the pre-emption. -/
def execCheckpointSave (s : State) : Answer :=
  .next (match s.atCheckpoint with
    | some (m, c) =>
      if s.job.waiting.isSome then s else (s.takeCheckpoint m c).sendSignal .lodge s.jobParty 1 c.ckgo c.w 0
    | none => s)

/-! ### Remaps (R16, R29, R403, R514) -/

/-- The spare of a region, if it is unused and good. -/
def State.spareOf (s : State) (r : Nat) : Option Nat :=
  ((List.range 13).map fun i => unitId 0 (r * 13 + i)).find? fun u => decide ((s.unit u).logical = 0x3FF) && decide ((s.unit u).allowed = 1)

/-- The remap that a region needs: a mapped tile that is RETIRED, or DRAINING under a RETIRE command. -/
def State.remapOf (s : State) (r : Nat) : Option (Nat × Nat) :=
  match ((List.range 13).map fun i => unitId 0 (r * 13 + i)).find? fun u =>
      decide ((s.unit u).logical < 96) && (decide ((s.unit u).allowed = 5) || (decide ((s.unit u).allowed = 3) && (s.unit u).draining)),
    s.spareOf r with
  | some u, some v => some (u, v)
  | _, _ => none

/-- One remap: the spare takes the logical number, and the replacement tile of a live job is loaded (R16, R403, R514). -/
def State.remapTile (s : State) (u v : Nat) : State :=
  let x := s.unit u
  let t := x.logical
  let retired := s.allow u 5
  let s1 := retired.setUnit u { retired.unit u with logical := 0x3FF, draining := false }
  let on := s1.allow v 2
  let s2 := on.setUnit v { on.unit v with logical := t }
  match if s2.jobLive then s2.job.image else none with
  | some m =>
    let s3 := s2.reloadTiles m s2.job.lastCkpt fun n => decide (n = t)
    let n := (m.sections.filter fun y => [1, 2, 4].contains y.type && (y.names 96).contains t).foldl (fun k y => k + y.payload.length) 0 +
      (m.liveMap.filter fun e => rangeOfTile e.1 t).foldl (fun k e => k + e.2.1) 131072
    let s4 := s3.switchTime n 0 1
    if x.draining then s4.liveEnd 0 else s4
  | none => if x.draining then s2.liveEnd 0 else s2

/-- Every remap that a region needs and has a spare for (R16, R29). -/
def State.remapAll (s : State) : State :=
  (List.range 8).foldl (fun acc r => match acc.remapOf r with
    | some p => acc.remapTile p.1 p.2
    | none => acc) s

/-- A non-serving job goes back to its last valid checkpoint, or to its image if none has completed, after the remaps that its tiles need
(R408). -/
def State.restoreCheckpoint (s : State) : State :=
  match s.job.image with
  | some m =>
    if s.job.state ≠ 2 ∨ m.serving ∨ s.job.tearing.isSome then s
    else
      let s1 := s.cancelWork.remapAll
      let s2 := { s1 with job := { s1.job with ckResumed := satInc s1.job.ckResumed } }
      match s2.job.lastCkpt with
      | some v => (s2.reloadTiles m (some v) fun n => v.tiles.any fun e => decide (e.1 = n)).restoreRest m v
      | none =>
        let q := s2.quota m.owner
        let s3 := s2.reloadTiles m none fun n => (s2.tile n).active
        ({ s3 with sem := s3.sem.atStart q.1 q.2 }.loadSources m fun e => decide (spaceOf e.1 = 1)).loadInit m
  | none => s

/-- The Lodge restores the last valid checkpoint (R408). -/
def execCheckpointRestore (s : State) : Answer := .next s.restoreCheckpoint

/-! ### Pre-emption (R405) -/

/-- The waiting image starts: at the running job's checkpoint, which becomes its suspension, or after that job has ended. -/
def execJobPreempt (s : State) : Answer :=
  .next (match s.job.waiting with
    | none => s
    | some w =>
      let go (s : State) : State := { s with job := { s.job with waiting := none } }.startJob w
      if s.job.state = 5 ∨ s.job.state = 0 then go s
      else match s.atCheckpoint with
        | none => s
        | some (m, c) =>
          let v := s.saveLive m c
          let s1 := (s.takeCheckpoint m c).cancelWork.stopTiles
          let model := if w.modelId = s.job.resident then 0 else w.modelBytes
          let s2 := { s1 with job := { s1.job with suspended := some (m, v), susp := true } }
          (go s2).switchTime (v.size + w.liveBytes) model 2)

/-- When the pre-empting job has ended, the suspended job resumes from its saved state, its model reloaded first if another one
is resident (R405). -/
def execJobResume (s : State) : Answer :=
  .next (match s.job.suspended with
    | none => s
    | some (m, v) =>
      if (s.job.state ≠ 5 ∧ s.job.state ≠ 0) ∨ s.job.waiting.isSome then s
      else
        let model := if m.modelId = s.job.resident then 0 else m.modelBytes
        let s1 := ((s.clearPages (s.keptPages m)).prepare m).placeModel m
        let s2 := (s1.reloadTiles m (some v) fun n => v.tiles.any fun e => decide (e.1 = n)).restoreRest m v
        let j := { s2.job with state := 2, cause := 0, owner := m.owner, suspended := none, susp := false, tearing := none }
        { s2 with job := { j with haltTile := none, ckpt0 := some v, ckpt1 := none, ckHalf := false } }.switchTime v.size model 3)

/-! ### Quiesce points (R16, R29, R403, R512 to R514) -/

/-- Whether a tile waits at a semaphore. -/
def Tile.waitsSem (t : Tile) : Bool := !t.active || t.core.stallA == .semWait || t.core.stallE == .semWait

/-- Whether a mapped tile is RETIRED: its step cannot end before the spare has taken its place (R29, R30). -/
def State.lostTile (s : State) : Bool :=
  (List.range 104).any fun i => decide ((s.unit (unitId 0 i)).allowed = 5) && decide ((s.unit (unitId 0 i)).logical < 96)

/-- Whether the job stands at a quiesce point: a serving job after action 8 with snapshot-done not yet applied, or with no step
running; a non-serving job with its checkpoint complete and CKGO not yet signalled (R403). A tile that may not issue counts as waiting, and
a serving job that has lost a tile is quiesced within its step when every other tile waits (log entry 77). -/
def State.quiesced (s : State) : Bool :=
  let pendingTo (n : Nat) : Bool := s.sem.net.any fun m => match m with | .signal .lodge _ _ x _ _ => decide (x = n) | _ => false
  (List.range 96).all (fun n => (s.tile n).waitsSem || !s.tileAllowed n) && decide (s.job.state = 2) && s.job.tearing.isNone &&
    (match s.job.image with
     | some m => if m.serving then (!s.serving.stepOpen && s.serving.bnd.isNone) || s.lostTile || pendingTo (s.imageField 0x09 8 2)
                 else (match m.ckpt with | some c => pendingTo c.ckgo | none => false)
     | none => false)

/-- The tables of a CURVE command go into every tile of the job (R512, R513). -/
def State.applyCurve (s : State) (payload : List Byte) : State :=
  (s.tiles.filter fun e => e.2.active).foldl (fun acc e => acc.setTile e.1 ((acc.tile e.1).loadCurves payload)) s

/-- At a quiesce point, or while no job holds the module, the Lodge makes the remaps first and then applies a waiting CURVE (R403, R513;
log entry 48). -/
def execQuiescePoint (s : State) : Answer :=
  .next (if s.jobLive && !s.quiesced then s
    else
      let s1 := s.remapAll
      match s1.lodge.liveRun with
      | some r => if r.op = 1 then (s1.applyCurve r.payload).liveEnd 0 else s1
      | none => s1)

/-! ### Versions and quotas (R10 to R12, R400, R411 to R414, R421) -/

/-- LDG_IFNEG: interface 0 or 4, while no job holds the module (R400). -/
def execIfnegWrite (iface : BitVec 3) (offer : BitVec 16) (s : State) : Answer :=
  let v := bestVersion offer
  .next (if s.jobLive || s.job.susp then s
    else if iface = 0 then { s with lodge := { s.lodge with ifActive0 := v } }
    else if iface = 4 then { s with lodge := { s.lodge with ifActive4 := v } }
    else s)

/-- The quotas of a tenant as last written. -/
def State.quotaWords (s : State) (f : Nat) : Reg64 × Reg64 :=
  let x := s.fn f
  (x.quotaPendA.getD x.quotaA, x.quotaPendB.getD x.quotaB)

/-- Whether a pair may be written (R412, R414, R421): every field in its range, the orangery not overcommitted, no overlap. -/
def State.quotaWriteOk (s : State) (f : Nat) (a b : Reg64) : Bool :=
  let others := s.fns.filter fun e => decide (e.1 ≠ f) && decide (e.1 ≠ 0)
  let org := others.foldl (fun n e => n + fld (s.quotaWords e.1).1.toNat 32 32) (fld a.toNat 32 32)
  let log := fld a.toNat 28 4
  decide (fld a.toNat 0 14 ≤ 8192) && decide (fld a.toNat 16 11 ≤ 1024) && (decide (log = 0) || decide (4 ≤ log)) &&
    decide (org * 4096 ≤ s.serving.orgSize.toNat) && decide ((rangeOf b).1 + (rangeOf b).2 ≤ 65536) &&
    !(others.any fun e => rangesMeet (rangeOf b) (rangeOf (s.quotaWords e.1).2))

/-- LDG_QUOTA_A_f and LDG_QUOTA_B_f: refused with REFUSED set, or in force at once, at action 7, or after the job (R413, R414). -/
def execQuotaWrite (f : Nat) (a b : BitVec 64) (s : State) : Answer :=
  let b0 := BitVec.ofNat 64 (b.toNat % 2 ^ 33)
  let a0 := BitVec.ofNat 64 (fld a.toNat 0 14 + fld a.toNat 16 11 * 2 ^ 16 + fld a.toNat 28 36 * 2 ^ 28)
  .next (if f = 0 ∨ 4096 < f then s
    else
      let x := s.fn f
      if !s.quotaWriteOk f a0 b0 then s.setFn f { x with quotaB := setBit x.quotaB 63 true }
      else if s.servingRuns then s.setFn f { x with quotaPendA := some a0, quotaPendB := some b0, quotaB := setBit x.quotaB 63 false }
      else
        let s1 := s.setFn f { x with quotaA := a0, quotaB := setBit x.quotaB 63 false }
        if s1.rangeWaits f b0 then s1.setFn f { s1.fn f with quotaPendB := some b0 } else s1.setRange f b0)

end Sys2Proof.Machine
end

