-- ==== Sys2Proof/Machine/Links.lean ====
section
/-! DEFINITION. Chakar links: training, flits, sparing, packets that arrive (R422 to R450, R603). -/

namespace Sys2Proof.Machine

/-! ### Training (R423 to R431) -/

/-- The link's place in training: STATE 1 to 4, or the same phases within RETRAIN. -/
def Link.inPhase (x : Link) (ph : Nat) : Bool := decide (x.phase = ph) && (decide (x.state = ph) || decide (x.state = 6))

/-- A training step: the phase moves, and STATE with it outside RETRAIN. -/
def Link.goPhase (x : Link) (ph : Nat) : Link := { x with phase := ph, state := if x.state = 6 then 6 else ph }

/-- Whether the unit state table lets a link train. -/
def State.linkUp (s : State) (n : Nat) : Bool := s.unitUp (unitId 5 n)

/-- Training starts in DETECT (R423). -/
def State.trainLink (s : State) (n : Nat) : State :=
  s.setLink n { (s.link n).down 1 1 0 s.time.toNat with ssc := s.power.lnkSsc }

/-- The link enters RETRAIN (R423, R462). -/
def State.toRetrain (s : State) (n : Nat) : State :=
  let s1 := s.linkDown n 6 1 0
  s1.setLink n { s1.link n with retrains := satInc (s1.link n).retrains, ssc := s.power.lnkSsc }

/-- RETRAIN is set: a link in ACTIVE retrains, a FAILED one goes to DETECT (R423, R444). -/
def State.retrainLink (s : State) (n : Nat) : State :=
  let x := s.link n
  if !s.linkUp n || !x.en then s
  else if x.state = 5 then s.toRetrain n
  else if x.state = 7 then s.trainLink n
  else s

/-- EN is set. -/
def State.enableLink (s : State) (n : Nat) : State :=
  let s1 := s.setLink n { s.link n with en := true }
  if (s.link n).state = 0 && s.linkUp n then s1.trainLink n else s1

/-- EN is cleared (R442). -/
def State.disableLink (s : State) (n : Nat) : State :=
  let s1 := s.linkDown n 0 0 0
  s1.setLink n { s1.link n with en := false }

/-- EN set: DETECT (R423). -/
def execLinkEnable (n : Fin 24) (s : State) : Answer := .next (s.enableLink n.val)

/-- After 1 ms in DETECT the lanes with signal go to LOCK (R423, R424). -/
def execLinkDetectDone (n : Fin 24) (signal : BitVec 5) (s : State) : Answer :=
  let x := s.link n.val
  .next (if x.inPhase 1 && decide (x.trainFrom + 100000 ≤ s.time.toNat) then
    s.setLink n.val { x.goPhase 2 with signalSeen := signal }
  else s)

/-- The good lanes as (lane ID, receive lane), lane IDs rising: signal in DETECT, lock, a valid ID that no other lane carries, good
on the far side too (R424, R426). -/
def goodLanes (seen : BitVec 5) (lanes : List LaneObs) : List (Nat × Nat) :=
  let obs (i : Nat) : Option LaneObs := (lanes[i]?).filter fun o => seen.getLsbD i && o.signal && LaneObs.locked o
  let idOf (i : Nat) : Option Nat := (obs i).bind fun o => LaneObs.id o
  (List.range 5).flatMap fun id =>
    match (List.range 5).filter fun i => idOf i == some id with
    | [i] => if (obs i).any (·.pairGood) then [(id, i)] else []
    | _ => []

/-- A set of lanes as a mask. -/
def laneMask (l : List (Nat × Nat)) : BitVec 5 := l.foldl (fun m e => setBit m e.2 true) 0

/-- LOCK is over, and MAP with it: width, spare and polarity are chosen, or the link fails with FAIL 1 (R424, R426). -/
def Link.map (x : Link) (lanes : List LaneObs) (now : Nat) : Link :=
  let good := goodLanes x.signalSeen lanes
  let inv := (List.range 5).foldl (fun (m : BitVec 5) i =>
    setBit m i ((lanes[i]?).any fun o => x.signalSeen.getLsbD i && o.signal && LaneObs.inverted o)) 0
  let y : Link := { x.goPhase 4 with inv := inv, negSeen := false, negSent := 0, peerNeg := none }
  match good.length with
  | 5 => { y with lanes := laneMask (good.take 4), spare := (good.getD 4 (4, 7)).2, width := 2 }
  | 4 => { y with lanes := laneMask good, spare := 7, width := 2 }
  | 0 => { x.down 7 0 1 now with inv := inv }
  | 1 => { x.down 7 0 1 now with inv := inv }
  | _ => { y with lanes := laneMask (good.take 2), spare := 7, width := 1 }

/-- Every lane with signal has locked or is marked faulty (R424). -/
def execLinkLockDone (n : Fin 24) (lanes : List LaneObs) (s : State) : Answer :=
  let x := s.link n.val
  .next (if x.inPhase 2 then s.setLink n.val (x.map lanes s.time.toNat) else s)

/-- Negotiation has succeeded: the version holds, sequence numbers are 0, credits as the peer declared, held packets to this neighbour
sent again (R11, R429, R430, R443). -/
def State.linkActive (s : State) (n : Nat) (f : NegFlit) : State :=
  let x := s.link n
  let y : Link := { x with state := 5, phase := 0, fail := 0, ver := bestVersion f.supp, peer := f.node.toNat, txSeq := 0, rxSeq := 0
                           lastAck := 0xFFF#12, credits := [f.creq.toNat, f.crsp.toNat, f.ccoll.toNat], freed := [0, 0, 0] }
  ((List.range 24).foldl (fun acc m =>
    let h := acc.link m
    if h.held.isEmpty || h.peer ≠ f.node.toNat then acc
    else (acc.setLink m { h with held := [], resent := satAdd h.resent h.held.length }).queueOn n h.held) (s.setLink n y)).drainWait

/-- Negotiation ends when the peer has seen ours and eight of ours had SEEN set: versions and nodes are checked from the peer's last NEG
flit (R429, R430). -/
def State.endNegotiate (s : State) (n : Nat) : State :=
  let x := s.link n
  match x.peerNeg with
  | some f =>
    if !f.seen || decide (x.negSent < 8) then s
    else if bestVersion f.supp = 0 then s.setLink n { x.down 7 0 2 s.time.toNat with peer := f.node.toNat }
    else if f.node = s.lnk.node then s.setLink n { x.down 7 0 3 s.time.toNat with peer := f.node.toNat }
    else s.linkActive n f
  | none => s

/-- A flit arrives in NEGOTIATE: one whose CRC fails is counted, a NEG flit is the peer's last; corrected symbols are
counted (R429, R430, R435, R437). -/
def execNegFlitRx (n : Fin 24) (bits : BitVec 2048) (fecCorr : Nat) (s : State) : Answer :=
  let x := { s.link n.val with fecCorr := satAdd (s.link n.val).fecCorr fecCorr }
  let f := parseFlit bits
  .next (if !x.inPhase 4 then s
    else if !f.crcOk then s.setLink n.val { x with crcErr := satInc x.crcErr }
    else if f.null && f.neg then (s.setLink n.val { x with negSeen := true, peerNeg := some (parseNeg f) }).endNegotiate n.val
    else s.setLink n.val x)

/-- Training that has not ended 20 ms after DETECT fails with FAIL 4 (R423). -/
def execLinkTrainTimeout (n : Fin 24) (s : State) : Answer :=
  let x := s.link n.val
  .next (if decide (1 ≤ x.phase) && decide (x.state ≠ 5) && decide (x.trainFrom + 2000000 ≤ s.time.toNat) then
    s.setLink n.val (x.down 7 0 4 s.time.toNat)
  else s)

/-- RETRAIN is set (R444). -/
def execLinkRetrain (n : Fin 24) (s : State) : Answer := .next (s.retrainLink n.val)

/-! ### Sparing (R427, R441) -/

/-- A receiver retires a data lane: to the trained spare, or through RETRAIN (R441). -/
def State.retireLane (s : State) (n lane : Nat) : State :=
  let x := s.link n
  if x.state ≠ 5 ∨ 5 ≤ lane ∨ x.lanes.getLsbD lane = false then s
  else if x.spare < 5 then
    (s.setLink n { x with lanes := setBit (setBit x.lanes lane false) x.spare true, spare := 7, swaps := satInc x.swaps }).sendFlits n
      [(x.txSeq, Flit.encode { Flit.plain x.txSeq (x.rxSeq - 1) with null := true, swLane := BitVec.ofNat 3 lane, swap := true })]
  else s.toRetrain n

/-- SPARE_NOW is set with its lane (R441, R462). -/
def execSpareNow (n : Fin 24) (lane : BitVec 3) (s : State) : Answer :=
  .next ((s.setLink n.val { s.link n.val with lane := lane }).retireLane n.val lane.toNat)

/-- A data lane loses lock or passes its threshold (R441). -/
def execLaneRetire (n : Fin 24) (lane : Fin 5) (s : State) : Answer := .next (s.retireLane n.val lane.val)

/-- The spare loses lock while the link is ACTIVE: it is a spare no longer (R427). -/
def execSpareLaneLosesLock (n : Fin 24) (s : State) : Answer :=
  let x := s.link n.val
  .next (if x.state = 5 then s.setLink n.val { x with spare := 7 } else s)

/-! ### Flits (R428, R434 to R439, R603) -/

/-- A replay, or the NAK that asks for one, counts toward the 64 within 1 ms that make the link retrain (R438). -/
def State.noteReplay (s : State) (n : Nat) : State :=
  let x := s.link n
  let l := s.time.toNat :: x.replays.filter fun t => decide (s.time.toNat < t + 100000)
  let s1 := s.setLink n { x with replays := l }
  if 64 ≤ l.length then s1.toRetrain n else s1

/-- The receiver sends NAK once until the expected flit arrives (R438). -/
def State.nakOnce (s : State) (n : Nat) (counts : Bool) : State :=
  let x := s.link n
  if x.nakSent then s
  else
    let s1 := (s.setLink n { x with nakSent := true }).sendFlits n
      [(x.txSeq, Flit.encode { Flit.plain x.txSeq (x.rxSeq - 1) with null := true, nak := true })]
    if counts then s1.noteReplay n else s1

/-- Whether flit `q` comes after `ack` in the order of sequence numbers. -/
def seqAfter (q ack : BitVec 12) : Bool := decide (q ≠ ack) && decide ((q - ack).toNat < 2048)

/-- The sender resends what its replay buffer holds after the last ACK, in order; a flit resent 8 times makes the link retrain (R438). -/
def State.replay (s : State) (n : Nat) : State :=
  let x := s.link n
  let buf := x.buffer.map fun (e : BitVec 12 × Packet × Nat) => (e.1, e.2.1, e.2.2 + 1)
  let s1 := s.setLink n { x with buffer := buf, replayCnt := satInc x.replayCnt }
  let s2 := buf.foldl (fun acc e =>
    acc.sendFlits n ((Packet.flitsOut e.2.1 (e.1 + 1 - BitVec.ofNat 12 (Packet.flits e.2.1)) (x.rxSeq - 1)).filter fun f => seqAfter f.1 x.lastAck)) s1
  if buf.any fun e => decide (8 ≤ e.2.2) then s2.toRetrain n else s2.noteReplay n

/-- Acknowledged packets leave the replay buffer: those whose last flit is not after ACK. -/
def Link.acked (x : Link) (ack : BitVec 12) : Link := { x with lastAck := ack, buffer := x.buffer.filter fun e => !decide ((ack - e.1).toNat < 2048) }

/-- Credits come back on a virtual channel (R439). -/
def Link.credit (x : Link) (cvc : BitVec 2) (n : Nat) : Link :=
  { x with credits := listSet x.credits cvc.toNat (x.credits.getD cvc.toNat 0 + n) }

/-- What the header of a good flit says: acknowledgements, credits, NAK and SWAP (R436, R438, R441). -/
def State.takeHeader (s : State) (n : Nat) (f : Flit) : State :=
  let s1 := s.setLink n (((s.link n).acked f.ack).credit f.cvc f.cred.toNat)
  let s2 := if f.nak || f.swap then s1.replay n else s1
  (s2.drainLink n).drainWait

/-- A flit arrives on an ACTIVE link; REPLAYN of LNK_PERT makes every such data flit fail its CRC (R437, R438, R603). -/
def execFlitRx (n : Fin 24) (r : FlitIn) (s : State) : Answer :=
  let x := s.link n.val
  let f := parseFlit r.bits
  .next (if x.state ≠ 5 then s
    else
      let count := if f.null then x.pertCount else x.pertCount + 1
      let rn := fld x.pert.toNat 0 16
      let inject := !f.null && decide (rn ≠ 0) && decide (count % rn = 0)
      let y : Link := { x with pertCount := count, fecCorr := satAdd x.fecCorr r.fecCorr }
      if !f.crcOk || inject then
        (s.setLink n.val { y with crcErr := satInc y.crcErr }).nakOnce n.val (!f.crcOk || x.pert.getLsbD 16)
      else
        let s1 := (s.setLink n.val y).takeHeader n.val f
        let z := s1.link n.val
        if f.null || z.state ≠ 5 then s1
        else if f.seq = z.rxSeq then s1.setLink n.val { z with rxSeq := z.rxSeq + 1, nakSent := false }
        else s1.nakOnce n.val true)

/-- The NEG flit that a link sends: node, supported versions, receive buffers, width, and whether it has seen the peer's (R430, R439). -/
def State.ownNeg (s : State) (n : Nat) : NegFlit :=
  { node := s.lnk.node, supp := supportedSet, creq := 2048, crsp := 512, ccoll := 4096, width := (s.link n).width, seen := (s.link n).negSeen }

/-- A null flit is sent: it returns freed slots of one virtual channel, the lowest that has some; in NEGOTIATE it is a NEG flit
(R428, R430, R436, R439). -/
def execNullFlitTx (n : Fin 24) (s : State) : Answer :=
  let x := s.link n.val
  .next (if x.state = 5 then
    let vc := ((List.range 3).find? fun v => decide (0 < x.freed.getD v 0)).getD 0
    let k := min 4095 (x.freed.getD vc 0)
    let y : Link := { x with nullGap := 0, freed := listSet x.freed vc (x.freed.getD vc 0 - k) }
    let f : Flit := { Flit.plain x.txSeq (x.rxSeq - 1) with null := true, cvc := BitVec.ofNat 2 vc, cred := BitVec.ofNat 12 k }
    (((s.setLink n.val y).sendFlits n.val [(x.txSeq, Flit.encode f)]).drainLink n.val).drainWait
  else if x.inPhase 4 then
    let f : Flit := { Flit.plain 0 0xFFF#12 with null := true, neg := true, slots := negBytes (s.ownNeg n.val) }
    ((s.setLink n.val { x with negSent := if x.negSeen then x.negSent + 1 else x.negSent }).sendFlits n.val [(0, Flit.encode f)]).endNegotiate n.val
  else s)

/-! ### Leaving ACTIVE (R442, R443) -/

/-- An ACTIVE link leaves ACTIVE for a cause (R442). -/
def execLinkLeaveActive (n : Fin 24) (cause : LeaveCause) (s : State) : Answer :=
  .next (if (s.link n.val).state ≠ 5 then s
    else match cause with
      | .retrain => s.toRetrain n.val
      | .failed => s.linkDown n.val 7 0 0
      | .fenced => s.fence (unitId 5 n.val) false
      | .disabled => s.disableLink n.val)

/-- A bandstand command fails: BND_ERR, the queue discarded, the job torn down with cause 7 (R457). -/
def State.bndFail (s : State) (d : Nat) (tag : BitVec 32) (code : Nat) : State :=
  (s.setBand d { s.band d with err := BitVec.ofNat 8 code, errTag := tag, q := [], running := none }).requestTeardown 7 none

/-- The fault against the running job whose packets were lost (R443, R457): its collective fails with ERR 0x07, or it resumes from
its checkpoint, or, serving, it is torn down. -/
def State.lostPackets (s : State) (lost : List Packet) : State :=
  let own := lost.filter fun p => p.src == s.lnk.node && [1, 2, 5].contains p.type.toNat
  let s1 := { s with lnk := { s.lnk with remote := s.lnk.remote.filter fun e =>
    !(own.any fun p => decide (p.type.toNat ≠ 5) && decide (p.tag.toNat = e.1)) } }
  let hit := (List.range 2).find? fun d => match (s1.band d).running with
    | some r => own.any fun p => decide (p.type.toNat = 5) && decide (fld p.addr.toNat 0 32 = fld r.item.toNat 192 32)
    | none => false
  match hit with
  | some d => s1.bndFail d (BitVec.ofNat 32 (fld (((s1.band d).running.map fun r => r.item.toNat).getD 0) 256 32)) 7
  | none =>
    if own.isEmpty then s1
    else if s1.servingRuns then s1.requestTeardown 7 none
    else s1.restoreCheckpoint

/-- Packets held 100 ms are discarded (R443). -/
def execHeldPacketTimeout (n : Fin 24) (s : State) : Answer :=
  let x := s.link n.val
  .next (if x.held.isEmpty || decide (s.time.toNat < x.heldAt + 10000000) then s
    else (s.setLink n.val { x with held := [], fail := 5 }).lostPackets x.held)

/-- The 1 ms of duplicate detection ends (R442). -/
def execResentWindowExpire (n : Fin 24) (s : State) : Answer :=
  let x := s.link n.val
  .next (if x.leftSeq.isSome && decide (x.leftAt + 100000 ≤ s.time.toNat) then s.setLink n.val { x with leftSeq := none } else s)

/-! ### Packets that arrive (R432, R439, R440, R442, R445 to R449) -/

/-- A RESENT packet that the module has already accepted on the link that left (R442). -/
def State.accepted (s : State) (p : Packet) : Bool :=
  let x := s.link p.origLink.toNat
  p.resent && decide (s.time.toNat < x.leftAt + 100000) && (x.leftSeq.any fun k => decide ((k - p.origSeq).toNat < 2048))

/-- Slots of a link's receive buffer become free (R439). -/
def State.freeSlots (s : State) (n vc k : Nat) : State :=
  let x := s.link n
  s.setLink n { x with freed := listSet x.freed vc (x.freed.getD vc 0 + k) }

/-- A packet for another node goes on, as a new packet, unless HOPS reaches 7 (R432, R442). -/
def State.forward (s : State) (n : Nat) (p : Packet) : State :=
  if p.hops.toNat + 1 = 7 then
    let s1 := s.setLink n { s.link n with dropped := satInc (s.link n).dropped }
    if p.type = 1#4 ∨ p.type = 2#4 then s1.sendPacket (s1.reply 4 p.src.toNat p.tag.toNat 5) else s1
  else s.sendPacket { p with hops := p.hops + 1, resent := false }

/-- A packet of type `ty` arrives on an ACTIVE link: its slots become free, a packet accepted before is dropped, one for another
node forwarded, one for this module taken. -/
def State.rxPacket (s : State) (n ty : Nat) (p : Packet) (own : State → State) : State :=
  if (s.link n).state ≠ 5 ∨ p.type.toNat ≠ ty then s
  else
    let s1 := s.freeSlots n (Packet.vc p) (Packet.slots p)
    if s1.accepted p then s1
    else if p.dst = s1.lnk.node then own s1
    else s1.forward n p

/-- Bit SRC of LNK_ALLOW (R448, R460). -/
def State.allowed (s : State) (node : Nat) : Bool := (mget 0 s.lnk.allow (node / 64)).getLsbD (node % 64)

/-- A write or signal is refused here (R448, R459). -/
def State.refuseInbound (s : State) (p : Packet) : State :=
  ({ s with lnk := { s.lnk with inbound := satInc s.lnk.inbound } }).sendPacket (s.reply 4 p.src.toNat p.tag.toNat 1)

/-- Whether a WRITE may be performed (R448). -/
def State.writeOk (s : State) (p : Packet) : Bool :=
  s.allowed p.src.toNat && (decide (s.job.state = 2) || decide (s.job.state = 3)) && decide (spaceOf p.addr.toNat ≤ 2) &&
    s.populatedRange p.addr.toNat p.data.length

/-- A WRITE is performed, counted and acknowledged, or refused (R448, R449); one to a scratchpad is on its way to its tile, in granules,
and one to stack memory on its way to its controllers; both are acknowledged when the last granule is performed (R32, R203, R449). -/
def State.takeWrite (s : State) (p : Packet) : State :=
  if s.writeOk p then
    match decodeAddr p.addr.toNat with
    | some (.spad t _) =>
      let x := s.tile t
      let msgs := (granulePieces p.addr.toNat p.data).map fun g =>
        ({ addr := g.1 % 2 ^ 23, bs := g.2, mask := 0xFF#8, poison := false, acid := if p.ac then some p.acid.toNat else none
           tile := peerSender, effId := p.src.toNat * 2 ^ 20 + p.tag.toNat } : InMsg)
      (s.setTile t { x with inbox := x.inbox ++ msgs }).wakeTile t
    | some (.stack _) =>
      (granulePieces p.addr.toNat p.data).foldl (fun acc g =>
        match acc.resolve (g.1 % 2 ^ 52) with
        | some q => acc.sendAccess q (.write g.2 0xFF#8 false) (.peer p.src.toNat p.tag.toNat)
        | none => acc) s
    | _ =>
      let s1 := s.performPieces [(p.addr.toNat, p.data, 0xFF#8)] fun _ => false
      s1.sendPacket (s1.reply 3 p.src.toNat p.tag.toNat 0)
  else s.refuseInbound p

/-- A WRITE packet arrives. -/
def execWritePktRx (n : Fin 24) (p : Packet) (s : State) : Answer := .next (s.rxPacket n.val 1 p fun s => s.takeWrite p)

/-- A SIGNAL goes to the semaphore unit, or with a threshold to its destination tile (R440, R447, R448). -/
def State.takeSignal (s : State) (p : Packet) : State :=
  let f (o w : Nat) : Nat := byteField p.data o w
  let amount := sext 64 (f 0 8)
  let sem := f 8 2
  let scope := fld (f 10 1) 0 2
  let src := SigSrc.peer p.src.toNat p.tag
  let party := partyId 5 p.src.toNat
  let t := fld p.addr.toNat 0 10
  if !s.allowed p.src.toNat || (p.ac && decide (96 ≤ t)) then s.refuseInbound p
  else if p.ac then
    let sig : ThrSig := { ac := p.acid.toNat, thr := BitVec.ofNat 32 (f 12 4), sem := sem, amount := amount, scope := scope
                          party := party, src := src, effId := 0 }
    (s.setTile t { s.tile t with thrPort := (s.tile t).thrPort ++ [sig] }).wakeTile t
  else s.sendSignal src party scope sem amount 0

/-- A SIGNAL packet arrives. -/
def execSignalPktRx (n : Fin 24) (p : Packet) (s : State) : Answer := .next (s.rxPacket n.val 2 p fun s => s.takeSignal p)

/-- An ACK: the remote effect has been performed (R449). -/
def execAckPktRx (n : Fin 24) (p : Packet) (s : State) : Answer := .next (s.rxPacket n.val 3 p fun s => s.remoteDone p.tag.toNat)

/-- A REFUSE is counted; a refused signal becomes a deferred halt of its tile; the effect counts as performed (R448). -/
def State.takeRefuse (s : State) (p : Packet) : State :=
  let s1 := { s with lnk := { s.lnk with outbound := satInc s.lnk.outbound } }
  let c := p.code.toNat
  let s2 := match oget s1.lnk.remote p.tag.toNat with
    | some r =>
      if 2 ≤ c ∧ c ≤ 4 then
        let t := s1.tile r.1
        s1.setTile r.1 (t.refuse (0x50 + c - 2) (t.originOf r.2.1) r.2.2)
      else s1
    | none => s1
  s2.remoteDone p.tag.toNat

/-- A REFUSE packet arrives. -/
def execRefusePktRx (n : Fin 24) (p : Packet) (s : State) : Answer := .next (s.rxPacket n.val 4 p fun s => s.takeRefuse p)

end Sys2Proof.Machine
end

