-- ==== Sys2Proof/Machine/Bandstand.lean ====
section
/-! DEFINITION. The bandstand's collectives (R451 to R458, R463). -/

namespace Sys2Proof.Machine

/-! ### Commands and groups (R451, R452) -/

/-- The fields of a bandstand command (R452). -/
structure BndCmd where
  op : Nat
  dtype : Nat
  group : Nat
  root : Nat
  count : Nat
  src : Nat
  dst : Nat
  cseq : Nat
  sem : Nat
  sig : Bool
  ac : Bool
  acid : Nat
  tag : BitVec 32
deriving DecidableEq, Repr

def bndCmd (item : BitVec 2048) : BndCmd :=
  let it := toBytes 256 item.toNat
  let f (o n : Nat) : Nat := byteField it o n
  { op := f 0 1, dtype := f 1 1, group := fld (f 2 1) 0 4, root := fld (f 3 1) 0 6, count := f 4 4, src := f 8 7, dst := f 0x10 7
    cseq := f 0x18 4, sem := f 0x1C 2, sig := (f 0x1E 1).testBit 0, ac := (f 0x1E 1).testBit 1, acid := fld (f 0x1F 1) 0 6
    tag := BitVec.ofNat 32 (f 0x20 4) }

/-- The command bytes that the first COLL packet carries (R453). -/
def cmdBytes (item : BitVec 2048) : List Byte := toBytes 8 item.toNat

/-- Element width (R452). -/
def BndCmd.width (c : BndCmd) : Nat := if c.dtype = 1 then 4 else if c.dtype = 3 then 2 else 1

/-- A command that sums. -/
def BndCmd.reduces (c : BndCmd) : Bool := decide (c.op ≤ 2)

/-- Members P of a group, and the module's own rank (R451). -/
def Bandstand.members (b : Bandstand) (g : Nat) : Nat := fld (mget 0 b.grp g).toNat 0 6 + 1
def Bandstand.rank (b : Bandstand) (g : Nat) : Nat := fld (mget 0 b.grp g).toNat 8 6

/-- The node of a rank (R451). -/
def Bandstand.nodeOf (b : Bandstand) (g i : Nat) : Nat := (mget 0 b.gmem (64 * g + i)).toNat

/-- The node of the next member of the forward ring, or of the reverse ring (R454). -/
def Bandstand.next (b : Bandstand) (g : Nat) (fwd : Bool) : Nat :=
  let p := b.members g
  b.nodeOf g (if fwd then (b.rank g + 1) % p else (b.rank g + p - 1) % p)

/-- Bytes of SRC and DST (R452). -/
def BndCmd.srcBytes (c : BndCmd) : Nat := c.count * c.width
def BndCmd.dstBytes (c : BndCmd) (p : Nat) : Nat :=
  match c.op with
  | 2 => c.count / p * c.width
  | 3 => p * c.count * c.width
  | _ => c.count * c.width

/-- Whether this member reads SRC: for BROADCAST only the root does. -/
def BndCmd.reads (c : BndCmd) (rank : Nat) : Bool := decide (c.op ≠ 4) || decide (c.root = rank)

/-- The first check that a command fails when it starts (R457). -/
def State.bndError (s : State) (d : Nat) (c : BndCmd) : Option Nat :=
  let b := s.band d
  let p := b.members c.group
  let n := c.dstBytes p
  let reads := c.reads (b.rank c.group)
  let meets := reads && decide (c.src < c.dst + n) && decide (c.dst < c.src + c.srcBytes)
  if c.op = 0 ∨ 4 < c.op ∨ !([1, 3].contains c.dtype || (c.dtype == 9 && decide (3 ≤ c.op))) then some 1
  else if !(mget 0 b.grp c.group).getLsbD 16 || (decide (c.op = 4) && decide (p ≤ c.root)) || decide (c.count = 0) || decide (2 ^ 28 < c.count) ||
      (decide (c.op = 2) && decide (c.count % p ≠ 0)) then some 2
  else if (reads && !s.tmbRange c.src c.srcBytes) || !s.tmbRange c.dst n || (c.ac && decide (spaceOf c.dst ≠ 2)) then some 3
  else if meets && !(decide (c.src = c.dst) && (decide (c.op = 1) || decide (c.op = 4))) then some 4
  else if c.sig && !s.quotaOk (.bandstand d c.tag) c.sem then some 6
  else none

/-! ### The rings (R454, R455) -/

/-- ACTIVE links toward a node. -/
def State.activeTo (s : State) (node : Nat) : List Nat := (s.routeTo node).getD []

/-- The links that the running command of a bandstand uses. -/
def State.linksUsed (s : State) (d : Nat) : List Nat :=
  match (s.band d).running with
  | some r =>
    let g := (bndCmd r.item).group
    s.activeTo ((s.band d).next g true) ++ (if r.two then s.activeTo ((s.band d).next g false) else [])
  | none => []

/-- Two rings: an ACTIVE link to the successor and one to the predecessor that the other bandstand's command does not use (R454). -/
def State.twoRings (s : State) (d : Nat) (c : BndCmd) : Bool :=
  let used := s.linksUsed (1 - d)
  let free (fwd : Bool) : Bool := (s.activeTo ((s.band d).next c.group fwd)).any fun n => !used.contains n
  decide (c.op ≠ 4) && free true && free false

/-- A running command with its command, members and rank. -/
structure Ring where
  c : BndCmd
  p : Nat
  r : Nat
  two : Bool
deriving DecidableEq, Repr

def State.ring (s : State) (d : Nat) (x : BndRun) : Ring :=
  let c := bndCmd x.item
  { c := c, p := (s.band d).members c.group, r := (s.band d).rank c.group, two := x.two }

/-- Steps in which a member receives (R458). -/
def Ring.steps (k : Ring) : Nat :=
  match k.c.op with
  | 1 => 2 * (k.p - 1)
  | 4 => if k.r = k.c.root then 0 else 1
  | _ => k.p - 1

/-- Whether a step sums: the first P − 1 of a reduction. -/
def Ring.summing (k : Ring) (step : Nat) : Bool := k.c.reduces && decide (step < k.p - 1)

/-- The chunk, or block, that a member receives in a step: sums move one rank on in each step, so that chunk c starts at rank c + 1 of the
forward ring and at rank c − 1 of the reverse one; completed chunks follow in the same order (R454). -/
def Ring.chunkIn (k : Ring) (fwd : Bool) (step : Nat) : Nat :=
  let j := if k.summing step then step + 2 else (if k.c.reduces then step - (k.p - 1) else step) + 1
  if fwd then (k.r + 2 * k.p - j) % k.p else (k.r + j) % k.p

/-- The chunk that a member sends first. -/
def Ring.chunkFirst (k : Ring) (fwd : Bool) : Nat :=
  let j := if k.c.reduces then 1 else 0
  if fwd then (k.r + k.p - j) % k.p else (k.r + j) % k.p

/-- Which ring a chunk takes: all the forward one, or with two rings the even chunks the forward and the odd the reverse one. -/
def Ring.takes (k : Ring) (fwd : Bool) (chunk : Nat) : Bool := if k.two then fwd == (chunk % 2 == 0) else fwd

/-- First element and elements of a chunk: chunks of a sum have ceil(N ÷ P) elements; a block, or a broadcast, is all of SRC. -/
def Ring.extent (k : Ring) (chunk : Nat) : Nat × Nat :=
  if k.c.reduces then
    let q := cdiv k.c.count k.p
    (chunk * q, min q (k.c.count - chunk * q))
  else (0, k.c.count)

/-- Bytes that travel in a step: binary32 while summing (R455), DTYPE otherwise. -/
def Ring.stepBytes (k : Ring) (step chunk : Nat) : Nat := (k.extent chunk).2 * (if k.summing step then 4 else k.c.width)

/-- Where a chunk stands in DST. -/
def Ring.place (k : Ring) (chunk : Nat) : Nat :=
  match k.c.op with
  | 1 => (k.extent chunk).1 * k.c.width
  | 3 => chunk * k.c.count * k.c.width
  | _ => 0

/-- Elements as binary32 (R455). -/
def widenBytes (dtype w : Nat) (bs : List Byte) : List Lane :=
  (chunks w bs.length bs).map fun x => if dtype = 3 then enc32 (decodeFloat fmtBF16 (ofBytes x)) else BitVec.ofNat 32 (ofBytes x)

/-- Binary32 elements as DTYPE, a BF16 result rounded once by mode 0 (R121, R455). -/
def narrowBytes (dtype : Nat) (l : List Lane) : List Byte :=
  l.flatMap fun x => if dtype = 3 then toBytes 2 (encodeFloat fmtBF16 0 (dec32 x)) else toBytes 4 x.toNat

/-- Binary32 elements as they travel. -/
def laneBytes (l : List Lane) : List Byte := l.flatMap fun x => toBytes 4 x.toNat

/-- The module's own elements of a chunk. -/
def Ring.ownChunk (k : Ring) (own : List Byte) (chunk : Nat) : List Byte :=
  let e := k.extent chunk
  (own.drop (e.1 * k.c.width)).take (e.2 * k.c.width)

/-- Bytes written into a result. -/
def putBytes (l : List Byte) (o : Nat) (bs : List Byte) : List Byte := l.take o ++ bs ++ l.drop (o + bs.length)

/-- Sends the bytes of a ring step as COLL packets of up to 256 bytes; the first packet of a command carries the command (R440, R453). -/
def State.sendStep (s : State) (d : Nat) (fwd : Bool) (step : Nat) (bs : List Byte) : State :=
  match (s.band d).running with
  | none => s
  | some x =>
    let c := bndCmd x.item
    let node := (s.band d).next c.group fwd
    let pieces := (chunks 256 bs.length bs).mapIdx fun i b =>
      ({ type := 5, resent := false, hops := 0, dst := BitVec.ofNat 12 node, src := s.lnk.node, bytes := BitVec.ofNat 8 (b.length - 1)
         acid := 0, ac := false, tag := BitVec.ofNat 20 i, addr := BitVec.ofNat 56 (c.cseq + c.group * 2 ^ 32 + step % 64 * 2 ^ 36)
         code := 0, origLink := 0, origSeq := 0
         data := if i = 0 && !x.sentFirst then cmdBytes x.item ++ b else b } : Packet)
    let s1 := s.setBand d { s.band d with running := some { x with sentFirst := x.sentFirst || !pieces.isEmpty } }
    pieces.foldl (fun acc p => acc.sendPacket p) s1

/-- What a member sends in step 0 of a ring, if anything. -/
def Ring.firstBytes (k : Ring) (fwd : Bool) (own : List Byte) : Option (List Byte) :=
  let chunk := k.chunkFirst fwd
  if decide (k.p = 1) || !k.takes fwd chunk || (decide (k.c.op = 4) && decide (k.r ≠ k.c.root)) then none
  else if k.c.reduces then some (laneBytes (widenBytes k.c.dtype k.c.width (k.ownChunk own chunk)))
  else some own

/-! ### What arrives (R453 to R457) -/

/-- Bytes of COLL data that a bandstand holds. -/
def Bandstand.collBytes (b : Bandstand) : Nat := b.coll.foldl (fun n p => n + p.data.length) 0

/-- Room again in the 2 MiB buffer: the credits withheld go back (R456). -/
def State.returnCredits (s : State) (d : Nat) : State :=
  let b := s.band d
  if 2097152 < b.collBytes then s
  else b.credits.foldl (fun acc e => acc.freeSlots e.1 2 e.2) (s.setBand d { b with credits := [] })

/-- Whether a packet carries its command in front of its data. -/
def Packet.hasCmd (p : Packet) : Bool := decide (p.data.length = p.bytes.toNat + 9)

/-- The packets of one ring step, in order; none while one is missing. -/
def Bandstand.stepPackets (b : Bandstand) (c : BndCmd) (node step n : Nat) : Option (List Packet) :=
  let mine := b.coll.filter fun p => decide (p.src.toNat = node) &&
    decide (fld p.addr.toNat 0 42 = c.cseq + c.group * 2 ^ 32 + step % 64 * 2 ^ 36)
  let got := (List.range n).filterMap fun i => mine.find? fun p => decide (p.tag.toNat = i)
  if got.length = n then some got else none

/-- One step of a ring, if its packets have all arrived: a sum takes the member's own elements, and what the next member needs is sent
on; a different command of the sender is ERR 0x05 (R453 to R455). -/
def State.ringStep (s : State) (d : Nat) (fwd : Bool) : State :=
  let b := s.band d
  match b.running with
  | none => s
  | some x =>
    let k := s.ring d x
    let step := if fwd then x.fwd else x.rev
    if k.steps ≤ step then s
    else
      let chunk := k.chunkIn fwd step
      let bump (y : BndRun) : BndRun := if fwd then { y with fwd := y.fwd + 1 } else { y with rev := y.rev + 1 }
      if !k.takes fwd chunk then s.setBand d { b with running := some (bump x) }
      else
        match b.stepPackets k.c (b.next k.c.group !fwd) step (cdiv (k.stepBytes step chunk) 256) with
        | none => s
        | some ps =>
          if ps.any fun p => Packet.hasCmd p && decide (p.data.take 8 ≠ cmdBytes x.item) then s.bndFail d k.c.tag 5
          else
            let bs := ps.flatMap fun p => if Packet.hasCmd p then p.data.drop 8 else p.data
            let coll := b.coll.filter fun p => !ps.contains p
            let last := decide (step + 1 = k.steps)
            if k.summing step then
              let own := widenBytes k.c.dtype k.c.width (k.ownChunk x.own chunk)
              let sum := (widenBytes 1 4 bs).zipWith f32Add own
              if step + 2 = k.p then
                let out := narrowBytes k.c.dtype sum
                let y := bump { x with result := putBytes x.result (k.place chunk) out }
                let s1 := (s.setBand d { b with coll := coll, running := some y }).returnCredits d
                if last then s1 else s1.sendStep d fwd (step + 1) out
              else ((s.setBand d { b with coll := coll, running := some (bump x) }).returnCredits d).sendStep d fwd (step + 1) (laneBytes sum)
            else
              let y := bump { x with result := putBytes x.result (k.place chunk) bs }
              let s1 := (s.setBand d { b with coll := coll, running := some y }).returnCredits d
              let on := if k.c.op = 4 then decide ((k.r + 1) % k.p ≠ k.c.root) else !last
              if on then s1.sendStep d fwd (if k.c.op = 4 then 0 else step + 1) bs else s1

/-- Both rings go on as far as what has arrived lets them. -/
def State.pumpRings (s : State) (d : Nat) : Nat → State
  | 0 => s
  | fuel + 1 => ((s.ringStep d true).ringStep d false).pumpRings d fuel

/-- The most steps that a command has. -/
def maxRingSteps : Nat := 126

/-! ### Rows -/

/-- The bandstand, idle, takes the command at the head of its queue: one of another operation waits for its own row; one in error is
refused (R456, R457). -/
def State.bndStart (s : State) (d op : Nat) : State :=
  let b := s.band d
  match b.q, b.running with
  | x :: rest, none =>
    let c := bndCmd x.2
    if !s.unitUp (unitId 7 d) || !s.stacksOpen (granulesOf c.src c.srcBytes) then s
    else match s.bndError d c with
      | some code => s.bndFail d c.tag code
      | none =>
        if c.op ≠ op then s
        else
          let rank := b.rank c.group
          let src := if c.reads rank then s.fetchBytes c.src c.srcBytes else (s, [], false)
          let p := b.members c.group
          let s0 := src.1
          let run : BndRun := { tile := x.1, item := x.2, two := s0.twoRings d c, own := src.2.1, result := [], fwd := 0, rev := 0
                                sentFirst := false, poison := src.2.2 }
          let k := s0.ring d run
          let empty : List Byte := List.replicate (c.dstBytes p) 0
          let init := match c.op with
            | 3 => putBytes empty (k.place rank) run.own
            | 4 => run.own
            | _ => if p = 1 then run.own else empty
          let y := { run with result := init, rev := if run.two then 0 else k.steps }
          let s1 := (s0.setBand d { s0.band d with q := rest, running := some y }).cmdStart (unitId 7 d) c.tag.toNat
          let send (s : State) (fwd : Bool) : State := match k.firstBytes fwd run.own with
            | some bs => s.sendStep d fwd 0 bs
            | none => s
          (send (send s1 true) false).pumpRings d maxRingSteps
  | _, _ => s

/-- ALLREDUCE starts (R452, R454). -/
def execAllreduce (d : Fin 2) (s : State) : Answer := .next (s.bndStart d.val 1)

/-- REDUCESCATTER starts. -/
def execReducescatter (d : Fin 2) (s : State) : Answer := .next (s.bndStart d.val 2)

/-- ALLGATHER starts. -/
def execAllgather (d : Fin 2) (s : State) : Answer := .next (s.bndStart d.val 3)

/-- BROADCAST starts. -/
def execBroadcast (d : Fin 2) (s : State) : Answer := .next (s.bndStart d.val 4)

/-- Whether a bandstand runs or queues the command that a COLL packet belongs to. -/
def Bandstand.expects (b : Bandstand) (p : Packet) : Bool :=
  let is (item : BitVec 2048) : Bool := decide (fld p.addr.toNat 0 36 = (bndCmd item).cseq + (bndCmd item).group * 2 ^ 32)
  b.running.any (fun r => is r.item) || b.q.any fun e => is e.2

/-- The bandstand that a COLL packet goes to: the one whose command it names, else that of the link die it arrives at (log entry 43). -/
def State.bandFor (s : State) (n : Nat) (p : Packet) : Nat :=
  let d := n / 12
  if (s.band d).expects p then d else if (s.band (1 - d)).expects p then 1 - d else d

/-- A COLL packet is held, with its credits unless the buffer is full, and the rings go on (R454, R456). -/
def State.takeColl (s : State) (n : Nat) (p : Packet) : State :=
  let d := s.bandFor n p
  let b := s.band d
  let s1 := s.setBand d { b with coll := b.coll ++ [p] }
  let k := Packet.slots p
  let s2 := if b.collBytes + p.data.length ≤ 2097152 then s1.freeSlots n 2 k
    else s1.setBand d { s1.band d with credits := mput 0 b.credits n (mget 0 b.credits n + k) }
  s2.pumpRings d maxRingSteps

/-- A COLL packet arrives. -/
def execCollPktRx (n : Fin 24) (p : Packet) (s : State) : Answer :=
  .next (if (s.link n.val).state ≠ 5 ∨ p.type ≠ 5#4 then s
    else if s.accepted p then s.freeSlots n.val 2 (Packet.slots p)
    else if p.dst = s.lnk.node then s.takeColl n.val p
    else (s.freeSlots n.val 2 (Packet.slots p)).forward n.val p)

/-- The collective is over: DST is written, the arrival counter rises, and then the signal leaves (R456). -/
def execBndCmdComplete (d : Fin 2) (s : State) : Answer :=
  let b := s.band d.val
  .next (match b.running with
    | none => s
    | some x =>
      let k := s.ring d.val x
      if x.fwd < k.steps ∨ x.rev < k.steps ∨ !s.unitUp (unitId 7 d.val) ∨ !s.stacksOpen (granulesOf k.c.dst x.result.length) then s
      else if !s.portOpen k.c.dst then s.wakePort k.c.dst
      else
        let pcs := [(k.c.dst, x.result, 0xFF#8)]
        let s1 := s.performPieces pcs fun _ => x.poison
        let s2 := (s1.setBand d.val { s1.band d.val with running := none, commands := satInc b.commands, tag := k.c.tag }).cmdEnd (unitId 7 d.val) k.c.tag.toNat
        let s3 := if k.c.ac then s2.arrivePieces k.c.acid pcs else s2
        if k.c.sig then s3.sendSignal (.bandstand d.val k.c.tag) (partyId 0 x.tile) 1 k.c.sem 1 0 else s3)

end Sys2Proof.Machine
end

