-- ==== Sys2Proof/Machine/Interrupts.lean ====
section
/-! DEFINITION. The Lodge's stewards, interrupt controller and status events, and the read-back of fenced units
(R27 to R30, R493 to R506, R518 to R522). -/

namespace Sys2Proof.Machine

/-- Whether a steward is enabled. -/
def State.stwOn (s : State) (k : Nat) : Bool := s.lodge.stwEn.getLsbD k

/-! ### Heartbeats and failover (R497 to R500) -/

/-- The claimant of the last grant takes over the duties of disabled stewards, each from its last state, points their sources at itself and
ends round-robin mode (R495, R499). -/
def State.takeOver (s : State) (k : Nat) (lost : BitVec 16) : State :=
  if s.lodge.rr && decide (s.lodge.claimant.toNat = k) && !s.stwOn s.lodge.claimVictim.toNat then
    let resume (s : State) (d : Nat) : State := match s.dutyState d lost with
      | some n => { s with lodge := { s.lodge with dutyMem := mput (0, 0) s.lodge.dutyMem d (n, n) } }
      | none => s
    let s1 := (List.range 8).foldl (fun acc d => if acc.stwOn (acc.dutyOwner d) then acc else (resume acc d).setDuty d k) s
    let s2 := s1.lodge.ints.foldl (fun acc e =>
      if acc.stwOn e.2.target.toNat then acc else acc.setIntSrc e.1 { e.2 with target := BitVec.ofNat 2 k }) s1
    { s2 with lodge := { s2.lodge with rr := false } }
  else s

/-- Steward k writes its heartbeat, which is dropped while it is fenced; a claimant has taken over by its next heartbeat, which names
the copies of duty states that it finds uncorrectable (R495, R497 to R499; log entry 44). -/
def execHeartbeat (k : Fin 4) (beat : Beat) (s : State) : Answer :=
  let x := s.steward k.val
  .next (if !s.stwOn k.val then s
    else (s.setSteward k.val { x with hb := beat.count, lastTime := if beat.count = x.hb then x.lastTime else s.time.truncate 32 }).takeOver k.val beat.lost)

/-- The controller grants a claim on an enabled victim (R498); a failover ends an image's proof (R565). -/
def State.grantClaim (s : State) (k victim : Nat) : State :=
  if !s.stwOn k || !s.stwOn victim then s
  else
    let s1 := s.fence (unitId 8 victim) false
    ({ s1 with lodge := { s1.lodge with rr := true, claimVictim := BitVec.ofNat 2 victim, claimant := BitVec.ofNat 2 k
                                        activatedAt := none } }).hostEvent 2

/-- A heartbeat that has not advanced for 3 ms makes the steward that sees it claim the victim (R497). -/
def execHeartbeatTimeout (k victim : Fin 4) (s : State) : Answer :=
  .next (if 300000 ≤ (s.time.truncate 32 - (s.steward victim.val).lastTime : BitVec 32).toNat then s.grantClaim k.val victim.val else s)

/-- A write to LDG_STW_CLAIM (R498). -/
def execFailoverClaim (k victim : Fin 4) (s : State) : Answer := .next (s.grantClaim k.val victim.val)

/-- A fenced steward's self-test ends: ONLINE and enabled without a duty, or, failed or fenced twice within 86,400 s, RETIRED (R500). -/
def State.stewardTested (s : State) (k : Nat) (passed : Bool) : State :=
  let x := s.steward k
  let u := unitId 8 k
  if !x.inReset || (s.unit u).allowed ≠ 4 then s
  else if passed && !x.twice then
    let s1 := (s.setSteward k { x with inReset := false, running := 16, lastTime := s.time.truncate 32 }).allow u 2
    let s2 := { s1 with lodge := { s1.lodge with stwEn := setBit s1.lodge.stwEn k true } }
    if s2.servingRuns then s2 else s2.giveDuties
  else
    let s1 := s.allow u 5
    { s1 with lodge := { s1.lodge with activatedAt := none } }

def execStewardSelftestDone (k : Fin 4) (passed : Bool) (s : State) : Answer := .next (s.stewardTested k.val passed)

/-! ### The interrupt controller (R501 to R506) -/

/-- A write to LDG_INT_DB: tile bells need TILEOK, doorbells of the host HOSTOK, a fenced steward's write is dropped (R498, R501, R502). -/
def State.fireFrom (s : State) (source : Nat) (origin : IntOrigin) : State :=
  match origin with
  | .lodge => s.fireInt source
  | .tile => if (s.intSrc source).tileOk then s.fireInt source else s.dropBell
  | .host => if (s.intSrc source).hostOk then s.fireInt source else s.dropBell
  | .steward k => if s.stwOn k.val then s.fireInt source else s

def execIntFire (source : BitVec 11) (origin : IntOrigin) (s : State) : Answer := .next (s.fireFrom source.toNat origin)

/-- Pending and enabled, and assigned to nobody (R502). -/
def IntSrc.offerable (x : IntSrc) : Bool := decide (x.count ≠ 0#8) && !x.inSvc && x.en && !x.offered

/-- The steward that a source goes to: the next enabled one in turn, or TARGET, or the lowest enabled (R503). -/
def State.assignee (s : State) (x : IntSrc) : Option Nat :=
  if s.lodge.rr then ((List.range 4).map fun i => (s.lodge.rrLast + 1 + i) % 4).find? fun k => s.stwOn k
  else if s.stwOn x.target.toNat then some x.target.toNat
  else (List.range 4).find? fun k => s.stwOn k

/-- Two Lodge cycles after its firing a source is assigned to a steward, until it is claimed (R503, R506). -/
def execIntOffer (source : BitVec 11) (dt : Nat) (s : State) : Answer :=
  let x := s.intSrc source.toNat
  .next (if !x.offerable || decide (dt < 2) then s
    else match s.assignee x with
      | none => s
      | some k =>
        let s1 := s.setIntSrc source.toNat { x with offered := true, owner := BitVec.ofNat 2 k }
        { s1 with lodge := { s1.lodge with rrLast := k } })

/-- The source that steward k would claim: the lowest PRIO below its running priority, then the lowest number (R504). -/
def State.claimable (s : State) (k : Nat) : Option (Nat × IntSrc) :=
  s.lodge.ints.foldl (fun (best : Option (Nat × IntSrc)) e =>
    if e.2.offered && e.2.en && !e.2.inSvc && decide (e.2.owner.toNat = k) && decide (e.2.count ≠ 0#8) &&
        decide (e.2.prio.toNat < (s.steward k).running) then
      match best with
      | some b => if e.2.prio.toNat < b.2.prio.toNat then some e else best
      | none => some e
    else best) none

/-- A read of LDG_INT_CLAIM_k (R504, R520). -/
def execIntClaim (k : Fin 4) (s : State) : Answer :=
  .next (if !s.stwOn k.val then s.send (.claim k.val 0)
    else match s.claimable k.val with
      | none => s.send (.claim k.val 0)
      | some (n, x) =>
        let w := s.steward k.val
        let s1 := s.setSteward k.val { w with running := x.prio.toNat, stack := (w.running, n) :: w.stack }
        (s1.setIntSrc n { x with count := 0, inSvc := true, offered := false }).send
          (.claim k.val (BitVec.ofNat 64 (n + x.prio.toNat * 2 ^ 11 + 2 ^ 15 + x.count.toNat * 2 ^ 16))))

/-- A write of LDG_INT_EOI_k: the service ends and the stack is popped; of a source not in service on k it only counts (R504). -/
def execIntEoi (k : Fin 4) (source : BitVec 11) (s : State) : Answer :=
  let x := s.intSrc source.toNat
  let w := s.steward k.val
  .next (if !s.stwOn k.val then s
    else if x.inSvc && decide (x.owner.toNat = k.val) then
      let r := match w.stack with
        | p :: rest => { w with running := p.1, stack := rest }
        | [] => { w with running := 16 }
      (s.setSteward k.val r).setIntSrc source.toNat { x with inSvc := false }
    else s.setSteward k.val { w with eoiErr := satInc w.eoiErr })

/-! ### Status events (R27, R505, R521) -/

/-- Whether a unit identifier names a unit (R24). -/
def isUnit (u : Nat) : Bool := decide (u % 4096 < unitCount (u / 4096))

/-- A unit reports: its event enters the queue and the Lodge checks its report. -/
def execStatusEvent (unit : BitVec 16) (report : BitVec 3) (kind : BitVec 4) (s : State) : Answer :=
  .next (if isUnit unit.toNat then s.statusReport unit.toNat report.toNat kind.toNat else s)

/-- A read of LDG_EVQ by steward k pops the oldest entry; a fenced steward's read returns zero (R498, R521). -/
def execEvqPop (k : Fin 4) (s : State) : Answer :=
  .next (if !s.stwOn k.val then s.send (.evq 0)
    else match s.lodge.evq with
      | [] => s.send (.evq 0)
      | e :: rest =>
        ({ s with lodge := { s.lodge with evq := rest } }).send
          (.evq (BitVec.ofNat 64 (e.1.toNat + e.2.1.toNat * 2 ^ 16 + 2 ^ 20 + e.2.2.toNat * 2 ^ 32))))

/-! ### Read-back of fenced units (R16, R17, R29, R210, R444, R485) -/

/-- A logical tile or a stack has become unavailable: the host hears of it through AER and the job is torn down (R17, R38, R210, R409, R485). -/
def State.unitLost (s : State) (u : Nat) : State :=
  let s1 := (s.setUnit u { s.unit u with unavailable := decide (u / 4096 = 0) }).send (.aer (BitVec.ofNat 16 u))
  (s1.hostEvent 1).requestTeardown 7 none

/-- Whether another tile of the region has a claim on its spare: it is RETIRED and waits for its remap, or drains for its retirement. -/
def State.spareClaimed (s : State) (u : Nat) : Bool :=
  let r := u % 4096 / 13
  ((List.range 13).map fun i => unitId 0 (r * 13 + i)).any fun v =>
    decide (v ≠ u) && decide ((s.unit v).logical < 96) && !(s.unit v).unavailable &&
      (decide ((s.unit v).allowed = 5) || (decide ((s.unit v).allowed = 3) && (s.unit v).draining))

/-- What follows a failed read-back: RETIRED; a tile waits for its region's spare or, where that is gone or claimed, is unavailable, and so is a
controller's stack (R17, R29, R210). -/
def State.readbackFailed (s : State) (u : Nat) : State :=
  let s1 := s.allow u 5
  match u / 4096 with
  | 0 =>
    if (s1.unit u).logical < 96 ∧ ((s1.spareOf (u % 4096 / 13)).isNone ∨ s1.spareClaimed u = true) then s1.unitLost u else s1
  | 4 => s1.unitLost u
  | _ => s1

/-- The Lodge has drained a fenced unit and read it back: ONLINE again, a link retrained, or RETIRED. -/
def execFenceReadback (unit : BitVec 16) (passed : Bool) (s : State) : Answer :=
  let u := unit.toNat
  .next (if !isUnit u || (s.unit u).allowed ≠ 4 then s
    else if u / 4096 = 8 then s.stewardTested (u % 4096) passed
    else
      let d := (if u / 4096 = 2 then s.stopCopy (u % 4096) else if u / 4096 = 3 then s.stopHdma (u % 4096) else s).dutyBoundary 3
      if passed then
        let s1 := d.allow u 2
        if u / 4096 = 5 then s1.retrainLink (u % 4096)
        else if u / 4096 = 3 then s1.hdmaTurn (u % 4096) (s1.region (u % 4096))
        else s1
      else d.readbackFailed u)

end Sys2Proof.Machine
end

