-- ==== Sys2Proof/Machine/Host.lean ====
section
/-! DEFINITION. The host interface: doorbells, the stack aperture, translations, host reads, host-DMA, notification view, function
resets (R327, R360, R361, R464 to R492). -/

namespace Sys2Proof.Machine

/-! ### Doorbells (R469, R470) -/

/-- HST_DB_RING: TAIL is published, or refused as R333 or R470 gives. -/
def execHstDbRing (fn : Nat) (tail : BitVec 16) (s : State) : Answer :=
  let x := s.fn fn
  .next (if fn = 0 then s.hostError 0 0 0 0 false
    else if !x.enabled then s
    else if !x.rqEn then s.hostError fn 2 4 0 false
    else if 2 ^ x.rqLog2n.toNat < (tail - x.rqHead).toNat then s.setFn fn { x with rejRing := satInc x.rejRing }
    else if (tail - x.rqHead).toNat < (x.rqTail - x.rqHead).toNat then s.hostError fn 2 4 0 false
    else s.setFn fn { x with rqTail := tail })

/-- HST_DB_SEM: a SYSTEM release by the function (R326). -/
def execHstDbSem (fn : Nat) (sem : BitVec 16) (amount : BitVec 32) (s : State) : Answer :=
  .next (if !(s.fn fn).enabled then s else s.sendSignal (.doorbell fn) (partyId 4 fn) 2 sem.toNat amount.toInt 0)

/-- HST_DB_INT of the physical function (R469, R501). -/
def execHstDbInt (fn : Nat) (source : BitVec 11) (s : State) : Answer :=
  .next (if !(s.fn fn).enabled then s
    else if fn ≠ 0 then s.hostError fn 0 0 0 false
    else s.fireFrom source.toNat .host)

/-! ### The stack aperture (R471, R472) -/

/-- Bytes of a function's aperture: LOG2SIZE, larger values taken as the largest (R488). -/
def Fn.sapBytes (x : Fn) (f : Nat) : Nat := 2 ^ min x.sapLog2.toNat (if f = 0 then 40 else 30)

/-- Where byte `o` of an aperture lies; none if it is not populated. -/
def State.sapByte (s : State) (f o : Nat) : Option Phys :=
  let x := s.fn f
  if x.sapValid && decide (o < x.sapBytes f) && s.jobLive then s.resolve (x.sapBase.toNat * 2 ^ 20 + o) else none

/-- An access in pieces that lie within one 64-byte granule of the aperture, each with its place. -/
def State.sapPieces (s : State) (f off : Nat) (bs : List Byte) : List (Nat × List Byte × Option Phys) :=
  (granulePieces off bs).map fun g => (g.1, g.2, s.sapByte f g.1)

/-- A host read: ordinary stack traffic; unpopulated bytes are zeros and recorded (R472). -/
def execApertureRead (fn off len : Nat) (s : State) : Answer :=
  let pcs := s.sapPieces fn off (List.replicate len 0)
  let bad := pcs.find? fun p => p.2.2.isNone
  let s1 := pcs.foldl (fun acc p => match p.2.2 with
    | some a => acc.sendAccess a (.read p.2.1.length) (.host fn)
    | none => acc.send (.aperture fn p.2.1 [])) s
  .next (if !(s.fn fn).enabled then s
    else match bad with
      | some p => s1.hostError fn 1 0 (detailAddr p.1) false
      | none => s1)

/-- A host write: dropped and recorded where a byte is not populated or under RONLY, poisoned if it came with EP (R472). -/
def execApertureWrite (fn off : Nat) (data : List Byte) (ep : Bool) (s : State) : Answer :=
  let x := s.fn fn
  let pcs := s.sapPieces fn off data
  let bad := if x.sapRonly then pcs.head? else pcs.find? fun p => p.2.2.isNone
  let s1 := if x.sapRonly then s
    else pcs.foldl (fun acc p => match p.2.2 with
      | some a => acc.sendAccess a (.write p.2.1 0xFF#8 ep) (.host fn)
      | none => acc) s
  let s2 := if ep then s1.hostError fn 4 0 (detailAddr off) false else s1
  .next (if !x.enabled then s
    else match bad with
      | some p => s2.hostError fn 1 0 (detailAddr p.1) false
      | none => s2)

/-! ### Translations (R474) -/

/-- A host-DMA command stops at a refused host address: it makes no increment and sends no signal (R479). -/
def State.hdmaStop (s : State) (n a : Nat) : State :=
  let r := s.region n
  match r.hdmaQ with
  | [] => s
  | c :: rest =>
    let r1 : Region := { r with hdmaQ := rest, hdmaRun := false, hdmaStopped := satInc r.hdmaStopped }
    ((s.hdmaTurn n r1).cmdEnd (unitId 3 n) (fld c.item.toNat 224 32)).setTile c.tile ((s.tile c.tile).refuse 0x21 c.origin (fld a 12 32))

/-- What waits goes on in order: reads and host-DMA commands as they are translated, the writes of a function each after the one before
it (R294). -/
def State.drainAts (s : State) : State :=
  s.atsWaits.foldl (fun acc w =>
    let stay : State := { acc with atsWaits := acc.atsWaits ++ [w] }
    let ready := acc.translated w.fn w.addr w.write
    match w.req with
    | some ⟨_, _, _, _, .engine _, _⟩ => if ready then acc else stay
    | _ =>
      if !w.write then
        match w.req with
        | some r => if ready then { acc with hostReqs := acc.hostReqs ++ [r] } else stay
        | none => acc
      else if acc.atsWaits.any fun v => decide (v.fn = w.fn) && v.write then stay
      else if w.bs.isEmpty then (if acc.fnActive w.fn then acc.send (.msix w.fn w.addr) else acc)
      else if !ready then stay
      else
        let s1 := if acc.fnActive w.fn then acc.send (.hostWrite w.fn w.addr w.bs w.ep) else acc
        match w.req with
        | some ⟨_, _, _, _, .effect t e, _⟩ => s1.landed t e
        | _ => s1) { s with atsWaits := [] }

/-- One access refused for want of a translation (R475): code 4. -/
def State.refuseWait (s : State) (w : AtsWait) : State :=
  match w.req with
  | some r =>
    (match r.src with
     | .engine _ => s.setRegion r.id { s.region r.id with hdmaDenied := some w.addr }
     | .effect t e => (s.refuseHost w.fn w.addr 4 (s.asker (.effect t e))).landed t e
     | x => s.refuseRead w.fn w.addr 4 x)
  | none => s.refuseHost w.fn w.addr 4 none

/-- A translation completion for the 4 KiB page of an address: the page is cached, the oldest of 8,192 entries making room; what needs
more than it grants is refused (R474, R475). -/
def execAtsTranslationCompletion (fn : Nat) (addr : BitVec 64) (granted : Option (BitVec 64)) (write : Bool) (s : State) : Answer :=
  let page := addr.toNat / 4096
  let hit (w : AtsWait) : Bool := decide (w.fn = fn) && decide (w.addr / 4096 = page) && !(w.write && w.bs.isEmpty)
  .next (if !(s.atsWaits.any hit) then s
    else
      let denied (w : AtsWait) : Bool := hit w && (granted.isNone || (w.write && !write))
      let keep := s.atsCache.filter fun e => !(decide (e.1 = fn) && decide (e.2.1 = page * 4096))
      let cache := if granted.isNone then keep else (keep.drop (keep.length - 8191)) ++ [(fn, page * 4096, 4096, write)]
      let s1 : State := { s with atsCache := cache, atsWaits := s.atsWaits.filter fun w => !denied w }
      ((s.atsWaits.filter denied).foldl (fun acc w => acc.refuseWait w) s1).drainAts)

/-- Invalidations whose requests have all completed are answered (R474). -/
def State.answerInval (s : State) : State :=
  s.atsInval.foldl (fun acc v =>
    let busy := acc.hostReqs.any fun r => decide (r.fn = v.1) && r.translated && decide (r.addr < v.2.1 + v.2.2) && decide (v.2.1 < r.addr + r.len)
    if busy then { acc with atsInval := acc.atsInval ++ [v] }
    else acc.send (.atsDone v.1 (BitVec.ofNat 64 v.2.1))) { s with atsInval := [] }

/-- An invalidation: the entries are used no more, and it completes after the requests that used them (R474, R484). -/
def execAtsInvalidate (fn : Nat) (addr : BitVec 64) (size : Nat) (s : State) : Answer :=
  let a := addr.toNat
  let meets (e : Nat × Nat × Nat × Bool) : Bool := decide (e.1 = fn) && decide (e.2.1 < a + size) && decide (a < e.2.1 + e.2.2.1)
  .next ({ s with atsCache := s.atsCache.filter (fun e => !meets e), atsInval := s.atsInval ++ [(fn, a, size)] }).answerInval

/-! ### Completions of host reads (R475, R476) -/

/-- The data of a host read reach the load or the scalar load that asked for them. -/
def State.deliverHost (s : State) (r : HostReq) (data : List Byte) (ep : Bool) : State :=
  match r.src with
  | .load t id _ g =>
    let y := s.tile t
    let gs := (List.range (cdiv r.len 64)).map (· + g)
    let ls := y.loads.map fun (l : LoadIP) =>
      if l.id = id then
        { l with data := memWrite l.data (g * 64) data, missing := l.missing.filter fun x => !gs.contains x
                 poison := if ep then gs.foldl (fun p x => setIns x p) l.poison else l.poison }
      else l
    s.setTile t { y with loads := ls }
  | .scalar t id a => s.setTile t ((s.tile t).returnScalar id a data ep)
  | _ => s

/-- Takes an outstanding request by its number. -/
def State.takeReq (s : State) (id : Nat) : Option (HostReq × State) :=
  (s.hostReqs.find? fun r => decide (r.id = id)).map fun r =>
    (r, { s with hostReqs := s.hostReqs.filter fun x => decide (x.id ≠ id) })

/-- A completion arrives: data, with EP taken as poison and recorded, or a refusal (R475, R476). -/
def execHostReadCompletion (id : Nat) (status : CplStatus) (data : List Byte) (ep : Bool) (s : State) : Answer :=
  .next (match s.takeReq id with
    | none => s
    | some (r, s1) =>
      let s2 := match status with
        | .success =>
          if data.length ≠ r.len then s
          else
            let s3 := s1.deliverHost r data ep
            if ep then s3.hostError r.fn 4 0 (detailAddr r.addr) false else s3
        | .unsupported => s1.refuseRead r.fn r.addr 1 r.src
        | .abort => s1.refuseRead r.fn r.addr 2 r.src
      s2.answerInval)

/-- A read passes its completion timeout (R475). -/
def execHostReadTimeout (id : Nat) (s : State) : Answer :=
  .next (match s.takeReq id with
    | none => s
    | some (r, s1) => (s1.refuseRead r.fn r.addr 3 r.src).answerInval)

/-! ### Host-DMA commands (R477 to R479, R492) -/

/-- The engine accepts the first command at its port, if it holds fewer than 32. -/
def execHdmaCmdAccept (region : Fin 8) (s : State) : Answer :=
  let r := s.region region.val
  .next (match r.hdmaPort with
    | [] => s
    | c :: rest =>
      if 32 ≤ r.hdmaQ.length then s
      else
        let r1 : Region := { r with hdmaPort := rest, hdmaQ := r.hdmaQ ++ [c], hdmaSleep := wakeOf r.hdmaSleep }
        (s.hdmaTurn region.val r1).landed c.tile c.effId)

/-- The command at the head completes: its increments and then its SYSTEM signal (R478). -/
def State.hdmaDone (s : State) (n : Nat) (c : RegCmd) (pcs : List (Nat × List Byte × Byte)) : State :=
  let it := toBytes 256 c.item.toNat
  let r := s.region n
  let b := byteField it 0x14 1
  let r1 : Region := { r with hdmaQ := r.hdmaQ.drop 1, hdmaRun := false, hdmaDone := satInc r.hdmaDone,
                              hdmaTag := BitVec.ofNat 32 (fld c.item.toNat 224 32) }
  let s1 := (s.cmdEnd (unitId 3 n) (fld c.item.toNat 224 32)).hdmaTurn n r1
  let s2 := if b.testBit 2 && !b.testBit 0 then s1.arrivePieces (fld (byteField it 0x18 1) 0 6) pcs else s1
  if b.testBit 1 then s2.sendSignal (.copy c.tile c.origin) (partyId 2 n) 2 (byteField it 0x16 2) 1 0 else s2

/-- The running command transfers its bytes: from the host `data`, which ends where an access was refused, or to the host in granules
with their poison. The stack controllers serve its accesses first (R203), and a page without a translation is asked for. -/
def execHdmaCmdComplete (region : Fin 8) (data : List Byte) (ep : Bool) (s : State) : Answer :=
  let n := region.val
  let r := s.region n
  .next (match r.hdmaQ with
    | [] => s
    | c :: _ =>
      if r.hdmaSleep ≠ .awake || !s.unitUp (unitId 3 n) then s
      else
        let it := toBytes 256 c.item.toNat
        let haddr := byteField it 0 8
        let laddr := byteField it 8 7
        let len := byteField it 0x10 4
        let out := (byteField it 0x14 1).testBit 0
        let f := s.job.owner
        let pages := pagePieces haddr (List.replicate len 0)
        let cold := (pages.filter fun p => decide (p.1 < (r.hdmaDenied.getD (haddr + len)))).find? fun p => (s.fn f).ats && !s.translated f p.1 out
        -- an access that is refused ends the command; the bytes before it are transferred (R479)
        let most := match r.hdmaDenied with | some a => min len (a - haddr) | none => len
        let gs := granulesOf laddr len
        if len = 0 then s.hdmaDone n c []
        else if !r.hdmaAsked && decide (spaceOf laddr = 0) then (s.setRegion n { r with hdmaAsked := true }).askStacks (unitId 3 n) gs
        else if !s.stacksAnswered (unitId 3 n) || !s.stacksOpen gs then s
        else if !s.fnActive f then s.hdmaStop n haddr
        else match cold with
          | some p =>
            let asks (w : AtsWait) : Bool := match w.req with | some q => q.src == .engine n | none => false
            if s.atsWaits.any asks then s
            else
              let q : HostReq := { id := n, fn := f, addr := p.1, len := 0, src := .engine n, translated := false }
              { s with atsWaits := s.atsWaits ++ [{ fn := f, addr := p.1, write := out, bs := [0], ep := false, req := some q }] }
          | none =>
            if out then
              let g := s.fetchGranules (granulesOf laddr most)
              let s1 := (granulePieces laddr (memRead g.2.1 laddr most)).foldl (fun acc p =>
                acc.hostWrite f (haddr + (p.1 - laddr)) p.2 (g.2.2.contains (p.1 / 64)) none) g.1
              if most < len then s1.hdmaStop n (haddr + most) else s1.hdmaDone n c []
            else if !s.portOpen laddr then s.wakePort laddr
            else
              let bs := data.take most
              let pcs := [(laddr, bs, 0xFF#8)]
              let s1 := s.performPieces pcs fun _ => ep
              let s2 := if ep then s1.hostError f 4 0 (detailAddr haddr) false else s1
              if bs.length < len then s2.hdmaStop n (haddr + bs.length) else s2.hdmaDone n c pcs)

/-! ### The notification view (R327, R330, R481) -/

/-- A write of word A of entry `j` of a function's view: ignored fields, the quota check, arming and its test. -/
def State.writeNtfA (s : State) (fn j : Nat) (a : BitVec 64) : State :=
  let x := s.fn fn
  if x.ntfCount ≤ j then s.hostError fn 0 0 (detailAddr (0xC000 + 16 * j)) false
  else
    let m := x.ntfFirst + j
    let n := mget NtfSlot.zero s.sem.ntf m
    let put (s : State) (y : NtfSlot) : State := { s with sem := { s.sem with ntf := mput NtfSlot.zero s.sem.ntf m y.fields } }
    if n.armed then s
    else
      let y : NtfSlot := { n with sem := fld a.toNat 0 16, kind := a.getLsbD 16, func := fn, thresh := fld a.toNat 32 24, fired := 0 }
      if !a.getLsbD 17 then put s y
      else if !s.inQuota fn y.sem then (put s y).hostError fn 5 0 (m * 4096) false
      else
        let s1 := put s { y with armed := true }
        if y.thresh ≤ (s1.sema y.sem).value then s1.fireNtf m else s1

/-- A write of word B. -/
def State.writeNtfB (s : State) (fn j : Nat) (b : BitVec 64) : State :=
  let x := s.fn fn
  if x.ntfCount ≤ j then s.hostError fn 0 0 (detailAddr (0xC000 + 16 * j)) false
  else
    let m := x.ntfFirst + j
    let n := mget NtfSlot.zero s.sem.ntf m
    if n.armed then s
    else { s with sem := { s.sem with ntf := mput NtfSlot.zero s.sem.ntf m ({ n with b := b, fired := 0 } : NtfSlot).fields } }

/-- ARMED of entry `slot` of a function's view is set with the word's other fields (R327, R481). -/
def execNtfArm (fn slot : Nat) (a : BitVec 64) (s : State) : Answer :=
  .next (if (s.fn fn).enabled then s.writeNtfA fn slot (setBit a 17 true) else s)

/-! ### Function resets (R360, R361, R482) -/

/-- A function that has no run of slots gets one of 64, the lowest free from slot 1,024 on (R481; log entry 45). -/
def State.assignNtf (s : State) (fn : Nat) : State :=
  if (s.fn fn).ntfCount ≠ 0 then s
  else
    let taken (first : Nat) : Bool := s.fns.any fun e => decide (0 < e.2.ntfCount) && decide (e.2.ntfFirst < first + 64) &&
      decide (first < e.2.ntfFirst + e.2.ntfCount)
    match ((List.range 48).map fun i => 1024 + 64 * i).find? fun x => !taken x with
    | some x => s.setFn fn { s.fn fn with ntfFirst := x, ntfCount := 64 }
    | none => s

/-- A function-level reset of a virtual function: R360, its registers at their reset values but for what the physical function holds, and
a non-serving job of it torn down with cause 3 (R482). It is enabled again by its own command. -/
def State.vfReset (s : State) (fn : Nat) : State :=
  let s1 := s.stopFunction fn
  let x := s1.fn fn
  let z := Fn.zero fn
  let y : Fn := { z with busMaster := x.busMaster, ats := x.ats, disabledPending := x.disabledPending, quotaA := x.quotaA, quotaB := x.quotaB
                         quotaPendA := x.quotaPendA, quotaPendB := x.quotaPendB, sapValid := x.sapValid, sapRonly := x.sapRonly
                         sapLog2 := x.sapLog2, sapBase := x.sapBase }
  let s2 := s1.setFn fn y
  if s2.jobLive && decide (s2.job.owner = fn) && !s2.servingRuns then s2.requestTeardown 3 none else s2

def execVfFlr (fn : Nat) (s : State) : Answer := .next (if fn = 0 ∨ 4096 < fn then s else s.vfReset fn)

/-- A virtual function is enabled; its ring is read once a disable that was recorded has been applied at action 3 (R361). -/
def execFunctionEnable (fn : Nat) (s : State) : Answer :=
  .next (if fn = 0 ∨ 4096 < fn then s else (s.setFn fn { s.fn fn with enabled := true }).assignNtf fn)

end Sys2Proof.Machine
end

