-- ==== Sys2Proof/Machine/Power.lean ====
section
/-! DEFINITION. Power, clocks and heat: the housekeeping round, the thermal model, throttle commands, the power guard and the
shutdowns (R496, R511, R524 to R553). -/

namespace Sys2Proof.Machine

/-! ### Channels (R525, R526, R528, R534, R535) -/

/-- A binary32 value in units of 2^-30, rounded down; a NaN or an infinity lies outside every plausible range. -/
def fix (x : Lane) : Int :=
  match numMul (dec32 x) (.fin false 1 30) with
  | .fin n m e => numFloor (.fin n m e)
  | _ => 2 ^ 62

/-- A number of degrees, volts or amperes in the same units. -/
def units (n : Int) : Int := n * 2 ^ 30

/-- The voltage setpoint of a rail in mV: VCORE by compute level (R525, R528). -/
def railMv (clevel rail : Nat) : Nat :=
  match rail with
  | 0 => [800, 720, 660, 620].getD clevel 620
  | 1 => [800, 720, 660, 620].getD clevel 620
  | 2 => 800 | 3 => 800 | 4 => 750 | 5 => 750 | 6 => 900 | 7 => 750 | 8 => 1050 | 9 => 750 | 10 => 1800 | _ => 800

/-- Rated maximum of a rail in W (R525). -/
def railWatts (rail : Nat) : Nat := [760, 760, 90, 90, 45, 45, 70, 320, 150, 60, 20, 6].getD rail 0

/-- The rated current of a rail in mA: its rated maximum at its highest voltage. -/
def railMa (rail : Nat) : Nat := railWatts rail * 1000000 / railMv 0 rail

/-- What a channel measures: 0 a rail's voltage, 1 a current of a rail, 2 a temperature, 3 the input voltage, 4 the input current, 5 nothing,
with the rail (R534). -/
def channelKind (c : Nat) : Nat × Nat :=
  if c = 0 then (3, 0) else if c = 1 then (4, 0)
  else if c < 26 then ((c - 2) % 2, (c - 2) / 2)
  else if c < 34 then (1, (c - 26) / 4)
  else if c < 42 then (1, 2 + (c - 34) / 4)
  else if c < 50 then (1, 7)
  else if c < 58 then (1, 8)
  else if c < 86 then (2, 0)
  else if c < 92 then (1, 6)
  else if c = 92 then (1, 11)
  else if c = 93 then (2, 0)
  else (5, 0)

/-- Whether a reading is plausible (R535). -/
def plausible (clevel c : Nat) (v : Int) : Bool :=
  let k := channelKind c
  match k.1 with
  | 0 => let mv : Int := railMv clevel k.2
         decide (units (mv * 95) ≤ v * 100000) && decide (v * 100000 ≤ units (mv * 105))
  | 1 => let ma : Int := railMa k.2
         decide (units (-ma) ≤ v * 100000) && decide (v * 100000 ≤ units (ma * 110))
  | 2 => decide (units (-40) ≤ v) && decide (v ≤ units 150)
  | 3 => decide (units 38 ≤ v) && decide (v ≤ units 62)
  | 4 => decide (units (-575) ≤ v * 1000) && decide (v * 1000 ≤ units 63250)
  | _ => true

/-- One channel takes its sample: failed when implausible, or when a temperature jumps by more than 10 °C; good again after 1,000 plausible
rounds (R535). The largest readings of the last 10,000 rounds are kept for the currents. -/
def Power.sample (p : Power) (first : Bool) (round c : Nat) (x : Lane) : Power :=
  let v := fix x
  let jump := decide ((channelKind c).1 = 2) && !first && decide (units 10 < (v - fix (mget 0 p.ch c)).natAbs)
  let ok := plausible p.clevel c v && !jump
  let was := p.chFail.contains c
  let good := if ok && was then mget 0 p.chGood c + 1 else 0
  let fails := if !ok then setIns c p.chFail else if was && decide (1000 ≤ good) then setDel c p.chFail else p.chFail
  let old := (mget [] p.chMax c).filter fun e => decide (round < e.1 + 10000) && (!ok || decide (v < fix e.2))
  let top := if ok && decide ((channelKind c).1 = 1 ∨ (channelKind c).1 = 4) then old ++ [(round, x)] else old
  { p with ch := mput 0 p.ch c (if (channelKind c).1 = 5 then 0 else x), chFail := fails, chGood := mput 0 p.chGood c good
           chMax := mput [] p.chMax c top, failCnt := if !ok && !was then satInc p.failCnt else p.failCnt }

/-- A temperature in degrees plus a number, as binary32. -/
def addDeg (x : Lane) (n : Int) : Lane := enc32 (numAdd (dec32 x) (numOfInt n))

/-- The reading of a channel, or its substitute (R535). `spot` is the hottest value taken for a stack logic die. -/
def Power.value (p : Power) (spot : Nat → Lane) (c : Nat) : Lane :=
  if !p.chFail.contains c then mget 0 p.ch c
  else
    let k := channelKind c
    match k.1 with
    | 0 => enc32 (numDiv (numOfInt (railMv p.clevel k.2)) (numOfInt 1000))
    | 1 => (mget [] p.chMax c).headD (0, 0) |>.2
    | 2 =>
      if 58 ≤ c ∧ c < 66 then addDeg (spot (c - 58)) 5
      else if c = 66 then (if p.chFail.contains 67 then enc32 (numOfInt 45) else mget 0 p.ch 67)
      else if c = 67 then (if p.chFail.contains 66 then enc32 (numOfInt 45) else mget 0 p.ch 66)
      else mget 0 p.ch c
    | _ => mget 0 p.ch c

/-- Input power in mW: the input channels, or the rails' power ÷ 0.94 when one of them has failed (R533, R535). -/
def Power.inputMw (p : Power) : Nat :=
  let prod (a b : Lane) : Int := fix a * fix b * 1000 / 2 ^ 60
  if p.chFail.contains 0 || p.chFail.contains 1 then
    let sum := (List.range 12).foldl (fun (n : Int) r => n + prod (p.value (fun _ => 0) (2 + 2 * r)) (p.value (fun _ => 0) (3 + 2 * r))) 0
    (sum * 100 / 94).toNat
  else (prod (mget 0 p.ch 0) (mget 0 p.ch 1)).toNat

/-! ### The thermal model (R536 to R539) -/

/-- The 32 input powers (R536). -/
def Power.inputs (p : Power) : List Lane :=
  let v (c : Nat) : Lane := p.value (fun _ => 0) c
  ((List.range 8).map fun i => f32Mul (v (26 + i)) (v (2 + 2 * (i / 4)))) ++
    ((List.range 8).map fun i => f32Mul (v (34 + i)) (v (6 + 2 * (i / 4)))) ++
    ((List.range 8).map fun i => f32Mul (v (42 + i)) (v 16)) ++ ((List.range 8).map fun i => f32Mul (v (50 + i)) (v 18))

/-- A binary16 coefficient as binary32. -/
def half32 (x : BitVec 16) : Lane := enc32 (decodeFloat fmtF16 x.toNat)

/-- One round of the model, in binary32: each operation rounded, the sum over j ascending (R536; log entry 46). -/
def Thermal.step (t : Thermal) (ps : List Lane) : Thermal :=
  let one : Lane := 0x3F800000#32
  { t with x := (List.range 136).map fun i => (List.range 3).map fun k =>
      let a := t.a.getD k 0
      let sum := (List.range 32).foldl (fun acc j => f32Add acc (f32Mul (half32 (t.g.getD ((32 * i + j) * 3 + k) 0)) (ps.getD j 0))) 0
      f32Add (f32Mul a ((t.x.getD i []).getD k 0)) (f32Mul (f32Sub one a) sum) }

/-- The prediction for a spot (R536). -/
def Thermal.spot (t : Thermal) (inlet : Lane) (i : Nat) : Lane :=
  let x := t.x.getD i []
  f32Add (f32Add (f32Add (f32Add inlet (half32 (t.off.getD i 0))) (x.getD 0 0)) (x.getD 1 0)) (x.getD 2 0)

/-- The die of a spot: 0 and 1 the compute dies, 2 to 9 the stack logic dies. -/
def spotDie (i : Nat) : Nat := if i < 64 then 0 else if i < 128 then 1 else i - 126

/-- The diodes of a die with their spots: channel and spot (R534, R537). -/
def Thermal.diodes (t : Thermal) (die : Nat) : List (Nat × Nat) :=
  if die < 2 then (List.range 4).map fun d => (68 + 4 * die + d, t.diodeHs.getD (4 * die + d) 0)
  else [(76 + die, 126 + die)]

/-- Rounds of disagreement of each diode, and of agreement of each die, and the dies distrusted; the errors of a die's healthy diodes add up
for the recalibration (R539). Keys below 100 are channels. -/
def Power.judge (p : Power) (pred : Nat → Lane) : Power :=
  (List.range 10).foldl (fun acc die =>
    let ds := (acc.thermal.diodes die).filter fun d => !acc.chFail.contains d.1
    let err (d : Nat × Nat) : Nat := (fix (mget 0 acc.ch d.1) - fix (pred d.2)).natAbs
    let rounds := ds.foldl (fun m d => mput 0 m d.1 (if units 5 < err d then mget 0 m d.1 + 1 else 0)) acc.errRounds
    let bad := ds.any fun d => decide (100 ≤ mget 0 rounds d.1)
    let calm := if !ds.isEmpty && ds.all fun d => decide (err d < units 2) then mget 0 rounds (100 + die) + 1 else 0
    let was := acc.distrust.getLsbD die
    { acc with
               errSum := mput 0 acc.errSum die (mget 0 acc.errSum die + ds.foldl (fun (n : Int) d => n + (fix (mget 0 acc.ch d.1) - fix (pred d.2))) 0)
               errCount := mput 0 acc.errCount die (mget 0 acc.errCount die + ds.length)
               errRounds := mput 0 rounds (100 + die) calm
               distrust := setBit acc.distrust die (bad || (was && decide (calm < 1000))) }) p

/-- The spots as taken: in a distrusted die the larger of the prediction and its highest healthy diode plus 8 °C (R539). -/
def Power.taken (p : Power) (pred : Nat → Lane) (i : Nat) : Lane :=
  let die := spotDie i
  if !(p.distrust.getLsbD die || p.flowLost) then pred i
  else ((p.thermal.diodes die).filter fun d => !p.chFail.contains d.1).foldl (fun m d =>
    let x := addDeg (mget 0 p.ch d.1) 8
    if fix m < fix x then x else m) (pred i)

/-- A coefficient set's fields (R537). -/
def halfAt (bs : List Byte) (o : Nat) : BitVec 16 := BitVec.ofNat 16 (ofBytes ((bs.drop o).take 2))

/-- Whether thermal control accepts a set (R538). -/
def coefficientsOk (bs : List Byte) : Bool :=
  let one := units 1
  let spots := (List.range 8).map fun d => (bs.getD (16 + d) 0).toNat
  decide (bs.length = 26416) && decide (ofBytes (bs.take 2) = 1) &&
    ((List.range 3).all fun k =>
      let v := fix (BitVec.ofNat 32 (ofBytes ((bs.drop (4 + 4 * k)).take 4)))
      let pos := numLt (.fin false 0 0) (dec32 (BitVec.ofNat 32 (ofBytes ((bs.drop (4 + 4 * k)).take 4))))
      pos && decide (v < one)) &&
    ((List.range 136).all fun i =>
      let v := fix (half32 (halfAt bs (32 + 2 * i)))
      decide (units (-20) ≤ v) && decide (v ≤ units 20)) &&
    ((chunks 2 13056 (bs.drop 304)).all fun x =>
      let v := fix (half32 (BitVec.ofNat 16 (ofBytes x)))
      decide (0 ≤ v) && decide (2 * v ≤ one)) &&
    ((spots.take 4).all fun i => decide (i < 64)) && ((spots.drop 4).all fun i => decide (64 ≤ i) && decide (i < 128))

/-- A set comes into force; x keeps its values (R536). -/
def Thermal.load (t : Thermal) (bs : List Byte) : Thermal :=
  { t with a := (List.range 3).map fun k => BitVec.ofNat 32 (ofBytes ((bs.drop (4 + 4 * k)).take 4))
           diodeHs := (List.range 8).map fun d => (bs.getD (16 + d) 0).toNat
           off := (List.range 136).map fun i => halfAt bs (32 + 2 * i)
           g := (chunks 2 13056 ((bs.drop 304).take 26112)).map fun x => BitVec.ofNat 16 (ofBytes x) }

/-- A waiting set, or waiting OFF values, come into force at the start of a round (R512, R516). -/
def Thermal.enforce (t : Thermal) : Thermal :=
  let t1 := match t.pending with | some bs => t.load bs | none => match t.pendOff with | some l => { t with off := l } | none => t
  { t1 with pending := none, pendOff := none }

/-! ### Demands (R531, R533, R540 to R543) -/

/-- The compute level commanded is the lowest clock of the three demands; the clock follows by its own change (R529, R531). -/
def State.retarget (s : State) : State :=
  let p := s.power
  { s with power := { p with target := max p.ctherm (max p.ccap p.cguard) } }

/-- A step of a demand with hysteresis: raised at its threshold, lowered one step once the temperature has stayed 3 °C below the step's
threshold for 10 rounds (R541, R543). `cnt` counts those rounds by step. Answers the demand and the counts. -/
def demandStep (thr : List Int) (v : Int) (cur : Nat) (cnt : Nat → Nat) : Nat × (Nat → Nat) :=
  let up := thr.foldl (fun n t => if units t ≤ v then n + 1 else n) 0
  let cnt1 (i : Nat) : Nat := if v ≤ units (thr.getD (i - 1) 0 - 3) then cnt i + 1 else 0
  if cur ≤ up then (up, fun i => cnt1 i)
  else if 10 ≤ cnt1 cur then (cur - 1, fun i => cnt1 i)
  else (cur, fun i => cnt1 i)

/-- The band of a stack after a round (R540): `spot` its logic spot, `read` its readout. -/
def bandStep (spot read : Int) (b : Nat) : Nat :=
  let up := if units 93 ≤ read then 3 else if units 83 ≤ read then 2 else if units 60 ≤ read ∨ units 60 ≤ spot then 1 else 0
  let falls := match b with
    | 1 => decide (spot < units 57) && decide (read < units 57)
    | 2 => decide (read < units 80)
    | 3 => decide (read < units 90)
    | _ => false
  if b < up then up else if falls then b - 1 else b

/-- A stack's floor after a round: none below Severe, else S1 with its two further steps (R541). -/
def floorStep (band : Nat) (read : Int) (floor : Nat) (cnt : Nat → Nat) : Nat × (Nat → Nat) :=
  if band < 3 then (0, fun _ => 0)
  else
    let r := demandStep [100, 104] read (floor - 1) cnt
    (r.1 + 1, r.2)

/-- The worst band of the stacks. -/
def Power.worstBand (p : Power) : Nat := (List.range 8).foldl (fun m k => max m (mget 0 p.band k)) 0

/-- Bands and floors of the stacks (R540, R541). -/
def Power.bands (p : Power) (spot : Nat → Lane) : Power :=
  (List.range 8).foldl (fun acc k =>
    let read := fix (acc.value spot (58 + k))
    let old := mget 0 acc.band k
    let b := bandStep (fix (spot k)) read old
    let f := floorStep b read (mget 0 acc.sfloor k) (fun i => mget 0 acc.floorRounds (4 * k + i))
    { acc with band := mput 0 acc.band k b, sfloor := mput 0 acc.sfloor k f.1
               floorRounds := [1, 2].foldl (fun m i => mput 0 m (4 * k + i) (f.2 i)) acc.floorRounds
               bandCnt := if b = old then acc.bandCnt else satInc acc.bandCnt }) p

/-- The cap in mW (R533, R552). -/
def Power.capMw (p : Power) : Nat :=
  let w := p.cap.toNat
  1000 * (if w = 0 then 2000 else max 600 (min 2000 w))

/-- Averaging rounds. -/
def Power.window (p : Power) : Nat := max 1 (min 1000 p.capWin.toNat)

/-- The cap demand after a round (R533). -/
def Power.capStep (p : Power) : Power :=
  let n := p.window
  let l := p.powers.take n
  let avg := l.foldl (· + ·) 0 / max 1 l.length
  let above := decide (p.capMw < avg)
  let low := if avg * 100 < p.capMw * 95 then p.capLow + 1 else 0
  let miss := above && decide (p.ccap = 3) && decide (p.scap = 3)
  let q := { p with capLow := low, capMiss := miss }
  if above then
    if p.ccap < 3 then { q with ccap := p.ccap + 1, capCnt := satInc p.capCnt }
    else if p.scap < 3 then { q with scap := p.scap + 1, capCnt := satInc p.capCnt }
    else q
  else if n ≤ low then
    if 0 < p.scap then { q with scap := p.scap - 1, capLow := 0 }
    else if 0 < p.ccap then { q with ccap := p.ccap - 1, capLow := 0 }
    else q
  else q

/-- The level of a stack: the higher of its floor and its cap demand, S1 at least while coolant flow is lost (R531, R546); S3 in a shutdown. -/
def Power.stackLevel (p : Power) (k : Nat) : Nat :=
  if p.shutdown then 3 else max (max (mget 0 p.sfloor k) p.scap) (if p.flowLost then 1 else 0)

/-- The thermal compute demand: the hot spots', C1 at least without a coolant temperature or without flow, C3 in a shutdown
(R535, R543, R544, R546). -/
def Power.thermal3 (p : Power) : Nat :=
  if p.shutdown then 3
  else max p.cspot (if p.flowLost || (p.chFail.contains 66 && p.chFail.contains 67) then 1 else 0)

/-- The throttle command: every stack's band and level, and the compute demand (R542). -/
def State.throttle (s : State) : State :=
  let p := s.power
  let s1 : State := { s with power := { p with ctherm := p.thermal3, slevel := (List.range 8).foldl (fun m k => mput 0 m k (p.stackLevel k)) [] } }
  let s2 := (List.range 8).foldl (fun acc k =>
    acc.setStack k { acc.stack k with bandReq := BitVec.ofNat 2 (mget 0 p.band k), throttleReq := BitVec.ofNat 2 (p.stackLevel k) }) s1
  s2.retarget

/-! ### Shutdown (R526, R544 to R546) -/

/-- SD_CAUSE (R552). -/
def causeCode : ShutdownCause → Nat
  | .temperature => 1
  | .railFault => 3
  | .guardExhausted => 4
  | .inputVoltage => 5
  | .coolantFlow => 6

/-- The orderly shutdown begins: power good ends, trip output, SD_CAUSE, C3 and S3, teardown with cause 7 (R544, R559). -/
def State.beginShutdown (s : State) (c : ShutdownCause) : State :=
  if s.power.shutdown || !s.power.railsOn then s
  else
    let code := BitVec.ofNat 8 (causeCode c)
    let p := { s.power with thermTrip := true, sdCause := code, shutdown := true, shutAt := s.time.toNat, pwrgd := false }
    (({ s with power := p, lodge := { s.lodge with nvSdCause := code } }).throttle).requestTeardown 7 none

/-- Every rail but VLODGE is off: what those rails fed is lost (R544, R545). -/
def State.railsOff (s : State) : State :=
  let s1 := if s.jobLive then { s with job := { s.job with tearing := none } }.endJob 7 else s
  { s1 with
    tiles := [], regions := [], stk := [], engines := [], sem := SemUnit.zero, serving := Serving.zero, tomb := [], links := []
    lnk := LinkBlock.zero, bands := [], fns := [], hostReqs := [], atsCache := [], atsWaits := [], atsInval := [], hstLink := 0
    power := { s1.power with railsOn := false, pwrgd := false } }

/-- The shutdown's causes. -/
def execOrderlyShutdown (cause : ShutdownCause) (s : State) : Answer := .next (s.beginShutdown cause)

/-- The rails go off when teardown has ended, or 5 ms after the cause (R544). -/
def execShutdownRailsOff (s : State) : Answer :=
  .next (if s.power.shutdown && s.power.railsOn && (!s.jobLive || decide (s.power.shutAt + 500000 ≤ s.time.toNat)) then s.railsOff else s)

/-- The hardware trip at 115 °C (R545). -/
def execHardwareTrip (s : State) : Answer :=
  let s1 := s.railsOff
  .next (if s.power.railsOn then
    { s1 with power := { s1.power with thermTrip := true, sdCause := 2, shutdown := true }, lodge := { s1.lodge with nvSdCause := 2 } }
  else s)

/-- A rail fault fires source 0x013 and shuts down (R526, R532). -/
def State.faultRail (s : State) (kind : RailFaultKind) : State :=
  let cause := match kind with
    | .inputLow => ShutdownCause.inputVoltage
    | .inputHigh => .inputVoltage
    | .guardExhausted => .guardExhausted
    | .regulator _ => .railFault
    | .channel _ => .railFault
  (s.fireInt 0x13).beginShutdown cause

def execRailFault (kind : RailFaultKind) (s : State) : Answer := .next (if s.power.railsOn then s.faultRail kind else s)

/-- Coolant flow is absent for 100 ms (R546). -/
def execFlowLost (s : State) : Answer :=
  .next (if s.power.flowLost then s else ({ s.fireInt 0x14 with power := { s.power with flowLost := true } }).throttle)

/-- One second after the flow signal returns its measures end (R546). -/
def execFlowRestored (s : State) : Answer :=
  .next (if s.power.flowLost then ({ s with power := { s.power with flowLost := false } }).throttle else s)

/-- Flow absent for 60 s (R546). -/
def execFlowLostLimit (s : State) : Answer := .next (if s.power.flowLost then s.beginShutdown .coolantFlow else s)

/-! ### The power guard (R531, R532) -/

/-- A sample of the guard, every 10 µs, which is the rails' power where an input channel has failed (R535): the average of the last 1,000 samples and the raise and lowering of its demand. -/
def execGuardSample (milliwatts : Nat) (s : State) : Answer :=
  let p := s.power
  let milliwatts := if p.chFail.contains 0 || p.chFail.contains 1 then p.inputMw else milliwatts
  let l := (milliwatts :: p.guardSamples).take 1000
  let avg := l.foldl (· + ·) 0 / l.length
  let above := decide (2000000 < avg) || decide (2300000 < milliwatts)
  let stuck := if p.cguard = 3 ∧ 2300000 < milliwatts then p.guardOver + 1 else 0
  let low := if avg < 1900000 then p.guardLow + 1 else 0
  let q := { p with guardSamples := l, guardOver := stuck, guardLow := low, guardHold := p.guardHold - 1 }
  .next (if !p.railsOn then s
    else if above && decide (p.cguard < 3) then
      { s.fireInt 0x11 with power := { q with cguard := p.cguard + 1, guardCnt := satInc p.guardCnt, guardHold := 1000, guardLow := 0 } }.retarget
    else if 100 ≤ stuck then ({ s with power := q }).faultRail .guardExhausted
    else if decide (1000 ≤ low) && decide (p.guardHold ≤ 1) && decide (0 < p.cguard) then
      { s with power := { q with cguard := p.cguard - 1, guardLow := 0 } }.retarget
    else { s with power := q })

/-- The compute clock and VCORE have followed the command (R529). -/
def execLevelChangeDone (s : State) : Answer := .next { s with power := { s.power with clevel := s.power.target } }

/-! ### The housekeeping round (R27, R494, R496) -/

/-- Thermal control's part of a round: model, trust, bands, demands and the throttle command (R533, R536 to R543). -/
def State.thermalRound (s : State) : State :=
  let p0 := s.power
  let p1 := { p0 with thermal := p0.thermal.step p0.inputs }
  let inlet := p1.value (fun _ => 0) 66
  let pred (i : Nat) : Lane := p1.thermal.spot inlet i
  let p2 := p1.judge pred
  let spot (i : Nat) : Lane := p2.taken pred i
  let logic (k : Nat) : Lane := spot (128 + k)
  let hottest := (List.range 128).foldl (fun m i => max m (fix (spot i))) (fix (spot 0))
  let c := demandStep [100, 104, 107] hottest p2.cspot (fun i => mget 0 p2.coolRounds i)
  let p3 := (p2.bands logic)
  let p4 := { p3 with
    hs := (List.range 136).foldl (fun m i =>
      mput 0 m i (BitVec.ofNat 16 (encodeInt true 16 0 (numMul (dec32 (spot i)) (numOfInt 8))))) p3.hs
    cspot := c.1, coolRounds := [1, 2, 3].foldl (fun m i => mput 0 m i (c.2 i)) p3.coolRounds
    powers := (p3.inputMw :: p3.powers).take 1000 }
  let p5 := p4.capStep
  let s1 := ({ s with power := p5 }).throttle
  let s2 := if p0.cspot < c.1 then (let t := s1.fireInt 0x11; if c.1 = 3 then t.fireInt 0x12 else t) else s1
  let s3 := if (List.range 8).any fun k => decide (mget 0 p0.band k ≠ mget 0 p5.band k) then s2.fireInt 0x10 else s2
  let s4 := if p0.worstBand = p5.worstBand then s3 else s3.hostEvent 3
  let hot := decide (units 110 < hottest) || ((List.range 8).any fun k => decide (units 110 < fix (logic k)) ||
      (!p5.chFail.contains (58 + k) && decide (units 110 < fix (mget 0 p5.ch (58 + k))))) ||
    (List.range 18).any fun d => !p5.chFail.contains (68 + d) && decide (units 110 < fix (mget 0 p5.ch (68 + d)))
  if hot then s4.beginShutdown .temperature else s4

/-- Every unit identifier (R24). -/
def allUnits : List Nat := (List.range 9).flatMap fun c => (List.range (unitCount c)).map fun i => unitId c i

/-- What PWR_BOARD shows of a feed: whether it is reversed, and its voltage in units of 0.5 V. Free values within what the manual says: a good
feed lies within 40 V to 60 V, a lost one outside, or is reversed and shows 0 (R586, R592; log entry 2). -/
def feedShown (lost : Bool) (f : Nat) : Bool × Nat :=
  let x := f / 2 % 215
  if !lost then (false, 80 + f % 41) else if f.testBit 0 then (true, 0) else (false, if x < 80 then x else x + 41)

/-- PWR_BOARD at the end of a round (R592). -/
def State.updateBoard (s : State) : State :=
  let v := s.fresh
  let f := (Config.free64 v.1).toNat
  let p := s.power
  let strap := match s.lodge.boot with | some o => o.strap.toNat | none => 0
  let a := feedShown (p.feedLost.getLsbD 0) (fld f 0 16)
  let b := feedShown (p.feedLost.getLsbD 1) (fld f 16 16)
  let w := bitAt (!p.feedLost.getLsbD 0) 0 + bitAt (!p.feedLost.getLsbD 1) 1 + bitAt a.1 2 + bitAt b.1 3 + bitAt (!p.flowLost) 4 +
    strap * 2 ^ 5 + a.2 * 2 ^ 8 + b.2 * 2 ^ 16
  { v.2 with power := { p with board := BitVec.ofNat 24 w } }

/-- The hottest value taken for a stack logic die, from PWR_HS. -/
def Power.logicSpot (p : Power) (k : Nat) : Lane := enc32 (numMul (numOfInt (mget 0 p.hs (128 + k)).toInt) (.fin false 1 (-3)))

/-- A quantity in units of a resolution `1 ÷ n`, rounded down. -/
def perUnit (v : Int) (n : Int) : Int := v * n / 2 ^ 30

/-- The numeric sensors of R511, in their resolutions. -/
def State.sensor (s : State) (id : Nat) : Int :=
  let p := s.power
  let v (c : Nat) : Int := fix (p.value p.logicSpot c)
  match id with
  | 1 => (p.powers.headD 0 / 1000 : Nat)
  | 2 => perUnit (v 0) 100
  | 3 => (List.range 136).foldl (fun (m : Int) i => max m (mget 0 p.hs i).toInt) (mget 0 p.hs 0).toInt
  | 12 => perUnit (v 66) 8
  | 13 => perUnit (v 67) 8
  | 14 => (p.worstBand : Nat)
  | 15 => (allUnits.filter fun u => decide ((s.unit u).allowed ≠ 2) && decide ((s.unit u).allowed ≠ 1)).length
  | n => perUnit (v (54 + n)) 8

/-- The telemetry values at the end of a round (R496, R511). -/
def State.updateSensors (s : State) : State :=
  { s with lodge := { s.lodge with sensors := (List.range 15).foldl (fun m i => mput 0 m (i + 1) (s.sensor (i + 1))) [] } }

/-- A housekeeping round: the 96 samples, thermal control, every unit's report, the owner's heartbeat. A coefficient set in waiting comes
into force first, which ends its command. Without an enabled owner of duties 1 and 2 the round is missed (R494, R499). -/
def execHousekeepingRound (samples : List Lane) (_dt : Nat) (s0 : State) : Answer :=
  let s := s0.fireInt 0
  let k := s.dutyOwner 1
  .next (if !s.stwOn k then s
    else
      let first := decide (s.lodge.rounds = 0)
      let n := s.lodge.rounds + 1
      let p := { s.power with thermal := s.power.thermal.enforce }
      let p1 := (List.range 96).foldl (fun acc c => acc.sample first n c (samples.getD c 0)) p
      let s1 : State := { s with power := p1, lodge := { s.lodge with rounds := n } }
      let s2 := match s.lodge.liveRun with
        | some r => if r.op = 3 then s1.liveEnd 0 else s1
        | none => s1
      let s3 := if s2.stwOn (s2.dutyOwner 2) && s2.power.railsOn then s2.thermalRound else s2
      let s4 := allUnits.foldl (fun acc u => acc.checkUnit u) s3
      let x := s4.steward k
      (s4.setSteward k { x with hb := x.hb + 1, lastTime := s4.time.truncate 32 }).updateBoard.updateSensors.dutyBoundary 1 |>.dutyBoundary 2 |>.dutyBoundary 7)

/-- A value limited to ±`n`. -/
def clampF (n : Int) (v : Num) : Num :=
  if numLt (numOfInt n) v then numOfInt n else if numLt v (numOfInt (-n)) then numOfInt (-n) else v

/-- The mean error of a die since the last recalibration, in units of 2^-30 °C rounded down; none without a healthy diode (R539; log entry 85). -/
def Power.meanError (p : Power) (die : Nat) : Option Int :=
  let n := mget 0 p.errCount die
  if n = 0 then none else some (mget 0 p.errSum die / (n : Int))

/-- Every 10,000 rounds the errors of the dies that have a healthy diode correct OFF, and the set comes into force at the next round
(R516, R539). The owner of duty 2 does it. -/
def execThermalCalibrate (k : Fin 4) (s : State) : Answer :=
  let t := s.power.thermal
  let fixOff (i : Nat) : BitVec 16 :=
    let o := t.off.getD i 0
    match s.power.meanError (spotDie i) with
    | none => o
    | some e =>
      if 2 * e.natAbs ≤ 2 ^ 30 then o
      else BitVec.ofNat 16 (encodeFloat fmtF16 0 (clampF 20 (numAdd (decodeFloat fmtF16 o.toNat)
        (clampF 2 (numMul (numOfInt e) (.fin false 1 (-30)))))))
  .next (if s.lodge.rounds % 10000 ≠ 0 ∨ s.lodge.rounds = 0 ∨ s.dutyOwner 2 ≠ k.val ∨ s.stwOn k.val = false then s
    else { s with power := { s.power with thermal := { t with pendOff := some ((List.range 136).map fixOff) }, errSum := [], errCount := [] } })

end Sys2Proof.Machine
end

