-- ==== Sys2Proof/Machine/Live.lean ====
section
/-! DEFINITION. Management endpoints and live service: EIDs, the Hahothen management profile, PLDM sensors and the power cap effecter,
and the live-service commands (R507 to R514, R523, R533, R594 to R603). -/

namespace Sys2Proof.Machine

/-! ### Endpoints (R507 to R510, R560, R566) -/

/-- The MCTP endpoints answer from the end of phase 1, and while the Lodge holds (R557, R560); a request that finds their duty without an
owner is not answered (R499). -/
def State.answers (s : State) : Bool := ((decide (2 ≤ s.lodge.phase) && decide (s.lodge.phase ≤ 7)) || decide (s.lodge.phase = 9)) && s.dutyUp 4

/-- The recovery endpoint answers over SMBus only (R566). -/
def State.recovers (s : State) (t : Transport) : Bool := decide (s.lodge.phase = 8) && decide (t = .smbus)

/-- A message that reaches an endpoint fires the source of its transport (R501). -/
def State.heard (s : State) (t : Transport) : State :=
  (s.fireInt (match t with | .smbus => 0x30 | .vdm => 0x31 | .doe => 0x32)).dutyBoundary 4

/-- The binding by which manager `m` speaks: even numbers SMBus, odd numbers PCIe VDM (log entry 52). -/
def managerPath (m : Nat) : Transport := if m % 2 = 0 then .smbus else .vdm

/-- A manager's session. -/
def State.manager (s : State) (m : Nat) : Manager := mget Manager.zero s.lodge.managers m
def State.setManager (s : State) (m : Nat) (x : Manager) : State :=
  { s with lodge := { s.lodge with managers := mput Manager.zero s.lodge.managers m x } }

/-- Set Endpoint ID of a binding's bus owner (R507); the DOE mailbox has no EID. -/
def execSetEndpointId (binding : Transport) (eid : Byte) (s : State) : Answer :=
  let h := s.heard binding
  .next (if !s.answers && !s.recovers binding then s
    else match binding with
      | .smbus => { h with lodge := { h.lodge with eidSmbus := eid } }
      | .vdm => { h with lodge := { h.lodge with eidVdm := eid } }
      | .doe => s)

/-- The response to a profile message: COMMAND with bit 7 set, INSTANCE, CC, and what follows (R510). -/
def State.respond (s : State) (m cmd : Nat) (inst : Byte) (cc : Nat) (rest : List Byte) : State :=
  s.send (.mgmt m ([BitVec.ofNat 8 (128 + cmd), inst, BitVec.ofNat 8 cc] ++ rest))

/-- PROFILE_OFFER: the highest common version, kept for the manager; ACTIVE shows the version most recently chosen (R11, R12, R509, R510). -/
def execProfileOffer (m : Nat) (inst : Byte) (offer : BitVec 16) (s : State) : Answer :=
  let v : Byte := bestVersion offer
  .next (if !s.answers then s
    else
      let s1 := (s.heard (managerPath m)).setManager m { s.manager m with version := v }
      let s2 := if v = 0 then s1 else { s1 with lodge := { s1.lodge with ifActive2 := v } }
      s2.respond m 1 inst 0 [v])

/-- A profile command of a manager: 0x03 until it has chosen a version (R510). -/
def State.profile (s : State) (m cmd : Nat) (inst : Byte) (f : State → State) : State :=
  if !s.answers then s
  else
    let h := s.heard (managerPath m)
    if (s.manager m).version = 0 then h.respond m cmd inst 3 [] else f h

/-- LIVE_DATA: bytes into the manager's staging buffer of 65,536 bytes; beyond it the request fails and nothing is written (R510). -/
def execLiveData (m : Nat) (inst : Byte) (off : BitVec 32) (data : List Byte) (s : State) : Answer :=
  let x := s.manager m
  .next (s.profile m 2 inst fun s =>
    (if data.length = 0 ∨ 1024 < data.length ∨ 65536 < off.toNat + data.length then s.respond m 2 inst 1 []
     else (s.setManager m { x with buffer := memWrite x.buffer off.toNat data }).respond m 2 inst 0 []))

/-- LIVE_STATUS: RESULT, and whether a command runs (R510). -/
def execLiveStatus (m : Nat) (inst : Byte) (s : State) : Answer :=
  .next (s.profile m 4 inst fun s => (s.respond m 4 inst 0 [s.lodge.liveResult, if s.lodge.liveRun.isSome then 1 else 0]))

/-- A PLDM response: type, command, completion code, and what follows; the DOE mailbox carries SPDM only (R507, R508). -/
def State.pldmAnswer (s : State) (t : Transport) (type cmd : Byte) (cc : Nat) (rest : List Byte) : State :=
  if t = .doe then s else s.send (.pldm t ([type, cmd, BitVec.ofNat 8 cc] ++ rest))

/-- A PLDM type or command that the manual does not name: ERROR_UNSUPPORTED_PLDM_CMD (R508). -/
def execPldmUnsupportedCmd (binding : Transport) (type cmd : Byte) (s : State) : Answer :=
  .next (if s.answers || s.recovers binding then (s.heard binding).pldmAnswer binding type cmd 5 [] else s)

/-- A PLDM type 2 read of a numeric sensor, as the last housekeeping round left it (R508, R511; log entry 50). -/
def execGetSensorReading (binding : Transport) (sensor : BitVec 16) (s : State) : Answer :=
  .next (if !s.answers then s
    else if 1 ≤ sensor.toNat ∧ sensor.toNat ≤ 15 then
      (s.heard binding).pldmAnswer binding 2 0x11 0 (toBytes 4 (ucode 32 (mget 0 s.lodge.sensors sensor.toNat)))
    else (s.heard binding).pldmAnswer binding 2 0x11 0x80 [])

/-- PLDM type 2 numeric effecter 1: the power cap, in force at the next round (R533). -/
def execSetPowerCapEffecter (value : BitVec 16) (s : State) : Answer :=
  .next (if s.answers then { s with power := { s.power with cap := BitVec.ofNat 12 (min value.toNat 4095) } } else s)

/-! ### Live-service commands (R512 to R514, R523) -/

/-- LDG_LIVE_CMD as a command starts: OP, UNIT and GO. -/
def State.liveBegin (s : State) (op : Nat) (unit : BitVec 16) (payload : List Byte) : State :=
  { s with lodge := { s.lodge with liveOp := BitVec.ofNat 4 op, liveUnit := unit, liveGo := true
                                   liveRun := some { op := op, unit := unit, payload := payload } } }

/-- A live-service command of the physical function or of a manager: not accepted while another is in progress, RESULT 3 where the host
payload cannot be read, else carried out (R510, R512). A manager's payload is the first bytes of its buffer. -/
def State.live (s : State) (src : LiveSrc) (op : Nat) (unit : BitVec 16) (payload : List Byte) (readOk : Bool)
    (go : State → List Byte → State) : State :=
  match src with
  | .host =>
    if s.lodge.liveRun.isSome then { s with lodge := { s.lodge with liveResult := 1 } }
    else
      let s1 := (s.fireInt 0x33).liveBegin op unit payload
      if readOk then go s1 payload else (s1.readRefused 0).liveEnd 3
  | .manager m inst =>
    s.profile m 3 inst fun s =>
      (if s.lodge.liveRun.isSome then s.respond m 3 inst 4 []
       else if 65536 < payload.length then s.respond m 3 inst 1 []
       else
         let bs := memRead (s.manager m).buffer 0 payload.length
         go ((s.respond m 3 inst 0 []).liveBegin op unit bs) bs)

/-- Whether a CURVE payload is whole and no header in it makes every lane NaN (R139, R512). -/
def curvesOk (bs : List Byte) : Bool :=
  let n := (maskSlots (byteField bs 0 1)).length
  decide (bs.length = 1 + 4096 * n) && (chunks 4096 n (bs.drop 1)).all fun t => curveValid (memWrite [] 0 t)

/-- CURVE waits for the next quiesce point; without a running job its RESULT is 5 (R512, R513; log entry 51). -/
def execLiveCurve (src : LiveSrc) (payload : List Byte) (readOk : Bool) (s : State) : Answer :=
  .next (s.live src 1 0 payload readOk fun s bs =>
    if !curvesOk bs then s.liveEnd 2 else if s.jobLive then s else s.liveEnd 5)

/-- The entries of a TIMING payload. -/
def timingEntry (bs : List Byte) (e : Nat) : Nat := byteField bs (1 + 4 * e) 4

/-- A TIMING payload: 257 bytes, entry 0 zero, entries 48 to 55 at their reset values (R199, R226, R512). -/
def timingOk (bs : List Byte) : Bool :=
  let band := byteField bs 0 1
  decide (bs.length = 257) && decide (band < 4) && decide (timingEntry bs 0 = 0) &&
    (List.range 8).all fun i => decide (timingEntry bs (48 + i) = tableReset band (48 + i))

/-- TIMING: the band's shadow in all eight controllers, then the swap at their refresh boundaries (R226, R231). -/
def execLiveTiming (src : LiveSrc) (payload : List Byte) (readOk : Bool) (s : State) : Answer :=
  .next (s.live src 2 0 payload readOk fun s bs =>
    if !timingOk bs then s.liveEnd 2
    else
      let b := byteField bs 0 1
      (List.range 8).foldl (fun acc n =>
        let c := acc.stack n
        let sh := (List.range 64).foldl (fun m e => if tableReserved e then m else mput (tableReset b e) m (b * 64 + e) (timingEntry bs e % 2 ^ 16)) c.shadows
        acc.setStack n { c with shadows := sh, swap := setBit c.swap b true }) s)

/-- THERMCOEF: in force at the start of the next round, which ends the command (R512, R538). -/
def execLiveThermcoef (src : LiveSrc) (payload : List Byte) (readOk : Bool) (s : State) : Answer :=
  .next (s.live src 3 0 payload readOk fun s bs =>
    if !coefficientsOk bs then s.liveEnd 2
    else { s with power := { s.power with thermal := { s.power.thermal with pending := some bs } } })

/-- A physical tile's retirement: a mapped tile waits DRAINING for a remap to its region's spare; one that is mapped to nothing is retired
at once (R514). -/
def State.retireTile (s : State) (u : Nat) : State :=
  if 96 ≤ (s.unit u).logical then (s.allow u 5).liveEnd 0
  else match s.spareOf (u % 4096 / 13) with
    | none => s.liveEnd 4
    | some v =>
      if s.spareClaimed u then s.liveEnd 4
      else
        let s1 := s.allow u 3
        let s2 := s1.setUnit u { s1.unit u with draining := true }
        if s2.jobLive then s2 else s2.remapTile u v

/-- A steward's retirement: its duties go to another enabled steward, and it is held in reset (R499, R514). -/
def State.retireSteward (s : State) (k : Nat) : State :=
  match (List.range 4).find? fun j => j != k && s.stwOn j with
  | none => s.liveEnd 4
  | some j =>
    let s1 := (List.range 8).foldl (fun acc d => if acc.dutyOwner d = k then acc.setDuty d j else acc) s
    ((s1.holdSteward k).allow (unitId 8 k) 5).liveEnd 0

/-- RETIRE (R514): other classes are refused with RESULT 6, and a unit already RETIRED needs nothing. -/
def execLiveRetire (src : LiveSrc) (unit : BitVec 16) (s : State) : Answer :=
  .next (s.live src 4 unit [] true fun s _ =>
    let u := unit.toNat
    if !isUnit u || !(([0, 1, 5, 8] : List Nat).contains (u / 4096)) then s.liveEnd 6
    else if (s.unit u).allowed = 5 then s.liveEnd 0
    else match u / 4096 with
      | 0 => s.retireTile u
      | 1 =>
        let s1 := s.allow u 3
        if s1.servingRuns then s1 else s1.retireEngine u
      | 5 => ((s.disableLink (u % 4096)).allow u 5).liveEnd 0
      | _ => s.retireSteward (u % 4096))

/-! ### Perturbation registers (R594 to R603) -/

/-- A word whose bits outside `mask` stay as they are; bits of `w1s` can only be set. -/
def blend (old new : Reg64) (mask w1s : Nat) : Reg64 :=
  let m := BitVec.ofNat 64 mask
  let o := BitVec.ofNat 64 w1s
  (old &&& ~~~ m) ||| (new &&& m) ||| (old &&& o)

/-- Writes a perturbation register by its device address; none where no such register stands (R595, R597, R600, R601, R603). -/
def State.pertWrite (s : State) (a : Nat) (v : Reg64) : Option State :=
  if a / 2 ^ 52 ≠ 4 then none
  else
    let o := a % 2 ^ 52
    if 0x10000000 ≤ o ∧ o < 0x10000000 + 96 * 0x10000 ∧ o % 0x10000 = 0x600 then
      let n := (o - 0x10000000) / 0x10000
      let t := s.tile n
      some (s.setTile n { t with pert := blend t.pert v (2 ^ 34 - 1) (2 ^ 33), pertWins := 0 })
    else if 0x20000000 ≤ o ∧ o < 0x20000000 + 8 * 0x10000 ∧ o % 0x10000 = 0x600 then
      let n := (o - 0x20000000) / 0x10000
      some (s.setRegion n { s.region n with pert := v &&& 0x1F7FFF#64 })
    else if 0x30000000 ≤ o ∧ o < 0x30000000 + 8 * 0x100000 ∧ o % 0x100000 = 0x400 then
      let n := (o - 0x30000000) / 0x100000
      let k := s.stack n
      some (s.setStack n { k with pert := blend k.pert v (2 ^ 32 - 1) (2 ^ 31) })
    else if 0x70020000 ≤ o ∧ o < 0x70020000 + 24 * 0x100 ∧ o % 0x100 = 0x20 then
      let n := (o - 0x70020000) / 0x100
      some (s.setLink n { s.link n with pert := v &&& 0x1FFFF#64, pertCount := 0 })
    else none

/-- The records of a PERTURB payload: address and value (R595). -/
def pertRecords (bs : List Byte) : List (Nat × Reg64) :=
  (chunks 16 256 bs).map fun r => (byteField r 0 7, BitVec.ofNat 64 (byteField r 8 8))

/-- PERTURB: every record in payload order, at once; nothing is written where the command is refused (R512, R595). -/
def execLivePerturb (src : LiveSrc) (payload : List Byte) (readOk : Bool) (s : State) : Answer :=
  .next (s.live src 5 0 payload readOk fun s bs =>
    let whole := decide (bs.length % 16 = 0) && decide (16 ≤ bs.length) && decide (bs.length ≤ 4096)
    let done := (pertRecords bs).foldl (fun (acc : Option State) r => acc.bind fun t => t.pertWrite r.1 r.2) (some s)
    match s.lodge.testEn && whole, done with
    | true, some t => t.liveEnd 0
    | _, _ => s.liveEnd 2)

/-- Clearing LDG_TEST_CTL.EN sets every perturbation register to zero (R594). -/
def State.clearPert (s : State) : State :=
  let s1 := s.tiles.foldl (fun acc e => acc.setTile e.1 { acc.tile e.1 with pert := 0, pertWins := 0 }) s
  let s2 := s1.regions.foldl (fun acc e => acc.setRegion e.1 { acc.region e.1 with pert := 0 }) s1
  let s3 := s2.stk.foldl (fun acc e => acc.setStack e.1 { acc.stack e.1 with pert := 0 }) s2
  s3.links.foldl (fun acc e => acc.setLink e.1 { acc.link e.1 with pert := 0, pertCount := 0 }) s3

end Sys2Proof.Machine
end

