-- ==== Sys2Proof/Machine/Startup.lean ====
section
/-! DEFINITION. Module resets, the start-up sequence, the supply feeds, and the function-level reset of the physical function
(R483, R554 to R560, R582 to R592). -/

namespace Sys2Proof.Machine

/-! ### Firmware images and slots (R561 to R563) -/

/-- The key of a component's slot, and the image listed there. -/
def fwKey (comp slot : Nat) : Nat := comp * 2 + slot % 2
def State.fwImage (s : State) (comp slot : Nat) : Option FwImage := oget s.lodge.fwSlots (fwKey comp slot)

/-- A component's fuse counter (R564). -/
def State.fuse (s : State) (comp : Nat) : Nat := mget 0 s.lodge.fuses comp

/-- Whether a verifier accepts an image as a component (R563): the loader supports the DUTYVER of the factory's own firmware, and others as
log entry 5 says. -/
def State.fwOk (s : State) (comp : Nat) (i : FwImage) : Bool :=
  decide (i.magic = 0x5A484D49#32) && decide (i.component.toNat = comp) && decide (i.len.toNat ≤ 4194304) && i.keyDigestOk &&
    !s.lodge.revoked.getLsbD i.keyIdx.toNat && decide (s.fuse comp ≤ i.svn.toNat) && i.sigOk &&
    (decide (comp ≠ 1) || decide (i.dutyVer = Config.factoryDutyVer) || Config.dutyVerOk i.dutyVer)

/-- Whether a slot serves at start-up: what the verifier finds of the flash, and of an image written in service. -/
def State.slotGood (s : State) (comp slot : Nat) (seen : Bool × Bool) : Bool :=
  (if slot % 2 = 0 then seen.1 else seen.2) && (match s.fwImage comp slot with | some i => s.fwOk comp i | none => true)

/-- The slot that a verifier takes: the preferred one, else the other with FALLBACK, else none (R563). -/
def State.pickSlot (s : State) (comp : Nat) (seen : Bool × Bool) : Option (Nat × Bool) :=
  let p := mget 0 s.lodge.prefer comp % 2
  if s.slotGood comp p seen then some (p, false)
  else if s.slotGood comp (1 - p) seen then some (1 - p, true)
  else none

/-! ### Phases 3 to 6 (R555 to R559) -/

/-- The recorded repairs of a stack come back: soft repairs as spare rows taken, remap entries in their order (R256 to R258, R556). -/
def Stack.reloadRepairs (k : Stack) (n : Nat) (l : List (Nat × Nat)) : Stack :=
  l.foldl (fun c e =>
    let pc := e.2 / 524288
    let bank := pc * 32 + e.2 % 32
    if e.1 = n * 2 then { c with spareUsed := mput 0 c.spareUsed bank (mget 0 c.spareUsed bank + 1) }
    else if e.1 = n * 2 + 1 then c.remapPage e.2
    else c) k

/-- Phase 3: stacks trained, repairs, band, scrubber; a stack that fails is unavailable (R210, R556). -/
def State.startStacks (s : State) (o : StartupObs) : State :=
  let s1 := (List.range 8).foldl (fun acc n =>
    let b := o.bands.getD n 0
    let k := { (acc.stack n).reloadRepairs n acc.lodge.nvRepairs with band := b, bandReq := b, scrubInt := 3018 }
    let a := acc.setStack n k
    let u := unitId 4 n
    let t := { a with power := { a.power with band := mput 0 a.power.band n b.toNat } }
    if o.stacksOk.getLsbD n then t else t.setUnit u { t.unit u with allowed := 5 }) s
  { s1 with lodge := { s1.lodge with stacksOk := o.stacksOk } }

/-- A unit starts RETIRED: it failed its test, or was retired in service (R558). -/
def State.startRetired (s : State) (u : Nat) : State := s.setUnit u { s.unit u with allowed := 5 }

/-- The spare of a region takes the logical number of its first failed tile; a second one leaves its logical tile unavailable
(R16, R17, R558). -/
def State.startSpare (s : State) (r : Nat) : State :=
  let bad := ((List.range 12).map fun i => unitId 0 (r * 13 + i)).filter fun u => decide ((s.unit u).allowed = 5)
  let v := unitId 0 (r * 13 + 12)
  let lost (s : State) (l : List Nat) : State := l.foldl (fun acc u => acc.setUnit u { acc.unit u with unavailable := true }) s
  match bad with
  | [] => s
  | u :: more =>
    if (s.unit v).allowed = 1 then
      let t := (s.unit u).logical
      let s1 := s.setUnit u { s.unit u with logical := 0x3FF }
      lost (s1.setUnit v { s1.unit v with allowed := 2, logical := t }) more
    else lost s bad

/-- Phase 4: self-tests of tiles, bank engines, region engines and tombolas, and spare mapping (R556, R558); a retired engine is no target, a retired steward not enabled. -/
def State.startUnits (s : State) (o : StartupObs) : State :=
  let bad := (o.badTiles.filter (· < 104)).map (unitId 0) ++ (o.badEngines.filter (· < 512)).map (unitId 1) ++
    (o.badUnits.filter fun u => [2, 3, 6].contains (u / 4096) && decide (u % 4096 < unitCount (u / 4096))) ++ s.lodge.nvRetired
  let s1 := bad.foldl (fun acc u => acc.startRetired u) s
  let s2 := bad.foldl (fun acc u =>
    let i := u % 4096
    match u / 4096 with
    | 1 => acc.setStack (i / 64) { acc.stack (i / 64) with engAvail := setBit (acc.stack (i / 64)).engAvail (i % 64) false }
    | 8 => { acc with lodge := { acc.lodge with stwEn := setBit acc.lodge.stwEn i false } }
    | _ => acc) s1
  (List.range 8).foldl (fun acc r => acc.startSpare r) s2

/-- Whether a unit whose loss the host hears of is unavailable: a logical tile or a stack (R17, R210, R485). -/
def State.lostUnits (s : State) : List Nat :=
  (s.ust.filter fun e => e.2.unavailable || (decide (e.1 / 4096 = 4) && decide (e.2.allowed = 5))).map (·.1)

/-- Phases 2 to 6: rails, stacks, units, links, and power good (R556, R559). -/
def State.raiseRails (s : State) (o : StartupObs) : State :=
  let s1 := (({ s with power := { s.power with railsOn := true } }).startStacks o).startUnits o
  let s2 := (o.badLinks.filter (· < 24)).foldl (fun acc n => acc.setLink n { acc.link n with state := 7 }) s1
  let degraded := !s2.lostUnits.isEmpty || decide (s2.lodge.stwEn ≠ 0xF#4)
  { s2 with power := { s2.power with pwrgd := true }
            lodge := { s2.lodge with phase := 6, hostevt := setBit s2.lodge.hostevt 1 degraded } }

/-- Whether phase 2 may leave HOLD: input voltage, coolant flow, temperatures (R557). -/
def mayStart (o : StartupObs) : Bool := o.voltsOk && o.flowOk && o.coolOk

/-- What the firmware writes as it starts (R501; log entry 53): the interrupt sources, the physical function's semaphores and notification
slots, and the thermal coefficients of the configuration data. -/
def State.firmwareSetup (s : State) : State :=
  let src (n : Nat) : IntSrc :=
    { IntSrc.zero with en := true, tileOk := decide (0x100 ≤ n)
                       hostOk := decide (0x100 ≤ n) || (decide (0x80 ≤ n) && decide (n ≤ 0x8F)) }
  let ints := (List.range 2048).map fun n => (n, src n)
  let s1 : State := { s with
    lodge := { s.lodge with ints := ints }
    power := { s.power with thermal := Thermal.zero.load Config.coefficients }
    sem := { s.sem with quota := mput (0, 0) s.sem.quota 0 (0, 65536) } }
  s1.setFn 0 { s1.fn 0 with ntfFirst := 0, ntfCount := 1024 }

/-- RECOVERY: every rail stays off but VLODGE (R566). -/
def State.enterRecovery (s : State) (fsl : Bool) : State := { s with lodge := { s.lodge with phase := 8, recoveryFsl := fsl } }

/-- Phases 0 to 2 (R556, R563): the boot ROM takes a first-stage loader, the loader the steward firmware and the configuration data; then the
rails, or HOLD. -/
def State.bootUp (s : State) (o : StartupObs) : State :=
  match s.pickSlot 2 o.fslGood with
  | none => s.enterRecovery true
  | some a =>
    let s1 := { s with lodge := { s.lodge with slotFsl := decide (a.1 = 1), fallback := a.2 } }
    match s1.pickSlot 1 o.fwGood, s1.pickSlot 3 o.cfgGood with
    | some b, some c =>
      let l := s1.lodge
      let s2 := { s1 with lodge := { l with slotFw := decide (b.1 = 1), slotCfg := decide (c.1 = 1), fallback := l.fallback || b.2 || c.2 } }
      let s3 := s2.firmwareSetup
      if mayStart o then s3.raiseRails o else { s3 with lodge := { s3.lodge with phase := 9 } }
    | _, _ => s1.enterRecovery false

/-! ### Module resets (R554, R555) -/

/-- What a module reset leaves: every domain at its reset state; the fuses, the flash and the non-volatile storage kept, the level of PERST_N as it
is, and the thermal trip output until its cause is gone (R555, R582). -/
def State.afterReset (s : State) (cause : Nat) (o : StartupObs) : State :=
  let l := s.lodge
  { State.reset with
    pending := s.pending, frees := s.frees, out := s.out
    lodge := { Lodge.zero with
      fuses := l.fuses, fwSlots := l.fwSlots, prefer := l.prefer, revoked := l.revoked, nvRetired := l.nvRetired
      nvSdCause := l.nvSdCause, nvRepairs := l.nvRepairs, perst := l.perst, bootCause := BitVec.ofNat 4 cause, boot := some o }
    power := { Power.zero with sdCause := l.nvSdCause, thermTrip := s.power.thermTrip && o.causePresent } }

/-- A module reset for a cause, and the start-up sequence with what it finds (R554 to R559). -/
def State.moduleReset (s : State) (cause : Nat) (o : StartupObs) : State := (s.afterReset cause o).bootUp o

/-- The input rises through 40 V (R554): CAUSE 0. -/
def execPowerOn (o : StartupObs) (s : State) : Answer := .next (s.moduleReset 0 o)

/-- MRST_N is held low: 10 µs cause a reset, a shorter pulse is ignored (R554). -/
def execMrst (ns : Nat) (o : StartupObs) (s : State) : Answer := .next (if 10000 ≤ ns then s.moduleReset 1 o else s)

/-- PERST_N is asserted: a module reset once the link has reached DL_Active, without effect before (R554, R559). -/
def execPerstAssert (o : StartupObs) (s : State) : Answer :=
  let s1 := { s with lodge := { s.lodge with perst := true } }
  .next (if s.lodge.dlSeen then s1.moduleReset 2 o else s1)

/-- PERST_N is deasserted: the port trains once phase 6 begins (R556, R559). -/
def execPerstDeassert (s : State) : Answer := .next { s with lodge := { s.lodge with perst := false } }

/-- What start-up finds after HOLD; the address strap stays as sampled in phase 0 (R584). -/
def StartupObs.afterHold (o : StartupObs) (boot : Option StartupObs) : StartupObs :=
  match boot with
  | some x => { o with strap := x.strap }
  | none => o

/-- Phase 2 leaves HOLD when voltage, flow and temperatures allow (R557). -/
def execHoldRelease (o : StartupObs) (s : State) : Answer :=
  .next (if s.lodge.phase = 9 ∧ mayStart o then
    ({ s with lodge := { s.lodge with boot := some (StartupObs.afterHold o s.lodge.boot) } }).raiseRails o
  else s)

/-- No enabled steward's heartbeat has advanced for 10 ms: the watchdog resets the module with CAUSE 3 (R500). -/
def execLodgeWatchdog (o : StartupObs) (s : State) : Answer :=
  let dead (k : Nat) : Bool := !s.stwOn k || decide (1000000 ≤ (s.time.truncate 32 - (s.steward k).lastTime : BitVec 32).toNat)
  .next (if (List.range 4).all dead then s.moduleReset 3 o else s)

/-- The PCIe link reaches DL_Active: READY, round-robin mode ends, and the host hears of units that start-up left unavailable
(R485, R487, R556, R558). READY starts the proof of the images that start-up took (R565; log entry 54). -/
def execDlActive (speed : BitVec 4) (width : BitVec 5) (flit : Bool) (ms : BitVec 16) (s : State) : Answer :=
  .next (if s.lodge.phase ≠ 6 ∨ s.lodge.perst then s
    else
      let s1 := { s with
        hstLink := BitVec.ofNat 10 (speed.toNat + width.toNat * 2 ^ 4 + bitAt flit 9)
        lodge := { s.lodge with phase := 7, rr := false, readyMs := ms, readyAt := s.time.toNat, dlSeen := true
                                activatedAt := some s.time.toNat } }
      s1.lostUnits.foldl (fun acc u => acc.send (.aer (BitVec.ofNat 16 u))) s1)

/-! ### Supply feeds (R526, R586) -/

/-- A feed is lost: the other one takes the load if it is within 40 V to 60 V, else the joined input falls (R526, R586). -/
def execFeedLoss (feedB : Bool) (otherGood : Bool) (s : State) : Answer :=
  let p := s.power
  let other := otherGood && !p.feedLost.getLsbD (if feedB then 0 else 1)
  let s1 := { s with power := { p with feedLost := setBit p.feedLost (if feedB then 1 else 0) true } }
  .next (if p.railsOn && !other then s1.faultRail .inputLow else s1)

/-! ### The function-level reset of the physical function (R483) -/

/-- The registers of the physical function's window 0 return to their reset values, but for RWL fields and the unit state table; registers that only
report the module's state go on reporting it (log entry 55). -/
def State.resetWindow0 (s : State) : State :=
  let z := Fn.zero 0
  let l := s.lodge
  let s1 := (s.setFn 0 { z with busMaster := (s.fn 0).busMaster, ats := (s.fn 0).ats, ntfFirst := (s.fn 0).ntfFirst, ntfCount := (s.fn 0).ntfCount })
  let s2 := s1.fns.foldl (fun acc e =>
    let x := acc.fn e.1
    (acc.setFn e.1 { x with quotaA := 0, quotaPendA := none, sapValid := false, sapRonly := false, sapLog2 := 0x14#6, sapBase := 0 })) s1
  let s3 := s2.fns.foldl (fun acc e => if e.1 = 0 then acc else acc.setRange e.1 0) s2
  let own (e : Nat × NtfSlot) : Bool := decide (e.2.func = 0)
  { s3 with
    sem := { s3.sem with ntf := s3.sem.ntf.filter fun e => !own e }
    serving := { s3.serving with orgBase := 0, orgSize := 0 }
    job := { s3.job with imgAddr := 0, jobVec := 0 }
    power := { s3.power with cap := 0, capWin := 0x64#10 }
    lodge := { l with
      ifActive0 := 0, ifActive4 := 0, hostevt := 0, hostevtVec := 0, liveOp := 0, liveUnit := 0, liveAddr := 0, liveResult := 0
      liveDone := 0, jtagRef := false, buCmd := 0, buData := 0, traceCtl := Lodge.zero.traceCtl, traceBase := 0, traceW := 0
      traceLost := 0 } }

/-- A function-level reset of the physical function: the job is torn down with cause 3, every virtual function is disabled and reset, and
window 0 returns to its reset values (R482, R483). -/
def execPfFlr (s : State) : Answer :=
  let s1 := (s.requestTeardown 3 none).teardown
  let s2 := (s1.fns.filter fun e => decide (e.1 ≠ 0) && e.2.enabled).foldl (fun acc e => acc.vfReset e.1) s1
  .next s2.resetWindow0

end Sys2Proof.Machine
end

