-- ==== Sys2Proof/Machine/Trust.lean ====
section
/-! DEFINITION. Firmware update and commit, and SPDM attestation (R508, R515, R561 to R571). -/

namespace Sys2Proof.Machine

/-! ### Firmware update (R508, R515, R563 to R566) -/

/-- The slot in use of a component. -/
def State.slotInUse (s : State) (comp : Nat) : Nat :=
  match comp with
  | 1 => if s.lodge.slotFw then 1 else 0
  | 2 => if s.lodge.slotFsl then 1 else 0
  | _ => if s.lodge.slotCfg then 1 else 0

/-- An image is written to a slot. -/
def State.storeImage (s : State) (comp slot : Nat) (i : FwImage) : State :=
  { s with lodge := { s.lodge with fwSlots := oput s.lodge.fwSlots (fwKey comp slot) i } }

/-- The slot of a component that start-up prefers. -/
def State.preferSlot (s : State) (comp slot : Nat) : State :=
  { s with lodge := { s.lodge with prefer := mput 0 s.lodge.prefer comp (slot % 2) } }

/-- VerifyComplete of PLDM firmware update: 0 success, 1 failure (R515; log entry 50). -/
def State.verifyComplete (s : State) (t : Transport) (result : Nat) : State := s.send (.pldm t [0x05, 0x17, BitVec.ofNat 8 result])

/-- What start-up will find of a slot that has been written with a verified image. -/
def StartupObs.written (o : StartupObs) (comp slot : Nat) : StartupObs :=
  let put (p : Bool × Bool) : Bool × Bool := if slot % 2 = 0 then (true, p.2) else (p.1, true)
  match comp with
  | 1 => { o with fwGood := put o.fwGood }
  | 2 => { o with fslGood := put o.fslGood }
  | _ => { o with cfgGood := put o.cfgGood }

/-- In RECOVERY the failed verifier's components are accepted, checked and written to the failed slot, and the module resets itself
with CAUSE 4 (R554, R566). -/
def State.recoverWith (s : State) (i : FwImage) (written : Bool) : State :=
  let comp := i.component.toNat
  let allowed := if s.lodge.recoveryFsl then decide (comp = 2) else decide (comp = 1) || decide (comp = 3)
  if !allowed || !s.fwOk comp i || !written then s.verifyComplete .smbus 1
  else
    let slot := mget 0 s.lodge.prefer comp % 2
    let s1 := (s.storeImage comp slot i).verifyComplete .smbus 0
    match s.lodge.boot with
    | some o => s1.moduleReset 4 (StartupObs.written o comp slot)
    | none => s1

/-- A firmware update by a manager: the image is written to the inactive slot and verified; loader and configuration data take effect at the
next module reset, steward firmware at ActivateFirmware (R508, R515). A manager with no common version of the profile is refused (R12, R509). -/
def execPldmFwUpdate (offer : FwOffer) (slotWritten : Bool) (s : State) : Answer :=
  let m := offer.manager
  let img := offer.image
  let comp := img.component.toNat
  let path := managerPath m
  let h := s.heard path
  .next (if s.lodge.phase = 8 then (if path = .smbus then h.recoverWith img slotWritten else s)
    else if !s.answers then s
    else if (s.manager m).version = 0 then h.pldmAnswer path 5 0x10 1 []
    else if comp < 1 ∨ 3 < comp ∨ !s.fwOk comp img ∨ !slotWritten then (h.verifyComplete path 1).hostEvent 5
    else
      let slot := 1 - s.slotInUse comp
      let s1 := (h.storeImage comp slot img).verifyComplete path 0
      if comp = 1 then s1 else (s1.preferSlot comp slot).hostEvent 5)

/-- The DUTYVER of the steward firmware in a slot. -/
def State.dutyVerOf (s : State) (slot : Nat) : BitVec 16 :=
  match s.fwImage 1 slot with
  | some i => i.dutyVer
  | none => Config.factoryDutyVer

/-- A steward is reset into an image: its services go back to pending, its stack is empty, its duties come back to it (R515). -/
def State.rebootSteward (s : State) (k : Nat) : State :=
  let s1 := s.lodge.ints.foldl (fun acc e =>
    if e.2.inSvc && decide (e.2.owner.toNat = k) then
      acc.setIntSrc e.1 { e.2 with inSvc := false, offered := false, count := satInc e.2.count, sat := e.2.sat || decide (e.2.count = 255#8) }
    else if e.2.offered && decide (e.2.owner.toNat = k) then acc.setIntSrc e.1 { e.2 with offered := false }
    else acc) s
  s1.setSteward k { s1.steward k with running := 16, stack := [], lastTime := s1.time.truncate 32 }

/-- ActivateFirmware: one enabled steward at a time, from 3 down to 0, each joining with the new image before the next is taken; a failed self-test or
another duty-state layout takes every updated steward back to the old image, and the update is reported as failed (R515). It belongs to the
profile of the manager that asks (R12, R509). -/
def execActivateFirmware (a : FwActivation) (s : State) : Answer :=
  let old := s.slotInUse 1
  let new := 1 - old
  let on := [3, 2, 1, 0].filter fun k => s.stwOn k
  .next (if !s.answers ∨ (s.manager a.manager).version = 0 ∨ (s.fwImage 1 new).isNone then s
    else
      let joins (k : Nat) : Bool := a.joinOk.getD k false && decide (s.dutyVerOf new = s.dutyVerOf old)
      let taken := on.takeWhile joins
      if taken.length = on.length ∧ ¬ on.isEmpty then
        let s1 := on.foldl (fun acc k => acc.rebootSteward k) s
        let s2 := s1.preferSlot 1 new
        ({ s2 with lodge := { s2.lodge with slotFw := decide (new = 1), activatedAt := some s.time.toNat } }).hostEvent 5
      else ((on.take (taken.length + 1)).foldl (fun acc k => acc.rebootSteward k) s).hostEvent 5)

/-- Lodge cycles in 600 s (R565). -/
def proofCycles : Nat := 60000000000

/-- Whether a component's image has proved itself (R565). -/
def State.proved (s : State) (comp : Nat) : Bool :=
  if comp = 2 then decide (s.lodge.phase = 7) && decide (s.lodge.readyAt + proofCycles ≤ s.time.toNat)
  else match s.lodge.activatedAt with
    | some t => decide (t + proofCycles ≤ s.time.toNat)
    | none => false

/-- A commit check: an image with COMMIT that has proved itself raises its counter to SVN and burns its REVOKE fuses; a value never falls
(R564, R565). -/
def execFwCommit (component : BitVec 16) (s : State) : Answer :=
  let comp := component.toNat
  .next (match s.fwImage comp (s.slotInUse comp) with
    | some i =>
      if 1 ≤ comp ∧ comp ≤ 3 ∧ i.commit ∧ s.proved comp then
        { s with lodge := { s.lodge with fuses := mput 0 s.lodge.fuses comp (max (s.fuse comp) i.svn.toNat)
                                         revoked := s.lodge.revoked ||| i.revoke } }
      else s
    | none => s)

/-! ### SPDM (R568 to R571) -/

/-- Whether the responder answers on a transport: the mailbox from READY, the MCTP bindings from the end of phase 1 (R560, R569). -/
def State.spdmOn (s : State) (t : Transport) : Bool := if t = .doe then decide (s.lodge.phase = 7) else s.answers

/-- An SPDM 1.4 message of the responder (log entry 56). -/
def State.spdm (s : State) (t : Transport) (bs : List Byte) : State := s.send (.spdm t (0x14 :: bs))

/-- An SPDM ERROR: 0x01 InvalidRequest, 0x03 Busy, 0x04 UnexpectedRequest, 0x07 UnsupportedRequest. -/
def State.spdmError (s : State) (t : Transport) (code : Nat) : State := s.spdm t [0x7F, BitVec.ofNat 8 code, 0]

/-- ERROR ResponseNotReady with RDTExponent 22 (R570). -/
def State.notReady (s : State) (t : Transport) (request : Byte) : State := s.spdm t [0x7F, 0x42, 0, 22, request, 0, 1]

/-- One signature at a time across all transports (R570). -/
def State.beginSignature (s : State) (t : Transport) (request : Byte) (bs : List Byte) : State :=
  if s.lodge.signing.isSome then s.spdmError t 3
  else
    let l := s.lodge
    ({ s with lodge := { l with signing := some (t, bs), signed := l.signed.filter fun e => decide (e.1 ≠ t) } }).notReady t request

/-- The digest of a component's running image (R571). -/
def State.imageDigest (s : State) (comp : Nat) : List Byte :=
  let slot := s.slotInUse comp
  Config.sha3 (Config.fwBytes (s.fwImage comp slot) (fwKey comp slot))

/-- Bits as bytes, bit 0 first. -/
def packBits (l : List Bool) : List Byte :=
  (chunks 8 (l.length / 8 + 1) l).map fun b => BitVec.ofNat 8 ((List.range b.length).foldl (fun n i => n + bitAt (b.getD i false) i) 0)

/-- Measurement block 1 to 7 (R571; the places of the bits of blocks 5 and 6 are log entry 56's). -/
def State.measurement (s : State) (i : Nat) : List Byte :=
  let l := s.lodge
  match i with
  | 1 => Config.sha3 Config.bootRom
  | 2 => s.imageDigest 2
  | 3 => (List.range 4).flatMap fun k => if s.stwOn k then s.imageDigest 1 else List.replicate 48 0
  | 4 => s.imageDigest 3
  | 5 => [1, 2, 3].map (fun c => BitVec.ofNat 8 (s.fuse c)) ++
      [BitVec.ofNat 8 (l.revoked.toNat + bitAt l.slotFsl 4 + bitAt l.slotFw 5 + bitAt l.slotCfg 6 + bitAt l.fallback 7)]
  | 6 => packBits (allUnits.flatMap fun u => (List.range 3).map fun b => (s.unit u).allowed.testBit b)
  | 7 => if s.job.state = 2 then (match s.job.image with
      | some m => m.digest ++ toBytes 8 m.modelId.toNat
      | none => List.replicate 56 0) else List.replicate 56 0
  | _ => []

/-- CHALLENGE: a signature starts, or the responder is busy (R570). -/
def execChallenge (t : Transport) (s : State) : Answer :=
  .next (if !s.spdmOn t then s
    else (s.heard t).beginSignature t 0x83 ([0x14, 0x03, 0, 1] ++ Config.sha3 Config.certChain))

/-- GET_MEASUREMENTS: the number of blocks, one block, or all, each taken at one Lodge cycle; a signed response comes later (R570, R571). -/
def execGetMeasurements (t : Transport) (index : Byte) (signed : Bool) (s : State) : Answer :=
  let i := index.toNat
  let block (i : Nat) : List Byte := BitVec.ofNat 8 i :: (toBytes 2 (s.measurement i).length ++ s.measurement i)
  let body : List Byte := if i = 0 then [7] else if i = 255 then (List.range 7).flatMap fun n => block (n + 1) else block i
  .next (if !s.spdmOn t then s
    else if 7 < i ∧ i ≠ 255 then (s.heard t).spdmError t 1
    else if signed then (s.heard t).beginSignature t 0xE0 ([0x14, 0x60, index] ++ body)
    else (s.heard t).spdm t ([0x60, index] ++ body))

/-- RESPOND_IF_READY: the finished response of the transport, or ResponseNotReady while it is being signed (R570). -/
def execRespondIfReady (t : Transport) (s : State) : Answer :=
  .next (if !s.spdmOn t then s
    else
      let h := s.heard t
      match h.lodge.signed.find? fun e => decide (e.1 = t), h.lodge.signing with
      | some e, _ => ({ h with lodge := { h.lodge with signed := h.lodge.signed.filter fun x => decide (x.1 ≠ t) } }).send (.spdm t e.2)
      | none, some g => if g.1 = t then h.notReady t (g.2.getD 1 0 ||| 0x80) else h.spdmError t 4
      | none, none => h.spdmError t 4)

/-- The signing engine finishes, 3 s after the request at the latest (R570): the response with its signature waits for its requester. -/
def execSpdmSignatureDone (dt : Nat) (s : State) : Answer :=
  .next (match s.lodge.signing with
    | some (t, bs) =>
      if 300000000 < dt then s
      else { s with lodge := { s.lodge with signing := none, signed := s.lodge.signed ++ [(t, bs ++ Config.signature bs)] } }
    | none => s)

/-- SET_CERTIFICATE is not supported (R568). -/
def execSetCertificate (t : Transport) (s : State) : Answer := .next (if s.spdmOn t then (s.heard t).spdmError t 7 else s)

/-- GET_CERTIFICATE: a portion of slot 0's chain; slots 1 to 7 are empty (R568). -/
def execGetCertificate (t : Transport) (slot : BitVec 4) (off len : BitVec 16) (s : State) : Answer :=
  let part := (Config.certChain.drop off.toNat).take len.toNat
  let rest := Config.certChain.length - off.toNat - part.length
  .next (if !s.spdmOn t then s
    else if slot ≠ 0#4 then (s.heard t).spdmError t 1
    else (s.heard t).spdm t ([0x02, 0, 0] ++ toBytes 2 part.length ++ toBytes 2 rest ++ part))

end Sys2Proof.Machine
end

