-- ==== Sys2Proof/Machine/TestBlock.lean ====
section
/-! DEFINITION. Bring-up access to the stacks, boundary scan, and trace markers (R604 to R609). -/

namespace Sys2Proof.Machine

/-! ### The IEEE 1500 wrappers (R604, R605) -/

/-- LDG_BU1500_CMD without its flags. -/
def buFields (w : Nat) : Nat := w % 2 ^ 23

/-- A command's word: STACK, DIE, WIR, LEN, WRITE. -/
def buWord (stack die wir len : Nat) (write : Bool) : Nat := stack + die * 2 ^ 3 + wir * 2 ^ 8 + len % 64 * 2 ^ 16 + bitAt write 22

/-- Whether a GO is refused: without EN, or while a job is RUNNING or QUIESCED (R605). -/
def State.buRefused (s : State) : Bool := !s.lodge.testEn || decide (s.job.state = 2) || decide (s.job.state = 3)

/-- A GO: refused with ERR, or carried out; ERR tells of the last command (R604, R605). `data` is what DATA holds afterwards. -/
def State.buGo (s : State) (word : Nat) (dataIn : Reg64) (run : State → State × Reg64) : State :=
  let note (s : State) (err : Bool) (data : Reg64) : State :=
    { s with lodge := { s.lodge with buCmd := BitVec.ofNat 64 (buFields word + bitAt err 62), buData := data } }
  if s.buRefused then note s true dataIn
  else
    let r := run s
    (note r.1 false r.2).send (.wrapper r.2)

/-- SPARE_QUERY: spare rows left of four in the bank named, and the two spare column groups (R255, R604). -/
def execSpareQuery (stack : Fin 8) (die : BitVec 5) (arg : BitVec 64) (s : State) : Answer :=
  .next (s.buGo (buWord stack.val die.toNat 0xC0 63 false) arg fun s =>
    let bank := fld arg.toNat 0 6 * 32 + fld arg.toNat 6 5
    (s, BitVec.ofNat 64 (4 - mget 0 (s.stack stack.val).spareUsed bank + 2 * 2 ^ 3)))

/-- SOFT_REPAIR: a soft row repair with migration, recorded (R257, R258, R605); nothing is left to do in a bank without a spare row. -/
def execSoftRepair (stack : Fin 8) (die : BitVec 5) (arg : BitVec 64) (s : State) : Answer :=
  .next (s.buGo (buWord stack.val die.toNat 0xC1 63 true) arg fun s =>
    let n := stack.val
    let pc := fld arg.toNat 0 6
    let page := fld arg.toNat 11 14 * 32 + fld arg.toNat 6 5
    let bank := pc * 32 + fld arg.toNat 6 5
    let used := mget 0 (s.stack n).spareUsed bank
    if 4 ≤ used then (s, arg)
    else
      let s1 := s.migratePage n (pc * 524288 + page)
      let k := s1.stack n
      let s2 := s1.setStack n { k with spareUsed := mput 0 k.spareUsed bank (used + 1), repairSoft := satInc k.repairSoft }
      ({ s2 with lodge := { s2.lodge with nvRepairs := s2.lodge.nvRepairs ++ [(n * 2, pc * 524288 + page)] } }, arg))

/-- ODECC_READ: the on-die corrections since the last read, added to STK_ODECC_CNT (R235, R605). -/
def execOdeccRead (stack : Fin 8) (die : BitVec 5) (count : BitVec 32) (s : State) : Answer :=
  .next (s.buGo (buWord stack.val die.toNat 0xC2 31 false) s.lodge.buData fun s =>
    let k := s.stack stack.val
    (s.setStack stack.val { k with odecc := satAdd k.odecc count.toNat }, count.zeroExtend 64))

/-- Any other wrapper instruction: DATA is shifted in, or the captured bits are read into DATA (R604). -/
def execBu1500Shift (cmd : BitVec 64) (captured : BitVec 64) (s : State) : Answer :=
  let len := fld cmd.toNat 16 6 + 1
  .next (s.buGo cmd.toNat s.lodge.buData fun s =>
    (s, if cmd.getLsbD 22 then s.lodge.buData else BitVec.ofNat 64 (captured.toNat % 2 ^ len)))

/-! ### Boundary scan (R606) -/

/-- The IDCODE of the test access port. -/
def idcodeValue : BitVec 32 := 0x107969C7#32

/-- An instruction enters the instruction register. -/
def State.selectTap (s : State) (code : Byte) : State := { s with lodge := { s.lodge with tap := code } }

/-- Instructions 0x03 to 0x07: accepted while PHASE is RECOVERY or HOLD, else BYPASS with JTAGREF set. -/
def State.testInstruction (s : State) (code : Byte) : State :=
  if s.lodge.phase = 8 ∨ s.lodge.phase = 9 then { s with lodge := { s.lodge with tap := code, testInForce := true } }
  else { s with lodge := { s.lodge with tap := 0xFF, jtagRef := true } }

/-- IDCODE selects the identification register, which is shifted out. -/
def execIdcode (s : State) : Answer := .next ((s.selectTap 0x01).send (.tdo idcodeValue))

/-- SAMPLE/PRELOAD selects the boundary register without disturbing the pins. -/
def execSamplePreload (s : State) : Answer := .next (s.selectTap 0x02)

def execExtest (s : State) : Answer := .next (s.testInstruction 0x03)
def execExtestPulse (s : State) : Answer := .next (s.testInstruction 0x04)
def execExtestTrain (s : State) : Answer := .next (s.testInstruction 0x05)
def execClamp (s : State) : Answer := .next (s.testInstruction 0x06)
def execHighz (s : State) : Answer := .next (s.testInstruction 0x07)

/-- BYPASS, and every code that the table does not list. -/
def execBypass (code : Byte) (s : State) : Answer :=
  .next (if code = 0xFF#8 ∨ code = 0#8 ∨ 8 ≤ code.toNat then s.selectTap 0xFF else s)

/-- The port enters Test-Logic-Reset: a module reset with CAUSE 5 after a test instruction, else IDCODE is selected. -/
def execBscanExitReset (o : StartupObs) (s : State) : Answer :=
  .next (if s.lodge.testInForce then s.moduleReset 5 o else s.selectTap 0x01)

/-! ### Trace markers (R609) -/

/-- Whether a unit is awake: those of R32 that sleep, and every other one. -/
def State.unitAwake (s : State) (u : Nat) : Bool :=
  let i := u % 4096
  match u / 4096 with
  | 0 => decide ((s.unit u).logical < 96) && decide ((s.tile (s.unit u).logical).sleep = .awake)
  | 1 => decide ((s.engine (i / 64) (i % 64)).sleep = .awake)
  | 2 => decide ((s.region i).cpySleep = .awake)
  | 3 => decide ((s.region i).hdmaSleep = .awake)
  | _ => true

/-- The Lodge issues a marker, and every awake unit of an enabled class records its number and the time of issue. -/
def execTraceMarker (s : State) : Answer :=
  .next (if !s.lodge.traceCtl.getLsbD 9 then s
    else
      let data := s.lodge.markers.toNat + s.time.toNat % 2 ^ 32 * 2 ^ 32
      let s1 := { s with lodge := { s.lodge with markers := s.lodge.markers + 1 } }
      (allUnits.filter fun u => s1.unitAwake u).foldl (fun acc u => acc.trace u 1 data) s1)

end Sys2Proof.Machine
end

