-- ==== Sys2Proof/Machine/RegRead.lean ====
section
/-! DEFINITION. Reads of registers by a function through its windows and by a steward in register space (R6 to R10, R25, R35, R364 to R368,
R415 to R421, R464, R467, R468, R481, R487 to R491, R518 to R523, R552, R553, R572, R573, R592, R594, R604, R607). The table has no row for a
read: it comes as an operand of the row of register writes (log entry 64). -/

namespace Sys2Proof.Machine

/-! ### Registers of every function (R9, R10, R35, R364 to R367, R421, R487 to R491, R572, R573) -/

/-- LDG_ARCH_ID: generation 1, stepping B0, product 0x0796 (R9). -/
def archId : Nat := 1 + 0xB0 * 2 ^ 8 + 0x0796 * 2 ^ 16

/-- ACTIVE of interface 3: the lowest version in use on any ACTIVE link, 0 where no link is ACTIVE (R11, R429). -/
def State.linkVersion (s : State) : BitVec 8 :=
  ((List.range 24).filter fun n => decide ((s.link n).state = 5)).foldl
    (fun m n => if m = 0 ∨ (s.link n).ver < m then (s.link n).ver else m) 0

/-- LDG_IFVER_n of a function: SUPPORTED and ACTIVE (R10, R11, R334). -/
def State.ifVer (s : State) (fn n : Nat) : Nat :=
  let active : BitVec 8 := match n with
    | 0 => s.lodge.ifActive0
    | 1 => (s.fn fn).ifActive
    | 2 => s.lodge.ifActive2
    | 3 => s.linkVersion
    | _ => s.lodge.ifActive4
  supportedSet.toNat + active.toNat * 2 ^ 16

/-- LDG_BOOT_STAT (R572). -/
def Lodge.bootStat (l : Lodge) : Nat :=
  l.phase % 16 + bitAt l.slotFsl 4 + bitAt l.slotFw 5 + bitAt l.slotCfg 6 + bitAt l.fallback 7 + l.stacksOk.toNat * 2 ^ 8 +
    l.bootCause.toNat * 2 ^ 16 + l.readyMs.toNat * 2 ^ 32

/-- VERSION and SVN of a component's image in use (R561; the image that the module leaves the factory with is a free value, log entry 5). -/
def State.imageVersion (s : State) (comp slot : Nat) : Nat × Nat :=
  match s.fwImage comp slot with
  | some i => (i.version.toNat % 2 ^ 16, i.svn.toNat)
  | none => ((Config.factoryVersion comp).toNat, (Config.factorySvn comp).toNat)

/-- LDG_FW_VER (R573). -/
def State.fwVer (s : State) : Nat :=
  let fw := s.imageVersion 1 (if s.lodge.slotFw then 1 else 0)
  let fsl := s.imageVersion 2 (if s.lodge.slotFsl then 1 else 0)
  fw.1 + fw.2 * 2 ^ 16 + fsl.1 * 2 ^ 24 + fsl.2 * 2 ^ 40 + s.fuse 1 % 64 * 2 ^ 48 + s.fuse 2 % 64 * 2 ^ 56

/-- HST_LINK: while the link is up, what its training has agreed (R487). -/
def State.hostLink (s : State) : Nat := if s.lodge.phase = 7 then s.hstLink.toNat else 0

/-- SRV_FN_STAT: sequence entries, parked conversations and adapter slots of a function (R366). -/
def State.fnStat (s : State) (fn : Nat) : Nat :=
  let v := s.serving
  let held := (v.seqs.filter fun e => decide (e.2.req.fn = fn)).length
  let parked := (v.parked.filter fun p => decide (p.fn = fn)).length
  let slots := (v.slots.filter fun e => decide (e.2.tenant = fn) && decide (e.2.state ≠ 0)).length
  held + min 65535 parked * 2 ^ 16 + slots * 2 ^ 32

/-- HST_SAP_f (R488). -/
def Fn.sapWord (x : Fn) : Nat :=
  bitAt x.sapValid 0 + bitAt x.sapRonly 1 + x.sapLog2.toNat * 2 ^ 2 + x.sapBase.toNat * 2 ^ 8

/-- The word at an offset of window 0 that every function has. -/
def State.ownReg (s : State) (fn off : Nat) : Nat :=
  let x := s.fn fn
  match off with
  | 0x00 => archId
  | 0x10 => s.ifVer fn 0
  | 0x14 => s.ifVer fn 1
  | 0x18 => s.ifVer fn 2
  | 0x1C => s.ifVer fn 3
  | 0x20 => s.ifVer fn 4
  | 0x100 => s.time.toNat
  | 0x110 => s.lodge.bootStat
  | 0x118 => s.fwVer
  | 0x200 => x.rqBase.toNat
  | 0x208 => x.rqLog2n.toNat + bitAt x.rqEn 8 + x.rqHead.toNat * 2 ^ 16 + x.rqTail.toNat * 2 ^ 32
  | 0x210 => s.fnStat fn
  | 0x218 => x.rejRing.toNat + x.rejUnknown.toNat * 2 ^ 32
  | 0x230 => x.ifActive.toNat * 2 ^ 16
  | 0x300 => if fn = 0 then 0 else x.quotaA.toNat
  | 0x308 => if fn = 0 then 0 else x.quotaB.toNat
  | 0x810 => x.sapWord
  | 0x818 => x.ntfFirst + x.ntfCount * 2 ^ 16
  | 0x820 => x.errStat.toNat
  | 0x828 => x.errVec.toNat + x.errMask.toNat * 2 ^ 16
  | 0x830 => x.errLast.toNat
  | 0x838 => x.errCnt.toNat
  | _ =>
    if 0x2000 ≤ off ∧ off < 0x3000 then bitsOf 64 fun i => x.msixPend.contains ((off - 0x2000) / 8 * 64 + i) else 0

/-! ### Registers of the physical function (R25, R368, R415 to R421, R487, R488, R523, R552, R553, R592, R594, R604, R607) -/

/-- LDG_JOB_STAT (R417) and LDG_CKPT_STAT (R419). -/
def Job.stat (j : Job) : Nat :=
  j.state % 8 + bitAt j.susp 3 + j.cause.toNat * 2 ^ 4 + j.refuse.toNat * 2 ^ 8 + j.owner * 2 ^ 16 + j.jobNo.toNat * 2 ^ 32
def Job.ckptStat (j : Job) : Nat := j.ckTaken.toNat + j.ckResumed.toNat * 2 ^ 32 + bitAt j.ckHalf 48

/-- PWR_HOST_STAT (R552): the power of the last round in W. -/
def Power.hostStat (p : Power) : Nat :=
  p.powers.headD 0 / 1000 % 2 ^ 12 + bitAt p.capMiss 12 + p.clevel % 4 * 2 ^ 13 + bitAt p.flowLost 15 + p.sdCause.toNat * 2 ^ 16

/-- The word at an offset of the physical function's window 0. -/
def State.physReg (s : State) (off : Nat) : Nat :=
  let l := s.lodge
  let j := s.job
  match off with
  | 0x220 => s.serving.orgBase.toNat
  | 0x228 => s.serving.orgSize.toNat
  | 0x400 => j.imgAddr.toNat
  | 0x408 => j.jobVec.toNat * 2 ^ 10
  | 0x410 => j.stat
  | 0x418 => j.fault.toNat
  | 0x420 => j.switchCycles.toNat + j.switchKind.toNat * 2 ^ 48
  | 0x428 => j.ckptStat
  | 0x800 => s.hostLink
  | 0x300000 => l.liveOp.toNat + l.liveUnit.toNat * 2 ^ 16 + bitAt l.liveRun.isSome 63
  | 0x300008 => l.liveAddr.toNat
  | 0x300010 => l.liveResult.toNat + l.liveDone.toNat * 2 ^ 32
  | 0x300020 => l.hostevt.toNat + l.hostevtVec.toNat * 2 ^ 16
  | 0x300100 => s.power.cap.toNat + s.power.capWin.toNat * 2 ^ 16
  | 0x300108 => s.power.hostStat
  | 0x300110 => bitAt s.power.lnkSsc 0 + bitAt s.power.emcLock 63
  | 0x300118 => s.power.board.toNat
  | 0x300200 => bitAt l.testEn 0 + bitAt l.jtagRef 1 + bitAt l.testLock 63
  | 0x300220 => l.traceCtl.toNat
  | 0x300228 => l.traceBase.toNat
  | 0x300230 => l.traceW.toNat + l.traceLost.toNat * 2 ^ 32
  | 0x300240 => l.buCmd.toNat
  | 0x300248 => l.buData.toNat
  | _ =>
    if 0x10000 ≤ off ∧ off < 0x90000 then
      (if isUnit ((off - 0x10000) / 8) then (s.unit ((off - 0x10000) / 8)).word else 0)
    else if 0x100010 ≤ off ∧ off < 0x100000 + 16 * 4097 then
      (let x := s.fn ((off - 0x100000) / 16)
       if off % 16 = 0 then x.quotaA.toNat else x.quotaB.toNat)
    else if 0x200000 ≤ off ∧ off < 0x200000 + 8 * 4097 then (s.fn ((off - 0x200000) / 8)).sapWord
    else s.ownReg 0 off

/-! ### Windows 0 and 2 (R7, R466 to R469) -/

/-- The width of the register at an offset of a function's window 0; none where no register stands. -/
def window0Width (fn off : Nat) : Option Nat :=
  if off = 0 then some 4
  else if 0x10 ≤ off ∧ off < 0x24 ∧ off % 4 = 0 then some 4
  else if off = 0x40 then some 4
  else if [0x100, 0x110, 0x118, 0x200, 0x208, 0x210, 0x218, 0x220, 0x228, 0x230, 0x300, 0x308, 0x400, 0x408, 0x410, 0x418, 0x420, 0x428, 0x800,
      0x810, 0x818, 0x820, 0x828, 0x830, 0x838].contains off then some 8
  else if 0x2000 ≤ off ∧ off < 0x3000 ∧ off % 8 = 0 ∧ (off - 0x2000) / 8 < cdiv (vectorCount fn) 64 then some 8
  else if fn ≠ 0 then none
  else if 0x10000 ≤ off ∧ off < 0x90000 ∧ off % 8 = 0 then some 8
  else if 0x100010 ≤ off ∧ off < 0x100000 + 16 * 4097 ∧ off % 8 = 0 then some 8
  else if 0x200000 ≤ off ∧ off < 0x200000 + 8 * 4097 ∧ off % 8 = 0 then some 8
  else if [0x300000, 0x300008, 0x300010, 0x300020, 0x300100, 0x300108, 0x300110, 0x300118, 0x300200, 0x300220, 0x300228, 0x300230, 0x300240,
      0x300248].contains off then some 8
  else none

/-- A read of window 0: the word, or none where the access is an error (R7, R468). Registers of the physical function read as zero in a
virtual function. -/
def State.window0Read (s : State) (fn off width : Nat) : Option Nat :=
  if fn ≠ 0 ∧ 0x10000 ≤ off then some 0
  else if 0x4000 ≤ off ∧ off < 0xC000 then
    if (width = 4 ∨ width = 8) ∧ off % width = 0 ∧ (off - 0x4000) / 16 < vectorCount fn then
      some (fld (mget msixReset (s.fn fn).msixTable ((off - 0x4000) / 16)).toNat (8 * (off % 16)) (8 * width))
    else none
  else if 0xC000 ≤ off ∧ off < 0x10000 then
    let x := s.fn fn
    let n := mget NtfSlot.zero s.sem.ntf (x.ntfFirst + (off - 0xC000) / 16)
    if width = 8 ∧ off % 8 = 0 ∧ (off - 0xC000) / 16 < x.ntfCount then
      some (if off % 16 = 0 then ({ n with func := fn } : NtfSlot).wordA else n.b.toNat)
    else none
  else if window0Width fn off = some width then
    some (if fn = 0 then s.physReg off
      else if [0x220, 0x228, 0x400, 0x408, 0x410, 0x418, 0x420, 0x428, 0x800].contains off then 0 else s.ownReg fn off)
  else none

/-- A register access error of the host (R7, R468). -/
def State.hostRegError (s : State) (fn off : Nat) : State := s.hostError fn 0 0 (detailAddr off) false

/-- A function reads its window 0 or 2: the word, or zero with a register access error; a doorbell cannot be read (R468, R469). -/
def State.hostReadReg (s : State) (fn : Nat) (bells : Bool) (off width : Nat) : State :=
  let answer (t : State) (v : Nat) : State := t.send (.regData (.hostRead fn bells) off (BitVec.ofNat 64 v))
  match (if bells then none else s.window0Read fn off width) with
  | some v => answer s v
  | none => answer (s.hostRegError fn off) 0

/-! ### Register space read by a steward (R518 to R522) -/

/-- A word of the LDG_ block whose read has no effect. -/
def State.lodgeReg (s : State) (off : Nat) : Option Nat :=
  let l := s.lodge
  if off % 8 ≠ 0 then none
  else if off < 0x4000 then some (s.intSrc (off / 8)).word
  else if 0x4100 ≤ off ∧ off < 0x4180 ∧ off % 0x20 = 0x10 then some (s.prioWord ((off - 0x4100) / 0x20))
  else if 0x4100 ≤ off ∧ off < 0x4180 ∧ off % 0x20 = 0x8 then some 0
  else if 0x5000 ≤ off ∧ off < 0x5020 then
    let w := s.steward ((off - 0x5000) / 8)
    some (w.hb.toNat + w.lastTime.toNat * 2 ^ 32)
  else match off with
    | 0x4000 => some 0
    | 0x4008 => some (bitAt l.rr 0)
    | 0x4208 => some (l.evq.length + l.evLost.toNat * 2 ^ 32)
    | 0x5020 => some l.stwEn.toNat
    | 0x5028 => some (l.claimVictim.toNat + l.claimant.toNat * 4)
    | 0x5030 => some l.duty.toNat
    | _ => none

/-- A steward reads a register. A read of its own LDG_INT_CLAIM_k claims and a read of LDG_EVQ pops (R520, R521); another access that names no
register, or breaks R7, reads zero and is recorded against no function. -/
def State.stewardReadReg (s : State) (k : Fin 4) (off width : Nat) : Answer :=
  if off = 0x80004100 + 0x20 * k.val ∧ width = 8 then execIntClaim k s
  else if off = 0x80004200 ∧ width = 8 then execEvqPop k s
  else
    let word : Option RegWord :=
      if 0x80000000 ≤ off ∧ off < 0x80010000 then (s.lodgeReg (off - 0x80000000)).map fun w => (8, w) else s.devReg off
    let v := match word with
      | some r => if r.1 = width ∧ off % width = 0 then r.2 else 0
      | none => 0
    .next (s.send (.regData (.stewardRead k) off (BitVec.ofNat 64 v)))

end Sys2Proof.Machine
end

