-- ==== Sys2Proof/Machine/RegWrite.lean ====
section
/-! DEFINITION. Writes to registers that have no command of their own (R6 to R10, R25, R468, R518 to R523 and the register tables of every
block): by a function through its windows, by a steward or the physical function in register space. -/

namespace Sys2Proof.Machine

/-! ### Access codes (R8) -/

/-- The bits `lo` to `lo + w - 1` of a word from another one; the rest stays. -/
def putBits {n : Nat} (old new : BitVec n) (lo w : Nat) : BitVec n :=
  let m := BitVec.ofNat n ((2 ^ w - 1) * 2 ^ lo)
  (old &&& ~~~ m) ||| (new &&& m)

/-- What a command's answer leaves; a command that stops leaves the state as it was. -/
def after (s : State) : Answer → State
  | .next t => t
  | _ => s

/-! ### Window 0 of a function (R466 to R468) -/

/-- HST_ERR_STAT bits are cleared by ones (R490). -/
def State.writeErrStat (s : State) (fn : Nat) (v : Reg64) : State :=
  let x := s.fn fn
  s.setFn fn { x with errStat := x.errStat &&& ~~~ (v.truncate 6) }

/-- A register that every function has (R364 to R368, R490). -/
def State.writeOwn (s : State) (fn off : Nat) (v : Reg64) : State :=
  let x := s.fn fn
  match off with
  | 0x200 => s.setFn fn { x with rqBase := maskWord v (2 ^ 64 - 64) }
  | 0x208 => after s (execRingEnable fn v s)
  | 0x230 => after s (execReqIfneg fn (v.truncate 16) s)
  | 0x820 => s.writeErrStat fn v
  | 0x828 => s.setFn fn { x with errVec := v.truncate 11, errMask := (v >>> 16).truncate 6 }
  | _ => s

/-- LDG_JOB_CTL: END, ABORT, RELEASE and JOBVEC; GO starts the image that its own command carries (R416). -/
def State.writeJobCtl (s : State) (v : Reg64) : State :=
  let s1 : State := { s with job := { s.job with jobVec := (v >>> 10).truncate 11 } }
  let s2 := if v.getLsbD 1 then after s1 (execJobEnd s1) else s1
  let s3 := if v.getLsbD 2 then after s2 (execJobAbort s2) else s2
  if v.getLsbD 3 then after s3 (execJobRelease s3) else s3

/-- LDG_LIVE_CMD: OP and UNIT while no command runs; GO with OP RETIRE starts it here, the commands with a payload have their own rows; a GO
while another command is in progress is not accepted (R512, R523). -/
def State.writeLiveCmd (s : State) (v : Reg64) : State :=
  let go := v.getLsbD 63
  if s.lodge.liveRun.isSome then (if go then { s with lodge := { s.lodge with liveResult := 1 } } else s)
  else
    let s1 : State := { s with lodge := { s.lodge with liveOp := v.truncate 4, liveUnit := (v >>> 16).truncate 16 } }
    if go && decide (v.truncate 4 = 4#4) then after s1 (execLiveRetire .host ((v >>> 16).truncate 16) s1) else s1

/-- A register of the physical function's window 0 (R25, R368, R415 to R421, R488, R523, R552, R553, R594, R604, R607). -/
def State.writePhysical (s : State) (off : Nat) (v : Reg64) : State :=
  let l := s.lodge
  match off with
  | 0x40 => after s (execIfnegWrite (v.truncate 3) ((v >>> 16).truncate 16) s)
  | 0x220 => if s.servingRuns then s else { s with serving := { s.serving with orgBase := maskWord v (2 ^ 64 - 4096) } }
  | 0x228 => if s.servingRuns then s else { s with serving := { s.serving with orgSize := maskWord v (2 ^ 64 - 4096) } }
  | 0x400 => if s.job.state = 1 then s else { s with job := { s.job with imgAddr := maskWord v (2 ^ 64 - 64) } }
  | 0x408 => s.writeJobCtl v
  | 0x300000 => s.writeLiveCmd v
  | 0x300008 => { s with lodge := { l with liveAddr := v } }
  | 0x300020 => { s with lodge := { l with hostevt := l.hostevt &&& ~~~ (v.truncate 6), hostevtVec := (v >>> 16).truncate 11 } }
  | 0x300100 => { s with power := { s.power with cap := v.truncate 12, capWin := (v >>> 16).truncate 10 } }
  | 0x300110 =>
    let p := s.power
    { s with power := { p with lnkSsc := if p.emcLock then p.lnkSsc else v.getLsbD 0, emcLock := p.emcLock || v.getLsbD 63 } }
  | 0x300200 =>
    let en := if l.testLock then l.testEn else v.getLsbD 0
    let s1 : State := { s with lodge := { l with testEn := en, jtagRef := l.jtagRef && !v.getLsbD 1, testLock := l.testLock || v.getLsbD 63 } }
    if en then s1 else s1.clearPert
  | 0x300220 => { s with lodge := { l with traceCtl := maskWord v (2 ^ 26 - 1) } }
  | 0x300228 => { s with lodge := { l with traceBase := maskWord v (2 ^ 64 - 4096) } }
  | 0x300240 => { s with lodge := { l with buCmd := putBits l.buCmd v 0 23 } }
  | 0x300248 => { s with lodge := { l with buData := v } }
  | _ =>
    if 0x10000 ≤ off ∧ off < 0x90000 then
      let u := (off - 0x10000) / 8
      if isUnit u then s.setUnit u { s.unit u with mismatch := (s.unit u).mismatch && !v.getLsbD 7 } else s
    else if 0x100000 ≤ off ∧ off < 0x100000 + 16 * 4097 then
      let f := (off - 0x100000) / 16
      let q := s.quotaWords f
      if off % 16 = 0 then after s (execQuotaWrite f v q.2 s) else after s (execQuotaWrite f q.1 v s)
    else if 0x200000 ≤ off ∧ off < 0x200000 + 8 * 4097 then
      let f := (off - 0x200000) / 8
      s.setFn f { s.fn f with sapValid := v.getLsbD 0, sapRonly := v.getLsbD 1, sapLog2 := (v >>> 2).truncate 6, sapBase := (v >>> 8).truncate 32 }
    else s

/-- A write to a function's MSI-X table, of 4 or 8 bytes: the entry, its mask bit, and a pending message that an unmasking frees
(R464, R467; the layout of an entry is PCIe's, log entry 57). -/
def State.writeMsix (s : State) (fn off width : Nat) (v : Reg64) : State :=
  let x := s.fn fn
  let n := (off - 0x4000) / 16
  let e := putBits (mget msixReset x.msixTable n) (v.zeroExtend 128 <<< (8 * (off % 16))) (8 * (off % 16)) (8 * width)
  let y : Fn := { x with msixTable := mput msixReset x.msixTable n e }
  if e.getLsbD 96 then s.setFn fn y
  else
    let s1 := s.setFn fn { y with msixPend := setDel n y.msixPend }
    if x.msixPend.contains n then s1.msix fn n else s1

/-- A write to window 0 (R7, R8, R466 to R468, R481): misaligned, narrower than the register, or of no register, it is dropped and recorded; registers of
the physical function ignore a virtual function's write. An access wider than its register is taken the same way, which is the model's choice
(log entry 88). -/
def State.writeWindow0 (s : State) (fn off width : Nat) (v : Reg64) : State :=
  if fn ≠ 0 ∧ 0x10000 ≤ off then s
  else if 0x4000 ≤ off ∧ off < 0xC000 then
    if (width = 4 ∨ width = 8) ∧ off % width = 0 ∧ (off - 0x4000) / 16 < vectorCount fn then s.writeMsix fn off width v else s.hostRegError fn off
  else if 0xC000 ≤ off ∧ off < 0x10000 then
    if width = 8 ∧ off % 8 = 0 then
      (if off % 16 = 0 then s.writeNtfA fn ((off - 0xC000) / 16) v else s.writeNtfB fn ((off - 0xC000) / 16) v)
    else s.hostRegError fn off
  else match window0Width fn off with
    | none => s.hostRegError fn off
    | some w =>
      if w ≠ width then s.hostRegError fn off
      else if fn = 0 then
        (if [0x200, 0x208, 0x230, 0x820, 0x828].contains off then s.writeOwn fn off v else s.writePhysical off v)
      else s.writeOwn fn off v

/-- A write to window 2: the doorbells, or an access error (R468, R469). -/
def State.writeDoorbell (s : State) (fn off width : Nat) (v : Reg64) : State :=
  if width ≠ 8 then s.hostRegError fn off
  else match off with
    | 0x0 => after s (execHstDbRing fn (v.truncate 16) s)
    | 0x8 => after s (execHstDbSem fn (v.truncate 16) ((v >>> 32).truncate 32) s)
    | 0x10 => after s (execHstDbInt fn (v.truncate 11) s)
    | _ => s.hostRegError fn off

/-! ### Register space -/

/-- LDG_INT_SRC_s: PRIO, TARGET, EN, TILEOK, HOSTOK; a one clears SAT (R518). -/
def IntSrc.write (x : IntSrc) (v : Reg64) : IntSrc :=
  { x with prio := v.truncate 4, target := (v >>> 4).truncate 2, en := v.getLsbD 6, tileOk := v.getLsbD 7, hostOk := v.getLsbD 8
           sat := x.sat && !v.getLsbD 14 }

/-- A steward's write to the LDG_ block (R518 to R522): another steward's CLAIM, EOI and heartbeat are not written. -/
def State.writeLodge (s : State) (k off : Nat) (v : Reg64) : State :=
  let me : Fin 4 := ⟨k % 4, Nat.mod_lt _ (by decide)⟩
  if off % 8 ≠ 0 then s
  else if off < 0x4000 then s.setIntSrc (off / 8) ((s.intSrc (off / 8)).write v)
  else if off = 0x4000 then s.fireFrom (v.truncate 11).toNat (.steward me)
  else if off = 0x4008 then { s with lodge := { s.lodge with rr := v.getLsbD 0 } }
  else if off = 0x4108 + 0x20 * k then after s (execIntEoi me (v.truncate 11) s)
  else if off = 0x5000 + 8 * k then after s (execHeartbeat me { count := v.truncate 32, lost := 0 } s)
  else if off = 0x5028 then s.grantClaim k (v.toNat % 4)
  else if off = 0x5030 then { s with lodge := { s.lodge with duty := v.truncate 16 } }
  else s

/-- The Lodge's write to a stack controller's register (R215, R233, R234, R250, R254, R287 to R289, R601). -/
def State.writeStk (s : State) (n off : Nat) (v : Reg64) : State :=
  let k := s.stack n
  match off with
  | 0x120 => s.setStack n { k with holdMax := if k.holdLock then k.holdMax else v.truncate 12, holdLock := k.holdLock || v.getLsbD 63 }
  | 0x200 => s.setStack n { k with swap := k.swap ||| (v >>> 8).truncate 4 }
  | 0x230 => s.setStack n { k with scrubInt := v.truncate 24 }
  | 0x240 =>
    if k.clrGo then s
    else if v.getLsbD 63 then s.setStack n (k.startClear (v.truncate 19) ((v >>> 20).truncate 20) k.clrMask)
    else s.setStack n { k with clrPage := v.truncate 19, clrNpage := (v >>> 20).truncate 20 }
  | 0x248 => if k.clrGo then s else s.setStack n { k with clrMask := v }
  | 0x300 => s.setStack n { k with attCfg := maskWord v attCfgBits }
  | 0x308 => s.setStack n { k with attTbase := maskWord v attTbaseBits }
  | 0x310 => s.setStack n { k with attSnap := maskWord v 0xFFFFFFFF00000001 }
  | 0x318 =>
    if v.getLsbD 63 then s.startKvCopy n (v.truncate 25) ((v >>> 32).truncate 25)
    else if k.kvGo then s
    else s.setStack n { k with kvSrc := v.truncate 25, kvDst := (v >>> 32).truncate 25 }
  | _ =>
    if 0xC0400 ≤ off ∧ off < 0xC0800 ∧ off % 4 = 0 then
      let b := (off - 0xC0400) / 0x100
      let e := (off - 0xC0400) % 0x100 / 4
      if tableReserved e then s else s.setStack n { k with shadows := mput (tableReset b e) k.shadows (b * 64 + e) (v.toNat % 2 ^ 16) }
    else s

/-- The Lodge's write to the SEM_ block (R329, R330): a quota range, or a notification slot. -/
def State.writeSem (s : State) (off : Nat) (v : Reg64) : State :=
  if off % 8 ≠ 0 then s
  else if 0x80000 ≤ off ∧ off < 0x80000 + 8 * 4097 then
    { s with sem := { s.sem with quota := mput (0, 0) s.sem.quota ((off - 0x80000) / 8) (rangeOf v) } }
  else if 0x100000 ≤ off ∧ off < 0x110000 then
    let m := (off - 0x100000) / 16
    let x := mget NtfSlot.zero s.sem.ntf m
    let put (s : State) (y : NtfSlot) : State := { s with sem := { s.sem with ntf := mput NtfSlot.zero s.sem.ntf m y.fields } }
    if x.armed then s
    else if off % 16 = 8 then put s { x with b := v, fired := 0 }
    else
      let y : NtfSlot := { x with sem := fld v.toNat 0 16, kind := v.getLsbD 16, func := fld v.toNat 18 13, armed := v.getLsbD 17 && s.inQuota (fld v.toNat 18 13) (fld v.toNat 0 16)
                                  thresh := fld v.toNat 32 24, fired := 0 }
      let s1 := put s y
      if y.armed && decide (y.thresh ≤ (s1.sema y.sem).value) then s1.fireNtf m else s1
  else s

/-- The depth of a template node, from the parents (R376, R390). -/
def treeDepthOf (tree : SMap (BitVec 13)) : Nat → Nat → Nat
  | 0, _ => 0
  | fuel + 1, n => if n = 0 then 0 else treeDepthOf tree fuel (fld (mget 0 tree n).toNat 0 5) + 1

/-- TMB_TREE words with DEPTH derived from PARENT (R390). -/
def deriveDepths (tree : SMap (BitVec 13)) : SMap (BitVec 13) :=
  (List.range 32).foldl (fun m n =>
    let w := mget 0 tree n
    mput 0 m n (if w = 0 then 0 else putBits w (BitVec.ofNat 13 (treeDepthOf tree 32 n % 8 * 2 ^ 5)) 5 3)) []

/-- The Lodge's write to a tombola's register (R389, R390). -/
def State.writeTmb (s : State) (d off : Nat) (v : Reg64) : State :=
  let t := s.tombola d
  match off with
  | 0x100 => s.setTombola d { t with vocab := fld v.toNat 0 21, ntree := fld v.toNat 24 5 }
  | 0x108 => s.setTombola d { t with parBase := maskWord v (2 ^ 52 - 256) }
  | 0x110 => s.setTombola d { t with penBase := maskWord v (2 ^ 52 - 64) }
  | _ =>
    if 0x200 ≤ off ∧ off < 0x300 ∧ off % 8 = 0 then
      let n := (off - 0x200) / 8
      let w := putBits (putBits (mget 0 t.tree n) (v.truncate 13) 0 5) (v.truncate 13) 8 5
      s.setTombola d { t with tree := deriveDepths (mput 0 t.tree n w) }
    else s

/-- LNK_CTL_n: EN, RETRAIN, SPARE_NOW, LANE and SERTHR (R462). -/
def State.writeLnkCtl (s : State) (n : Fin 24) (v : Reg64) : State :=
  let s0 := s.setLink n.val { s.link n.val with lane := (v >>> 4).truncate 3, serthr := (v >>> 8).truncate 5 }
  let s1 := if v.getLsbD 0 && !(s0.link n.val).en then s0.enableLink n.val
    else if !v.getLsbD 0 && (s0.link n.val).en then s0.disableLink n.val else s0
  let s2 := if v.getLsbD 1 then after s1 (execLinkRetrain n s1) else s1
  if v.getLsbD 2 then after s2 (execSpareNow n ((v >>> 4).truncate 3) s2) else s2

/-- A write of the Lodge or the physical function to the LNK_ block (R459 to R462); routes and apertures that packets wait for go on. -/
def State.writeLnk (s : State) (off : Nat) (v : Reg64) : State :=
  let l := s.lnk
  let idle := s.job.state ≠ 2 ∧ s.job.state ≠ 3
  if off % 8 ≠ 0 then s
  else if off = 0 then { s with lnk := { l with node := if l.lock then l.node else v.truncate 12, lock := l.lock || v.getLsbD 63 } }
  else if 0x8000 ≤ off ∧ off < 0x10000 then
    ({ s with lnk := { l with route := mput 0 l.route ((off - 0x8000) / 8) (BitVec.ofNat 33 (v.toNat % 2 ^ 24 + bitAt (v.getLsbD 32) 32)) } }).drainWait
  else if 0x10000 ≤ off ∧ off < 0x10200 then { s with lnk := { l with allow := mput 0 l.allow ((off - 0x10000) / 8) v } }
  else if 0x30000 ≤ off ∧ off < 0x30400 then
    if ¬ idle then s
    else
      let n := (off - 0x30000) / 16
      if off % 16 = 0 then { s with lnk := { l with rwinA := mput 0 l.rwinA n (maskWord v (2 ^ 57 - 4096)) } }
      else { s with lnk := { l with rwinB := mput 0 l.rwinB n (maskWord v 0xFFFFF0FFF) } }
  else if h : 0x20000 ≤ off ∧ off < 0x20000 + 24 * 0x100 ∧ off % 0x100 = 0 then
    s.writeLnkCtl ⟨(off - 0x20000) / 0x100, by omega⟩ v
  else s

/-- A write of the Lodge or the physical function to a bandstand's groups (R463). -/
def State.writeBnd (s : State) (d off : Nat) (v : Reg64) : State :=
  let b := s.band d
  if off % 8 ≠ 0 then s
  else if 0x100 ≤ off ∧ off < 0x180 then
    s.setBand d { b with grp := mput 0 b.grp ((off - 0x100) / 8) (BitVec.ofNat 17 (v.toNat % 2 ^ 17 &&& 0x13F3F)) }
  else if 0x1000 ≤ off ∧ off < 0x1000 + 512 * 16 then s.setBand d { b with gmem := mput 0 b.gmem ((off - 0x1000) / 8) (v.truncate 12) }
  else s

/-- Whether a register stands at an offset of the LNK_ or BND_ block. -/
def State.linkBlockHas (s : State) (off : Nat) : Bool :=
  decide (0x70000000 ≤ off) && decide (off < 0x80000000) && (s.devReg off).isSome

/-- A write of the Lodge in register space, by its block: a register's full width, naturally aligned (R7). -/
def State.writeSpace (s : State) (k off width : Nat) (v : Reg64) : State :=
  let narrow := decide (0x30000000 ≤ off) && decide (off < 0x38000000) && decide (0xC0000 ≤ (off - 0x30000000) % 0x100000)
  if width ≠ (if narrow then 4 else 8) ∨ off % width ≠ 0 then s
  else if 0x30000000 ≤ off ∧ off < 0x30000000 + 8 * 0x100000 then s.writeStk ((off - 0x30000000) / 0x100000) ((off - 0x30000000) % 0x100000) v
  else if 0x40000000 ≤ off ∧ off < 0x41000000 then s.writeSem (off - 0x40000000) v
  else if 0x60000000 ≤ off ∧ off < 0x60000000 + 2 * 0x100000 then s.writeTmb ((off - 0x60000000) / 0x100000) ((off - 0x60000000) % 0x100000) v
  else if 0x70000000 ≤ off ∧ off < 0x70100000 then s.writeLnk (off - 0x70000000) v
  else if 0x78000000 ≤ off ∧ off < 0x78000000 + 2 * 0x100000 then s.writeBnd ((off - 0x78000000) / 0x100000) ((off - 0x78000000) % 0x100000) v
  else if 0x80000000 ≤ off ∧ off < 0x80010000 then s.writeLodge k (off - 0x80000000) v
  else s

/-- Where a stack address falls in the page tables: the stack whose copy it is, and the byte offset in the table area (R264). -/
def State.tableAt (s : State) (a : Nat) : Option (Nat × Nat) :=
  ((List.range 8).map fun n => (n, fld (s.stack n).attTbase.toNat 0 52)).findSome? fun x =>
    if decide (spaceOf a = 0) && decide (x.2 ≤ a) && decide (a < x.2 + 2 ^ 40) then some (x.1, a - x.2) else none

/-- The leaf entry at an offset of the table area: sequence, layer and logical page. -/
def State.leafAt (s : State) (off : Nat) : Option (Nat × Nat × Nat) :=
  if off < 2 ^ 30 then none
  else (oget s.serving.leafs ((off - 2 ^ 30) / 4096)).map fun key => (key / 8192, key / 32 % 256, key % 32 * 512 + off % 4096 / 8)

/-- A write over the management path changes a table entry whole, in the copy that the address names. An entry that names a page neither
allocated to the sequence nor in quarantine is refused (R281); other addresses take no such write (log entry 83). -/
def State.writeTable (s : State) (a width : Nat) (value : BitVec 64) : State :=
  match s.tableAt a with
  | none => s
  | some t =>
    if width ≠ 8 ∨ a % 8 ≠ 0 ∨ !s.servingRuns then s
    else match s.leafAt t.2 with
      | none => s.lodgeWrite a (toBytes 8 value.toNat)
      | some l =>
        let id := fld value.toNat 0 25
        let mine := match s.seq l.1 with | some e => e.pages.any fun p => decide (p.2.2 = id) | none => false
        if value.getLsbD 32 && !mine && !s.serving.quarantine.contains id then s else s.lodgeWrite a (toBytes 8 value.toNat)

/-- A write to a register without its own row: its fields take the value as their access codes give (R8), or the access is an error (R7, R468).
A fenced steward's write is dropped (R498); window 4 is the stack aperture (R471). A read comes as a command of this row too (log entry 64). -/
def execRegisterWrite (who : RegWriter) (off width : Nat) (value : BitVec 64) (s : State) : Answer :=
  .next (match who with
    | .host fn w =>
      if !(s.fn fn).enabled then s
      else if w = 0 then s.writeWindow0 fn off width value
      else if w = 1 then s.writeDoorbell fn off width value
      else after s (execApertureWrite fn off (toBytes width value.toNat) false s)
    | .steward k => if s.stwOn k.val then s.writeSpace k.val off width value else s
    | .management => s.writeTable off width value
    | .hostRead fn bells => if (s.fn fn).enabled then s.hostReadReg fn bells off width else s
    | .stewardRead k => if s.stwOn k.val then after s (s.stewardReadReg k off width) else s
    | .physical =>
      if width = 8 ∧ s.linkBlockHas off then
        (if off < 0x78000000 then s.writeLnk (off - 0x70000000) value
         else s.writeBnd ((off - 0x78000000) / 0x100000) ((off - 0x78000000) % 0x100000) value)
      else s.hostRegError 0 off)

end Sys2Proof.Machine
end

