-- ==== Sys2Proof/Machine/Release.lean ====
section
/-! DEFINITION. The release of held effects (R94, R169, R190, R298 to R300, R321, R382, R445 to R447, R452, R477): where each effect goes when it
leaves the tile. -/

namespace Sys2Proof.Machine

/-! ### Effects under way -/

/-- The arrival counter that a remote write names, for R300: the tile, on this module or on the node `node - 1`. -/
def counterPlace (node tile : Nat) : Nat := node * 128 + tile

/-- An effect of tile `n` leaves it (R298): its class is 1 where its point of coherence lies on this module, else 2; `figure` is the time until
the acknowledgement returns. -/
def State.launch (s : State) (n : Nat) (o : Origin) (cls place ac figure : Nat) : Nat × State :=
  let t := s.tile n
  let e : Flying := { id := t.nextEff, cls := cls, tile := place, ac := ac, ack := t.cycle + figure, performed := false
                      origin := o }
  (t.nextEff, s.setTile n { t with nextEff := t.nextEff + 1, flying := t.flying ++ [e] })

/-- An effect that is performed as it leaves. -/
def State.launchDone (s : State) (n : Nat) (o : Origin) (figure : Nat) : State :=
  let l := s.launch n o 1 0 64 figure
  l.2.landed n l.1

/-! ### Memory -/

/-- Bytes of which only some bits are written, for a place whose other bits the module does not read: those are free (log entry 58). -/
def State.openBits (s : State) (bs : List Byte) (mask : Byte) : List Byte × State :=
  if mask = 0xFF#8 then (bs, s)
  else
    let f := s.fresh
    (bs.map fun b => maskByte (Config.freeByte f.1) b mask, f.2)

/-- One granule of a store leaves toward the memory of this module or of the host. -/
def State.releaseGranule (s : State) (n : Nat) (o : Origin) (a : Nat) (bs : List Byte) (mask : Byte) (poison : Bool) (acid : Nat) : State :=
  let fig := s.loadFigure n a
  match decodeAddr a with
  | some (.spad t x) =>
    let l := s.launch n o 1 (counterPlace 0 t) acid fig
    let m : InMsg := { addr := x, bs := bs, mask := mask, poison := poison, acid := some acid, tile := n, effId := l.1 }
    l.2.setTile t { l.2.tile t with inbox := (l.2.tile t).inbox ++ [m] }
  | some (.region _ _) => (s.launchDone n o fig).performPiece a bs mask poison
  | some (.stack x) =>
    let l := s.launch n o 1 0 64 fig
    match l.2.resolve x with
    | some p => l.2.sendAccess p (.write bs mask poison) (.effect n l.1)
    | none => l.2.landed n l.1
  | some (.host h) =>
    let b := s.openBits bs mask
    let l := b.2.launch n o 2 0 64 fig
    l.2.hostWrite l.2.job.owner h b.1 poison (some (n, l.1))
  | _ => s

/-! ### Register space -/

/-- A byte run cut at the 256-byte boundaries of its destination, which begins at `d` (R446). -/
def cut256 (d : Nat) (bs : List Byte) : List (Nat × List Byte) :=
  (List.range (if bs.isEmpty then 0 else (d + bs.length - 1) / 256 - d / 256 + 1)).map fun i =>
    let lo := max d ((d / 256 + i) * 256)
    (lo, (bs.drop (lo - d)).take ((d / 256 + i) * 256 + 256 - lo))

/-- A store to a remote aperture goes out as WRITE packets (R445, R446). -/
def State.releaseRemote (s : State) (n : Nat) (o : Origin) (off : Nat) (bs : List Byte) (acid : Nat) : State :=
  let w := (off - 0x1000000000) / 0x100000000
  let node := fld (mget 0 s.lnk.rwinB w).toNat 0 12
  let dst := fld (mget 0 s.lnk.rwinA w).toNat 12 44 * 4096 + (off - 0x1000000000) % 0x100000000
  (cut256 dst bs).foldl (fun acc p =>
    let counted := decide (spaceOf p.1 = 2)
    let l := acc.launch n o 2 (counterPlace (node + 1) (fld p.1 23 10)) (if counted then acid else 64) 0
    let pk : Packet := { type := 1, resent := false, hops := 0, dst := BitVec.ofNat 12 node, src := 0, bytes := BitVec.ofNat 8 (p.2.length - 1)
                         acid := BitVec.ofNat 6 (if counted then acid else 0), ac := counted, tag := 0, addr := BitVec.ofNat 56 p.1, code := 0
                         origLink := 0, origSeq := 0, data := p.2 }
    l.2.sendRemote pk n l.1 0) s

/-- A 256-byte item of a store. -/
def itemOf (bs : List Byte) : BitVec 2048 := BitVec.ofNat 2048 (ofBytes bs)

/-- A command to a port of the tile's own region (R169, R321, R477): copy engine, atomics, host-DMA engine. A batch of atomics has eight effects,
one for each record. -/
def State.regionPort (s : State) (n : Nat) (o : Origin) (r port fig : Nat) (bs : List Byte) : State :=
  let l := s.launch n o 1 0 64 fig
  let c : RegCmd := { tile := n, handle := 0, item := itemOf bs, staged := false, effId := l.1, origin := o }
  let x := l.2.region r
  match port with
  | 0 => l.2.setRegion r { x with cpyPort := x.cpyPort ++ [c] }
  | 0x200 =>
    let more := (List.range 7).foldl (fun acc _ => (acc.launch n o 1 0 64 fig).2) l.2
    more.setRegion r { x with atomPort := x.atomPort ++ [c] }
  | _ => l.2.setRegion r { x with hdmaPort := x.hdmaPort ++ [c] }

/-- A store to the start-command port or an aperture of a stack controller (R190, R211). -/
def State.stackPort (s : State) (n : Nat) (o : Origin) (k at_ fig : Nat) (bs : List Byte) : State :=
  if at_ < 0x40000 then
    let l := s.launch n o 1 0 64 fig
    let x := l.2.stack k
    l.2.setStack k { x with startPort := x.startPort ++ [startOf n l.1 bs] }
  else
    let prg := decide (at_ < 0x80000)
    (chunks 256 (bs.length / 256) bs).zipIdx.foldl (fun acc p =>
      let l := acc.launch n o 1 0 64 fig
      let x := l.2.stack k
      l.2.setStack k { x with aperPort := x.aperPort ++ [(n, prg, (at_ - (if prg then 0x40000 else 0x80000)) + 256 * p.2, itemOf p.1, l.1)] }) s

/-- Whether a tile's store of a register's full width in a block leaves it unchanged without an error: the registers that only the Lodge writes,
outside the blocks whose rules record such a store (R7, R8; log entry 59). -/
def State.storeIgnored (s : State) (off len : Nat) : Bool :=
  (decide (0x10000000 ≤ off) && decide (off < 0x40000000)) && (match s.devReg off with
    | some (w, _) => decide (w = len) && decide (off % w = 0)
    | none => false)

/-- A store to register space: a command port, an aperture, a remote aperture, or an access that is dropped and recorded (R7). None says that the
unit's queue is full and the store waits. -/
def State.releaseRegister (s : State) (n : Nat) (o : Origin) (a : Nat) (bs : List Byte) (mask : Byte) (acid : Nat) : Option State :=
  let off := a % 2 ^ 52
  let fig := regFigure n off
  let die := regionDie (tileRegion n)
  let item := decide (bs.length = 256) && decide (mask = 0xFF#8)
  let own := 0x20000000 + tileRegion n * 0x10000
  let ko := (off - 0x30000000) % 0x100000
  let inStack := decide (0x30000000 ≤ off) && decide (off < 0x30000000 + 8 * 0x100000)
  let k := (off - 0x30000000) / 0x100000
  if 0x1000000000 ≤ off then
    let b := s.openBits bs mask
    some (b.2.releaseRemote n o off b.1 acid)
  else if item && (decide (off = own) || decide (off = own + 0x200) || decide (off = own + 0x400)) then
    some (s.regionPort n o (tileRegion n) (off - own) fig bs)
  else if inStack && item && decide (ko = 0) then some (s.stackPort n o k 0 fig bs)
  else if inStack && decide (0x40000 ≤ ko) && decide (ko + bs.length ≤ 0xC0000) && decide (ko / 0x40000 = (ko + bs.length - 1) / 0x40000) &&
      decide (ko % 256 = 0) && decide (bs.length % 256 = 0) && decide (bs ≠ []) && decide (mask = 0xFF#8) then some (s.stackPort n o k ko fig bs)
  else if item && decide (off = 0x60000000 + die * 0x100000) then
    let x := s.tombola die
    if 32 ≤ x.q.length then none else some ((s.launchDone n o fig).setTombola die { x with q := x.q ++ [(n, itemOf bs)] })
  else if item && decide (off = 0x78000000 + die * 0x100000) then
    let x := s.band die
    if 16 ≤ x.q.length then none else some ((s.launchDone n o fig).setBand die { x with q := x.q ++ [(n, itemOf bs)] })
  else if s.storeIgnored off bs.length then some (s.launchDone n o fig)
  else some ((s.launchDone n o fig).jobRegError a)

/-! ### Signals -/

/-- The scope of a semaphore operand: 3 is taken as SYSTEM (R311). -/
def operandScope (ra : Reg64) : Nat := min (fld ra.toNat 32 2) 2

/-- Whether a release of a scope by tile `n` may leave (R300): every effect of the tile within the scope has been performed, but for the remote
writes that the threshold of a sig.t orders. -/
def Tile.releaseReady (t : Tile) (scope : Nat) (past : Option (Nat × Nat)) : Bool :=
  !(t.acknowledge.flying.any fun e => decide (e.cls ≤ scope) && decide (past ≠ some (e.tile, e.ac)))

/-- The SIGNAL packet of a release toward another module (R440, R447). -/
def signalPacket (ra : Reg64) (amount : Int) (thr : Option (BitVec 32)) : Packet :=
  let v := ra.toNat
  { type := 2, resent := false, hops := 0, dst := BitVec.ofNat 12 (fld v 35 12), src := 0, bytes := 15
    acid := BitVec.ofNat 6 (if thr.isSome then fld v 26 6 else 0), ac := thr.isSome, tag := 0
    addr := BitVec.ofNat 56 (if thr.isSome then fld v 16 10 else 0), code := 0, origLink := 0, origSeq := 0
    data := toBytes 8 (ucode 64 amount) ++ toBytes 2 (fld v 0 16) ++ [BitVec.ofNat 8 (operandScope ra), 0] ++ toBytes 4 (thr.getD 0).toNat }

/-- A sig or sig.t leaves: to the semaphore unit, to its destination tile, or to another module (R299, R306, R310, R447). -/
def State.releaseSignal (s : State) (n : Nat) (o : Origin) (ra : Reg64) (amount : Int) (thr : Option (BitVec 32)) : State :=
  let v := ra.toNat
  let sem := fld v 0 16
  if v.testBit 34 then
    let l := s.launch n o 2 0 64 0
    l.2.sendRemote (signalPacket ra amount thr) n l.1 sem
  else
    let l := s.launch n o 1 0 64 (if regionDie (tileRegion n) = 0 then 56 else 104)
    match thr with
    | none => l.2.sendSignal (.tile n o) (partyId 0 n) (operandScope ra) sem amount l.1
    | some h =>
      let t := fld v 16 10
      let sig : ThrSig := { ac := fld v 26 6, thr := h, sem := sem, amount := amount, scope := operandScope ra, party := partyId 0 n
                            src := .tile n o, effId := l.1 }
      (l.2.setTile t { l.2.tile t with thrPort := (l.2.tile t).thrPort ++ [sig] }).wakeTile t

/-- Where the counter of a sig.t stands, in the numbering of `counterPlace`. -/
def signalPlace (ra : Reg64) : Nat × Nat :=
  let v := ra.toNat
  (counterPlace (if v.testBit 34 then fld v 35 12 + 1 else 0) (fld v 16 10), fld v 26 6)

/-! ### The release -/

/-- What the effect at the head does when it leaves tile `n`; none says that it waits: for its port, for what a release orders, or behind an
atomic of the tile to the same granule (R94, R294, R300). -/
def State.releaseOne (s : State) (n : Nat) (h : Held) : Option State :=
  let t := s.tile n
  let o := h.origin
  match h.eff with
  | .write a bs mask poison acid =>
    if spaceOf a = 4 then s.releaseRegister n o a bs mask acid
    else if (granulePieces a bs).any fun g => (s.region (tileRegion n)).atomAhead n (g.1 / 64) then none
    else some ((granulePieces a bs).foldl (fun acc g => acc.releaseGranule n o g.1 g.2 mask poison acid) s)
  | .sig ra amount => if t.releaseReady (operandScope ra) none then some (s.releaseSignal n o ra amount none) else none
  | .sigT ra amount thr =>
    if t.releaseReady (operandScope ra) (some (signalPlace ra)) then some (s.releaseSignal n o ra amount (some thr)) else none
  | .wait st ra amount =>
    some { s with sem := { s.sem with net := s.sem.net ++ [.wait n st (operandScope ra) (fld ra.toNat 0 16) amount] } }
  | .obs st ra amount =>
    some { s with sem := { s.sem with net := s.sem.net ++ [.obs n st (operandScope ra) (fld ra.toNat 0 16) amount] } }
  | .acset ac v => some ((s.setTile n { t with ac := mput ArrCnt.zero t.ac ac { count := v, wrap := false } }).passThresholds n)
  | .bell source => some (s.fireFrom source.toNat .tile)

/-- The next held effect of a confirmed window leaves the tile, in issue order (R94). -/
def execEffectRelease (t : TileAt) (s : State) : Answer :=
  let n := t.tile
  let s1 := s.reach t
  let x := s1.tile n
  .next (match x.releaseQ with
    | [] => s1
    | e :: rest =>
      match (s1.setTile n { x.acknowledge with releaseQ := rest }).releaseOne n e with
      | some s2 => s2.settleTile n
      | none => s1)

end Sys2Proof.Machine
end

