-- ==== Sys2Proof/Machine/TileVector.lean ====
section
/-! DEFINITION. The vector slot of a bundle (R56, R131 to R141): one meaning for each operation, over one issue step. -/

namespace Sys2Proof.Machine

/-- The register keys that a source selector reads (R131). -/
def selKeys (n : Nat) : Sel → List Nat
  | .vreg r => (groupRegs r n).map (· + 96)
  | .sreg r => [32 + r]
  | _ => []

/-- Whether a vector slot is legal for its stream, selectors, count and modifier (R51, R56, R121, R131, R133, R134). -/
def vectorLegal (st : Stream) (op : VOp) (v : VSlot) : Bool :=
  let srcs := vSources op v
  let dst := selOf v.dst
  let n := v.count.toNat
  let groups := ((dst :: srcs).filterMap fun s => match s with | .vreg r => some r | _ => none)
  let dstOk : Bool := match op with
    | .cload => decide (v.dst.toNat < 8)
    | .pack _ => (match dst with | .queue _ => true | _ => false)
    | op => if op.reduces then (match dst with | .sreg _ => true | _ => false)
            else (match dst with | .sreg _ => false | .bad => false | _ => true)
  let srcOk : Bool := match op with
    | .unpk _ => (match srcs with | [.queue _] => true | _ => false)
    | _ => srcs.all fun s => s != .bad
  let fmtOk : Bool := match op with
    | .unpk f => (packFormat f).isSome
    | .pack f => (packFormat f).isSome
    | _ => true
  let cntOk : Bool := op == .cload ||
    (decide (1 ≤ n) && (groups.isEmpty || (decide (n ≤ 4096) && groups.all fun r => decide (r + cdiv n 256 ≤ 32))))
  (st == .E) && dstOk && srcOk && fmtOk && cntOk && !(modRounds op v && v.md == 3#2)

/-- The use of the descriptor that a vector slot makes, if it names one. -/
def vectorUses (op : VOp) (v : VSlot) : List Use :=
  if op = .cload then [.curveLoad]
  else (if (vSources op v).contains .stream then [.vecRead] else []) ++
       (if !op.reduces && selOf v.dst == .stream then [.vecWrite] else [])

/-- The bytes of local writes that a stream destination can make (R89, R91). -/
def vectorBytes (c : TileCore) (op : VOp) (v : VSlot) (tile : Nat) : Nat :=
  if op = .cload then 4096
  else if !op.reduces && selOf v.dst == .stream then
    cdiv (v.count.toNat * (parseDesc (c.descBytes v.handle.val) tile).bits) 8
  else 0

/-- The lanes of a source as the slot reads them at issue: a register group or a scalar; a queue or a stream is read as the
operation runs (R48, R132). -/
def BundleIP.lanes (b : BundleIP) (n : Nat) (sel : Sel) : List (Lane × Bool) :=
  match sel with
  | .vreg r => (List.range n).map fun i => (b.start.getV (r + i / 256) (i % 256), b.start.poisoned.contains (96 + r + i / 256))
  | .sreg r => [((b.start.getS .E r).truncate 32, b.start.poisoned.contains (32 + r))]
  | _ => []

/-- What a vector slot reads, writes, pops and pushes (R48, R56, R131 to R134). -/
def vectorInfo (u : Issue) (op : VOp) (v : VSlot) (b : BundleIP) : SlotInfo :=
  let srcs := vSources op v
  { SlotInfo.none_ with
    legal := vectorLegal u.stream op v
    srcs := (if (vectorUses op v).isEmpty then [] else [1024 + v.handle.val]) ++
      srcs.foldl (fun l x => l ++ selKeys v.count.toNat x) []
    dests := (vopDests op v).filter (· < 128), pops := selPops srcs
    pushes := (match selOf v.dst with
      | .queue q => if op.reduces || op == .cload then [] else [4 + q]
      | _ => [])
    bytes := vectorBytes b.start op v u.tile, engine := some .vector }

/-- The first check that the descriptor of a vector slot fails (R151, R614). -/
def State.vectorFailure (s : State) (u : Issue) (op : VOp) (v : VSlot) (d : Desc) : Option Failure :=
  let uses := vectorUses op v
  firstFailure ((uses.map fun x => d.verify v.handle.val x u.tile) ++
    (uses.map fun x => if x.writes then d.verifyWrite v.handle.val else none) ++
    (if uses.isEmpty then [] else [s.verifySpace d]))

/-- A vector operation with the operands that it reads at issue (R48, R132). -/
def vectorWait (op : VOp) (v : VSlot) (b : BundleIP) : VWait :=
  { op := op, slot := v, srcs := (vSources op v).map fun x => b.lanes v.count.toNat x, desc := b.start.descBytes v.handle.val
    win := b.win, seq := b.seq, pc := b.pc }

/-- Issues a vector operation (R87, R132, R614): checks of the descriptor, operand reads, the engine. -/
def State.vectorSlot (s : State) (u : Issue) (op : VOp) (v : VSlot) : State :=
  s.slot u 1 (fun _ b => vectorInfo u op v b) fun s b =>
    match s.vectorFailure u op v (parseDesc (b.start.descBytes v.handle.val) u.tile) with
    | some f => .halt f.1 f.2
    | none => .ok (s.setTile u.tile ((s.tile u.tile).issueVector u.tile s.outside (vectorWait op v b))) b

/-- a + b, a − b, a × b on binary32 lanes (R133). -/
def execVaddF32 (u : Issue) (op : FArithOp) (v : VSlot) (s : State) : Answer :=
  .next (s.vectorSlot u (match op with | .add => .fadd | .sub => .fsub | .mul => .fmul) v)

/-- a × b + c with one rounding (R133). -/
def execVfma (u : Issue) (v : VSlot) (s : State) : Answer := .next (s.vectorSlot u .ffma v)

/-- minimumNumber and maximumNumber (R133). -/
def execVminVmaxF32 (u : Issue) (op : FMinMaxOp) (v : VSlot) (s : State) : Answer :=
  .next (s.vectorSlot u (match op with | .min => .fmin | .max => .fmax) v)

/-- The sign bit cleared or inverted (R133). -/
def execVabsVneg (u : Issue) (op : SignOp) (v : VSlot) (s : State) : Answer :=
  .next (s.vectorSlot u (match op with | .abs => .fabs | .neg => .fneg) v)

/-- Bit copy (R133). -/
def execVmov (u : Issue) (v : VSlot) (s : State) : Answer := .next (s.vectorSlot u .mov v)

/-- 1 or 0 by the relation that MOD names (R133). -/
def execVcmp (u : Issue) (v : VSlot) (s : State) : Answer := .next (s.vectorSlot u .cmp v)

/-- a where any bit of c is set, else b (R133). -/
def execVsel (u : Issue) (v : VSlot) (s : State) : Answer := .next (s.vectorSlot u .sel v)

/-- Wrapping integer arithmetic (R133). -/
def execVintArith (u : Issue) (op : FArithOp) (v : VSlot) (s : State) : Answer :=
  .next (s.vectorSlot u (match op with | .add => .iadd | .sub => .isub | .mul => .imul) v)

/-- Saturating integer arithmetic (R133). -/
def execVsatArith (u : Issue) (op : SatOp) (v : VSlot) (s : State) : Answer :=
  .next (s.vectorSlot u (match op with | .addS => .saddS | .subS => .ssubS | .addU => .saddU) v)

/-- Integer minimum and maximum, signed and unsigned (R133). -/
def execVintMinMax (u : Issue) (op : MinMaxOp) (v : VSlot) (s : State) : Answer :=
  .next (s.vectorSlot u (match op with | .min => .imin | .max => .imax | .minu => .uminI | .maxu => .umaxI) v)

/-- Bitwise operations (R133). -/
def execVbitwise (u : Issue) (op : BitOp) (v : VSlot) (s : State) : Answer :=
  .next (s.vectorSlot u (match op with | .band => .andB | .bor => .orB | .bxor => .xorB) v)

/-- Shifts by b[4:0] (R133). -/
def execVshift (u : Issue) (op : ShiftOp) (v : VSlot) (s : State) : Answer :=
  .next (s.vectorSlot u (match op with | .shl => .shl | .shr => .shr | .sar => .sar) v)

/-- Integer to binary32 by MOD (R121, R133). -/
def execVcvtF32S32 (u : Issue) (v : VSlot) (s : State) : Answer := .next (s.vectorSlot u .cvtF v)

/-- binary32 to integer by MOD, saturating (R121, R122, R133). -/
def execVcvtS32F32 (u : Issue) (v : VSlot) (s : State) : Answer := .next (s.vectorSlot u .cvtI v)

/-- i + a for element i (R133). -/
def execViota (u : Issue) (v : VSlot) (s : State) : Answer := .next (s.vectorSlot u .iota v)

/-- The function of a curve slot (R139). -/
def execVcurve (u : Issue) (slot : Fin 8) (v : VSlot) (s : State) : Answer := .next (s.vectorSlot u (.curve slot.val) v)

/-- Loads a curve slot; busy 16 cycles, usable from +40 (R133, R140). -/
def execVcload (u : Issue) (v : VSlot) (s : State) : Answer := .next (s.vectorSlot u .cload v)

/-- Sum, maximumNumber and minimumNumber of binary32 lanes in the fixed order (R134, R135). -/
def execVredF32 (u : Issue) (op : RedFOp) (v : VSlot) (s : State) : Answer := .next (s.vectorSlot u (.redF op) v)

/-- Sum and maximum of S32 lanes (R134, R135). -/
def execVredS32 (u : Issue) (op : RedSOp) (v : VSlot) (s : State) : Answer := .next (s.vectorSlot u (.redS op) v)

/-- The number of lanes with any bit set (R133). -/
def execVredcnt (u : Issue) (v : VSlot) (s : State) : Answer := .next (s.vectorSlot u .redCnt v)

/-- The lowest index of the maximum (R133, R135). -/
def execVredmaxi (u : Issue) (v : VSlot) (s : State) : Answer := .next (s.vectorSlot u .redMaxI v)

/-- Widens narrow elements of a load queue (R133). -/
def execVunpk (u : Issue) (f : Fin 16) (v : VSlot) (s : State) : Answer := .next (s.vectorSlot u (.unpk f.val) v)

/-- Narrows lanes and pushes them packed (R133). -/
def execVpack (u : Issue) (f : Fin 16) (v : VSlot) (s : State) : Answer := .next (s.vectorSlot u (.pack f.val) v)

end Sys2Proof.Machine
end

