-- ==== Sys2Proof/Machine/TileMatrix.lean ====
section
/-! DEFINITION. The matrix slot of a bundle (R57, R123 to R130). -/

namespace Sys2Proof.Machine

/-- What buffer `b` holds or will hold when the operations before bundle `seq` are done: handle, format, K and N (R125). -/
def Tile.bufferOf (t : Tile) (b : Bool) : Option (Nat × Nat × Nat × Nat) :=
  match (t.core.mwait.filter fun w => decide (w.op = .mld b)).getLast? with
  | some w => let d := parseDesc w.desc 0
              some (w.slot.ha.val, d.fmt, d.exts.headD 0, (d.exts.drop 1).headD 0)
  | none => let sb := if b then t.buf1 else t.buf0
            if sb.loaded then some (sb.handle, sb.fmt, sb.k, sb.n) else none

/-- Whether a matrix slot is legal for its stream and fields (R51, R125, R130). -/
def matrixLegal (st : Stream) (op : MOp) (m : MSlot) : Bool :=
  let bsel := selOf m.bsel
  let dsel := selOf m.dsel
  (st == .E) && match op with
    | .mld _ => m.accmode == 0#2
    | .mmul _ f =>
      (m.accmode == 0#2 || m.accmode == 1#2) &&
      (match bsel with
       | .queue _ => (mmulFormat f).isSome && decide (m.hb.toNat < 512)
       | .stream => f == 0
       | _ => false)
    | .mdrain wide =>
      (m.accmode == 2#2) && decide (m.hb.toNat < 512) &&
      (match dsel with
       | .queue _ => true
       | .stream => true
       | .vreg r => decide (r + cdiv (slotRows m * drainLanes wide) 256 ≤ 32)
       | _ => false)

/-- The matrix checks of a stationary descriptor: rank 2, and K and N within its class (check 12 of R151, R123). -/
def stationaryOk (d : Desc) : Bool :=
  let c := matClass d.fmt
  decide (d.exts.length = 2) && decide (d.exts.headD 0 ≤ classK c) && decide ((d.exts.drop 1).headD 0 ≤ classN c)

/-- The matrix check that an mmul makes under HA: the handle its buffer was loaded from, and K and N within the class of the operation
(check 12 of R151, R123, R125). A streamed descriptor whose format the engine does not accept gives no class: it fails on its own. -/
def mmulBufferOk (t : Tile) (b : Bool) (ha f : Nat) (queue : Bool) (hb : Desc) : Bool :=
  match t.bufferOf b with
  | none => false
  | some (h, fmt, k, n) =>
    let fr := if queue then (mmulFormat f).getD 0 else if matFormat hb.fmt then hb.fmt else fmt
    let c := max (matClass fmt) (matClass fr)
    decide (h = ha) && decide (k ≤ classK c) && decide (n ≤ classN c)

/-- The matrix check that an mmul makes under HB: its elements are a whole number of 1 to 512 rows of K (check 12 of R151, R125). -/
def mmulRowsOk (t : Tile) (b : Bool) (hb : Desc) : Bool :=
  match t.bufferOf b with
  | none => true
  | some (_, _, k, _) => decide (0 < k) && decide (hb.count % k = 0) && decide (1 ≤ hb.count / k) && decide (hb.count / k ≤ 512)

/-- The bytes of local writes of a matrix operation (R91). -/
def matrixBytes (t : Tile) (c : TileCore) (op : MOp) (m : MSlot) (tile : Nat) : Nat :=
  match op with
  | .mld _ => mldBytes (parseDesc (c.descBytes m.ha.val) tile)
  | .mmul b _ =>
    let sb := if b then t.buf1 else t.buf0
    (match selOf m.bsel with
     | .queue _ => slotRows m
     | _ => let k := match t.bufferOf b with | some x => x.2.2.1 | none => 1
            (parseDesc (c.descBytes m.hb.toNat) tile).count / max 1 k) * (max 1 sb.n * 4)
  | .mdrain wide =>
    match selOf m.dsel with
    | .stream => cdiv (slotRows m * drainLanes wide * (parseDesc (c.descBytes m.ha.val) tile).bits) 8
    | _ => 0

/-- The uses of the descriptors that a matrix slot names: of HA, and of HB (R125, R130). -/
def matrixUseA (op : MOp) (m : MSlot) : List Use :=
  match op with
  | .mld _ => [.matFixed]
  | .mmul _ _ => []
  | .mdrain _ => if selOf m.dsel == .stream then [.matDrain] else []

def matrixUseB (op : MOp) (m : MSlot) : List Use :=
  match op with
  | .mmul _ _ => if selOf m.bsel == .stream then [.matStream] else []
  | _ => []

/-- What a matrix slot reads, pops and pushes (R48, R57, R98). -/
def matrixInfo (u : Issue) (op : MOp) (m : MSlot) (t : Tile) (b : BundleIP) : SlotInfo :=
  { SlotInfo.none_ with
    legal := matrixLegal u.stream op m
    accs := (match op with
      | .mdrain wide => (List.range (slotRows m * drainUnits wide)).map fun i => (m.acc.toNat + i) % 2048
      | _ => [])
    srcs := (if (matrixUseA op m).isEmpty then [] else [1024 + m.ha.val]) ++
      (if (matrixUseB op m).isEmpty then [] else [1024 + m.hb.toNat])
    dests := (mopDests op m).filter (· < 128)
    pops := (match op with | .mmul _ _ => selPops [selOf m.bsel] | _ => [])
    pushes := (match op with
      | .mdrain _ => (match selOf m.dsel with | .queue q => [4 + q] | _ => [])
      | _ => [])
    bytes := matrixBytes t b.start op m u.tile, engine := some .matrixMul }

/-- The first check that a matrix slot fails (R151, R614): the checks of HA come before those of HB. -/
def State.matrixFailure (s : State) (u : Issue) (op : MOp) (m : MSlot) (dA dB : Desc) : Option Failure :=
  let m12 (h : Nat) (ok : Bool) : Option Failure := if ok then none else some (0x30, h + 12 * 1024)
  let far := selOf m.bsel == .stream
  let t := s.tile u.tile
  let ofA := match op with
    | .mld _ => m12 m.ha.val (stationaryOk dA)
    | .mmul bf f => m12 m.ha.val (mmulBufferOk t bf m.ha.val f (!far) dB)
    | .mdrain _ => none
  let ofB := match op with
    | .mmul bf _ => if far then m12 m.hb.toNat (mmulRowsOk t bf dB) else none
    | _ => none
  firstFailure (((matrixUseA op m).map fun x => dA.verify m.ha.val x u.tile) ++ [ofA] ++
    ((matrixUseB op m).map fun x => dB.verify m.hb.toNat x u.tile) ++ [ofB] ++
    ((matrixUseA op m).map fun x => if x.writes then dA.verifyWrite m.ha.val else none) ++
    ((matrixUseA op m).map fun _ => s.verifySpace dA) ++ ((matrixUseB op m).map fun _ => s.verifySpace dB))

/-- A matrix operation with the descriptor that it names (R87). -/
def matrixWait (op : MOp) (m : MSlot) (b : BundleIP) : MWait :=
  { op := op, slot := m
    desc := (match op with | .mmul _ _ => b.start.descBytes m.hb.toNat | _ => b.start.descBytes m.ha.val)
    win := b.win, seq := b.seq, pc := b.pc }

/-- Issues a matrix operation (R87, R128, R614). -/
def State.matrixSlot (s : State) (u : Issue) (op : MOp) (m : MSlot) : State :=
  s.slot u 2 (fun t b => matrixInfo u op m t b) fun s b =>
    match s.matrixFailure u op m (parseDesc (b.start.descBytes m.ha.val) u.tile) (parseDesc (b.start.descBytes m.hb.toNat) u.tile) with
    | some f => .halt f.1 f.2
    | none => .ok (s.setTile u.tile ((s.tile u.tile).issueMatrix u.tile s.outside (matrixWait op m b))) b

/-- Loads a stationary buffer (R125, R129). -/
def execMld (u : Issue) (b : Bool) (m : MSlot) (s : State) : Answer := .next (s.matrixSlot u (.mld b) m)

/-- Streams rows past a buffer into the accumulator (R125 to R129). -/
def execMmul (u : Issue) (b : Bool) (f : Fin 16) (m : MSlot) (s : State) : Answer := .next (s.matrixSlot u (.mmul b f.val) m)

/-- Drains accumulator rows (R125, R129, R130). -/
def execMdrain (u : Issue) (wide : Bool) (m : MSlot) (s : State) : Answer := .next (s.matrixSlot u (.mdrain wide) m)

end Sys2Proof.Machine
end

