-- ==== Sys2Proof/Machine/Dispatch.lean ====
section
/-! DEFINITION. The meaning of every command: one arm per constructor of `Instr`, in the order of the spec's table. -/

namespace Sys2Proof.Machine

/-- What a command does to everything but the queue. -/
def exec (i : Instr) (s : State) : Host.Outcome State Fault Refusal :=
  match i with
  | .bundleNop u => Sys2Proof.Machine.execBundleNop u s
  | .aluOp u op rd ra src => Sys2Proof.Machine.execAluOp u op rd ra src s
  | .mul u rd ra src => Sys2Proof.Machine.execMul u rd ra src s
  | .minMax u op rd ra src => Sys2Proof.Machine.execMinMax u op rd ra src s
  | .setCompare u op rd ra src => Sys2Proof.Machine.execSetCompare u op rd ra src s
  | .li u rd imm => Sys2Proof.Machine.execLi u rd imm s
  | .seta u n src => Sys2Proof.Machine.execSeta u n src s
  | .sett u n src => Sys2Proof.Machine.execSett u n src s
  | .rda u rd n => Sys2Proof.Machine.execRda u rd n s
  | .rdt u rd n => Sys2Proof.Machine.execRdt u rd n s
  | .bind u n imm => Sys2Proof.Machine.execBind u n imm s
  | .rdlc u rd k => Sys2Proof.Machine.execRdlc u rd k s
  | .rdreg u rd imm => Sys2Proof.Machine.execRdreg u rd imm s
  | .jmp u imm => Sys2Proof.Machine.execJmp u imm s
  | .condBranch u op ra rb i1 imm => Sys2Proof.Machine.execCondBranch u op ra rb i1 imm s
  | .loop u k ra i1 imm => Sys2Proof.Machine.execLoop u k ra i1 imm s
  | .lexit u => Sys2Proof.Machine.execLexit u s
  | .qput u q ra => Sys2Proof.Machine.execQput u q ra s
  | .qget u rd q => Sys2Proof.Machine.execQget u rd q s
  | .qcnt u rd q => Sys2Proof.Machine.execQcnt u rd q s
  | .sig u ra rb imm => Sys2Proof.Machine.execSig u ra rb imm s
  | .sigT u ra rb imm => Sys2Proof.Machine.execSigT u ra rb imm s
  | .wait u ra rb imm => Sys2Proof.Machine.execWait u ra rb imm s
  | .obs u ra rb imm => Sys2Proof.Machine.execObs u ra rb imm s
  | .await u rb imm => Sys2Proof.Machine.execAwait u rb imm s
  | .acset u rb imm => Sys2Proof.Machine.execAcset u rb imm s
  | .fence u imm => Sys2Proof.Machine.execFence u imm s
  | .bell u ra imm => Sys2Proof.Machine.execBell u ra imm s
  | .qwait u imm => Sys2Proof.Machine.execQwait u imm s
  | .endOp u => Sys2Proof.Machine.execEndOp u s
  | .ldQ u h areg q count vol imm => Sys2Proof.Machine.execLdQ u h areg q count vol imm s
  | .ldS u h areg sreg w vol imm => Sys2Proof.Machine.execLdS u h areg sreg w vol imm s
  | .ldQL u f => Sys2Proof.Machine.execLdQL u f s
  | .stQ u h areg q count acid imm => Sys2Proof.Machine.execStQ u h areg q count acid imm s
  | .stS u h areg sreg w acid imm => Sys2Proof.Machine.execStS u h areg sreg w acid imm s
  | .stQL u f => Sys2Proof.Machine.execStQL u f s
  | .stCp u hs hd as ad count acid => Sys2Proof.Machine.execStCp u hs hd as ad count acid s
  | .vaddF32 u op v => Sys2Proof.Machine.execVaddF32 u op v s
  | .vfma u v => Sys2Proof.Machine.execVfma u v s
  | .vminVmaxF32 u op v => Sys2Proof.Machine.execVminVmaxF32 u op v s
  | .vabsVneg u op v => Sys2Proof.Machine.execVabsVneg u op v s
  | .vmov u v => Sys2Proof.Machine.execVmov u v s
  | .vcmp u v => Sys2Proof.Machine.execVcmp u v s
  | .vsel u v => Sys2Proof.Machine.execVsel u v s
  | .vintArith u op v => Sys2Proof.Machine.execVintArith u op v s
  | .vsatArith u op v => Sys2Proof.Machine.execVsatArith u op v s
  | .vintMinMax u op v => Sys2Proof.Machine.execVintMinMax u op v s
  | .vbitwise u op v => Sys2Proof.Machine.execVbitwise u op v s
  | .vshift u op v => Sys2Proof.Machine.execVshift u op v s
  | .vcvtF32S32 u v => Sys2Proof.Machine.execVcvtF32S32 u v s
  | .vcvtS32F32 u v => Sys2Proof.Machine.execVcvtS32F32 u v s
  | .viota u v => Sys2Proof.Machine.execViota u v s
  | .vcurve u slot v => Sys2Proof.Machine.execVcurve u slot v s
  | .vcload u v => Sys2Proof.Machine.execVcload u v s
  | .vredF32 u op v => Sys2Proof.Machine.execVredF32 u op v s
  | .vredS32 u op v => Sys2Proof.Machine.execVredS32 u op v s
  | .vredcnt u v => Sys2Proof.Machine.execVredcnt u v s
  | .vredmaxi u v => Sys2Proof.Machine.execVredmaxi u v s
  | .vunpk u f v => Sys2Proof.Machine.execVunpk u f v s
  | .vpack u f v => Sys2Proof.Machine.execVpack u f v s
  | .mld u b m => Sys2Proof.Machine.execMld u b m s
  | .mmul u b f m => Sys2Proof.Machine.execMmul u b f m s
  | .mdrain u wide m => Sys2Proof.Machine.execMdrain u wide m s
  | .engineOpStart t e => Sys2Proof.Machine.execEngineOpStart t e s
  | .loadItemPush t q => Sys2Proof.Machine.execLoadItemPush t q s
  | .replayResume t => Sys2Proof.Machine.execReplayResume t s
  | .windowIdleClose t => Sys2Proof.Machine.execWindowIdleClose t s
  | .windowConfirm t => Sys2Proof.Machine.execWindowConfirm t s
  | .effectRelease t => Sys2Proof.Machine.execEffectRelease t s
  | .replayDeadlock t => Sys2Proof.Machine.execReplayDeadlock t s
  | .deferredHalt t => Sys2Proof.Machine.execDeferredHalt t s
  | .remoteWriteArrive t idx => Sys2Proof.Machine.execRemoteWriteArrive t idx s
  | .sigTArrive t idx => Sys2Proof.Machine.execSigTArrive t idx s
  | .releaseNotice t => Sys2Proof.Machine.execReleaseNotice t s
  | .fenceComplete t => Sys2Proof.Machine.execFenceComplete t s
  | .unitWakeComplete unit => Sys2Proof.Machine.execUnitWakeComplete unit s
  | .unitSleep unit => Sys2Proof.Machine.execUnitSleep unit s
  | .bankEngineSleep k pc => Sys2Proof.Machine.execBankEngineSleep k pc s
  | .copyCmdAccept region => Sys2Proof.Machine.execCopyCmdAccept region s
  | .copyCmdStart region dt => Sys2Proof.Machine.execCopyCmdStart region dt s
  | .copyCmdComplete region dt => Sys2Proof.Machine.execCopyCmdComplete region dt s
  | .atomBatch region => Sys2Proof.Machine.execAtomBatch region s
  | .atomicPerform region idx => Sys2Proof.Machine.execAtomicPerform region idx s
  | .startCmdAccept k => Sys2Proof.Machine.execStartCmdAccept k s
  | .prgStart k => Sys2Proof.Machine.execPrgStart k s
  | .prgMemWrite k => Sys2Proof.Machine.execPrgMemWrite k s
  | .vstageWrite k => Sys2Proof.Machine.execVstageWrite k s
  | .rowNop k => Sys2Proof.Machine.execRowNop k s
  | .act k => Sys2Proof.Machine.execAct k s
  | .pre k => Sys2Proof.Machine.execPre k s
  | .wake k => Sys2Proof.Machine.execWake k s
  | .vload k => Sys2Proof.Machine.execVload k s
  | .sload k => Sys2Proof.Machine.execSload k s
  | .mac k => Sys2Proof.Machine.execMac k s
  | .aclr k => Sys2Proof.Machine.execAclr k s
  | .drain k => Sys2Proof.Machine.execDrain k s
  | .cmove k => Sys2Proof.Machine.execCmove k s
  | .rowSig k => Sys2Proof.Machine.execRowSig k s
  | .rowLoop k => Sys2Proof.Machine.execRowLoop k s
  | .rowEnd k => Sys2Proof.Machine.execRowEnd k s
  | .prgComplete k => Sys2Proof.Machine.execPrgComplete k s
  | .acfg k => Sys2Proof.Machine.execAcfg k s
  | .awalk k => Sys2Proof.Machine.execAwalk k s
  | .walkerTableFetch k => Sys2Proof.Machine.execWalkerTableFetch k s
  | .rowReissue k => Sys2Proof.Machine.execRowReissue k s
  | .ordinaryAccess k idx ev => Sys2Proof.Machine.execOrdinaryAccess k idx ev s
  | .accessTvRetry k idx ev => Sys2Proof.Machine.execAccessTvRetry k idx ev s
  | .preempt k => Sys2Proof.Machine.execPreempt k s
  | .preemptResume k => Sys2Proof.Machine.execPreemptResume k s
  | .refreshDue k pc => Sys2Proof.Machine.execRefreshDue k pc s
  | .refreshBoundary k => Sys2Proof.Machine.execRefreshBoundary k s
  | .bandSwapRequest k bits => Sys2Proof.Machine.execBandSwapRequest k bits s
  | .throttleLevelApply k => Sys2Proof.Machine.execThrottleLevelApply k s
  | .engAvailRestore k pc => Sys2Proof.Machine.execEngAvailRestore k pc s
  | .pageFillDone k pc page => Sys2Proof.Machine.execPageFillDone k pc page s
  | .validClear k page npage pcmask => Sys2Proof.Machine.execValidClear k page npage pcmask s
  | .validClearDone k => Sys2Proof.Machine.execValidClearDone k s
  | .scrubVisit k => Sys2Proof.Machine.execScrubVisit k s
  | .pageRepair k pc page => Sys2Proof.Machine.execPageRepair k pc page s
  | .parityRetry k idx ev => Sys2Proof.Machine.execParityRetry k idx ev s
  | .interfaceRecal k idx passed => Sys2Proof.Machine.execInterfaceRecal k idx passed s
  | .odeccPoll counts => Sys2Proof.Machine.execOdeccPoll counts s
  | .kvcopy k src dst => Sys2Proof.Machine.execKvcopy k src dst s
  | .kvcopyDone k => Sys2Proof.Machine.execKvcopyDone k s
  | .semSignalApply idx => Sys2Proof.Machine.execSemSignalApply idx s
  | .semWaitArrive idx => Sys2Proof.Machine.execSemWaitArrive idx s
  | .semObsArrive idx => Sys2Proof.Machine.execSemObsArrive idx s
  | .ntfArm fn slot a => Sys2Proof.Machine.execNtfArm fn slot a s
  | .newReq fn r samp toks => Sys2Proof.Machine.execNewReq fn r samp toks s
  | .cancel fn rid => Sys2Proof.Machine.execCancel fn rid s
  | .pause fn rid ttl => Sys2Proof.Machine.execPause fn rid ttl s
  | .resume fn r samp toks => Sys2Proof.Machine.execResume fn r samp toks s
  | .adapterLoad fn r => Sys2Proof.Machine.execAdapterLoad fn r s
  | .adapterRetire fn r => Sys2Proof.Machine.execAdapterRetire fn r s
  | .hostChoice fn rid choice lstep => Sys2Proof.Machine.execHostChoice fn rid choice lstep s
  | .stepBoundary run cons => Sys2Proof.Machine.execStepBoundary run cons s
  | .adapterReady slot img payload => Sys2Proof.Machine.execAdapterReady slot img payload s
  | .parkCopyDone seq => Sys2Proof.Machine.execParkCopyDone seq s
  | .swapOutDone seq => Sys2Proof.Machine.execSwapOutDone seq s
  | .swapInDone copy => Sys2Proof.Machine.execSwapInDone copy s
  | .ttlExpire handle => Sys2Proof.Machine.execTtlExpire handle s
  | .reqIfneg fn offer => Sys2Proof.Machine.execReqIfneg fn offer s
  | .ringEnable fn value => Sys2Proof.Machine.execRingEnable fn value s
  | .functionDisable fn => Sys2Proof.Machine.execFunctionDisable fn s
  | .verify d dt => Sys2Proof.Machine.execVerify d dt s
  | .propose d dt => Sys2Proof.Machine.execPropose d dt s
  | .exportLogits d dt => Sys2Proof.Machine.execExportLogits d dt s
  | .tmbCmdComplete d dt => Sys2Proof.Machine.execTmbCmdComplete d dt s
  | .jobGo image model hostReadOk => Sys2Proof.Machine.execJobGo image model hostReadOk s
  | .jobEnd => Sys2Proof.Machine.execJobEnd s
  | .jobAbort => Sys2Proof.Machine.execJobAbort s
  | .jobRelease => Sys2Proof.Machine.execJobRelease s
  | .jobFinish => Sys2Proof.Machine.execJobFinish s
  | .jobTeardown => Sys2Proof.Machine.execJobTeardown s
  | .checkpointSave => Sys2Proof.Machine.execCheckpointSave s
  | .checkpointRestore => Sys2Proof.Machine.execCheckpointRestore s
  | .jobPreempt => Sys2Proof.Machine.execJobPreempt s
  | .jobResume => Sys2Proof.Machine.execJobResume s
  | .quiescePoint => Sys2Proof.Machine.execQuiescePoint s
  | .ifnegWrite iface offer => Sys2Proof.Machine.execIfnegWrite iface offer s
  | .quotaWrite f a b => Sys2Proof.Machine.execQuotaWrite f a b s
  | .linkEnable n => Sys2Proof.Machine.execLinkEnable n s
  | .linkDetectDone n signal => Sys2Proof.Machine.execLinkDetectDone n signal s
  | .linkLockDone n lanes => Sys2Proof.Machine.execLinkLockDone n lanes s
  | .negFlitRx n bits fecCorr => Sys2Proof.Machine.execNegFlitRx n bits fecCorr s
  | .linkTrainTimeout n => Sys2Proof.Machine.execLinkTrainTimeout n s
  | .linkRetrain n => Sys2Proof.Machine.execLinkRetrain n s
  | .spareNow n lane => Sys2Proof.Machine.execSpareNow n lane s
  | .laneRetire n lane => Sys2Proof.Machine.execLaneRetire n lane s
  | .flitRx n f => Sys2Proof.Machine.execFlitRx n f s
  | .nullFlitTx n => Sys2Proof.Machine.execNullFlitTx n s
  | .linkLeaveActive n cause => Sys2Proof.Machine.execLinkLeaveActive n cause s
  | .heldPacketTimeout n => Sys2Proof.Machine.execHeldPacketTimeout n s
  | .resentWindowExpire n => Sys2Proof.Machine.execResentWindowExpire n s
  | .writePktRx n p => Sys2Proof.Machine.execWritePktRx n p s
  | .signalPktRx n p => Sys2Proof.Machine.execSignalPktRx n p s
  | .ackPktRx n p => Sys2Proof.Machine.execAckPktRx n p s
  | .refusePktRx n p => Sys2Proof.Machine.execRefusePktRx n p s
  | .collPktRx n p => Sys2Proof.Machine.execCollPktRx n p s
  | .allreduce d => Sys2Proof.Machine.execAllreduce d s
  | .reducescatter d => Sys2Proof.Machine.execReducescatter d s
  | .allgather d => Sys2Proof.Machine.execAllgather d s
  | .broadcast d => Sys2Proof.Machine.execBroadcast d s
  | .bndCmdComplete d => Sys2Proof.Machine.execBndCmdComplete d s
  | .hstDbRing fn tail => Sys2Proof.Machine.execHstDbRing fn tail s
  | .hstDbSem fn sem amount => Sys2Proof.Machine.execHstDbSem fn sem amount s
  | .hstDbInt fn source => Sys2Proof.Machine.execHstDbInt fn source s
  | .apertureRead fn off len => Sys2Proof.Machine.execApertureRead fn off len s
  | .apertureWrite fn off data ep => Sys2Proof.Machine.execApertureWrite fn off data ep s
  | .atsInvalidate fn addr size => Sys2Proof.Machine.execAtsInvalidate fn addr size s
  | .hostReadCompletion id status data ep => Sys2Proof.Machine.execHostReadCompletion id status data ep s
  | .hostReadTimeout id => Sys2Proof.Machine.execHostReadTimeout id s
  | .hdmaCmdAccept region => Sys2Proof.Machine.execHdmaCmdAccept region s
  | .hdmaCmdComplete region data ep => Sys2Proof.Machine.execHdmaCmdComplete region data ep s
  | .vfFlr fn => Sys2Proof.Machine.execVfFlr fn s
  | .pfFlr => Sys2Proof.Machine.execPfFlr s
  | .heartbeat k beat => Sys2Proof.Machine.execHeartbeat k beat s
  | .heartbeatTimeout k victim => Sys2Proof.Machine.execHeartbeatTimeout k victim s
  | .failoverClaim k victim => Sys2Proof.Machine.execFailoverClaim k victim s
  | .stewardSelftestDone k passed => Sys2Proof.Machine.execStewardSelftestDone k passed s
  | .lodgeWatchdog o => Sys2Proof.Machine.execLodgeWatchdog o s
  | .intFire source origin => Sys2Proof.Machine.execIntFire source origin s
  | .intOffer source dt => Sys2Proof.Machine.execIntOffer source dt s
  | .intClaim k => Sys2Proof.Machine.execIntClaim k s
  | .intEoi k source => Sys2Proof.Machine.execIntEoi k source s
  | .statusEvent unit report kind => Sys2Proof.Machine.execStatusEvent unit report kind s
  | .evqPop k => Sys2Proof.Machine.execEvqPop k s
  | .housekeepingRound samples dt => Sys2Proof.Machine.execHousekeepingRound samples dt s
  | .fenceReadback unit passed => Sys2Proof.Machine.execFenceReadback unit passed s
  | .thermalCalibrate k => Sys2Proof.Machine.execThermalCalibrate k s
  | .setEndpointId binding eid => Sys2Proof.Machine.execSetEndpointId binding eid s
  | .profileOffer m inst offer => Sys2Proof.Machine.execProfileOffer m inst offer s
  | .liveData m inst off data => Sys2Proof.Machine.execLiveData m inst off data s
  | .liveStatus m inst => Sys2Proof.Machine.execLiveStatus m inst s
  | .liveCurve src payload readOk => Sys2Proof.Machine.execLiveCurve src payload readOk s
  | .liveTiming src payload readOk => Sys2Proof.Machine.execLiveTiming src payload readOk s
  | .liveThermcoef src payload readOk => Sys2Proof.Machine.execLiveThermcoef src payload readOk s
  | .liveRetire src unit => Sys2Proof.Machine.execLiveRetire src unit s
  | .livePerturb src payload readOk => Sys2Proof.Machine.execLivePerturb src payload readOk s
  | .pldmUnsupportedCmd binding type cmd => Sys2Proof.Machine.execPldmUnsupportedCmd binding type cmd s
  | .getSensorReading binding sensor => Sys2Proof.Machine.execGetSensorReading binding sensor s
  | .setPowerCapEffecter value => Sys2Proof.Machine.execSetPowerCapEffecter value s
  | .pldmFwUpdate offer slotWritten => Sys2Proof.Machine.execPldmFwUpdate offer slotWritten s
  | .activateFirmware a => Sys2Proof.Machine.execActivateFirmware a s
  | .fwCommit component => Sys2Proof.Machine.execFwCommit component s
  | .challenge t => Sys2Proof.Machine.execChallenge t s
  | .getMeasurements t index signed => Sys2Proof.Machine.execGetMeasurements t index signed s
  | .respondIfReady t => Sys2Proof.Machine.execRespondIfReady t s
  | .setCertificate t => Sys2Proof.Machine.execSetCertificate t s
  | .spdmSignatureDone dt => Sys2Proof.Machine.execSpdmSignatureDone dt s
  | .guardSample milliwatts => Sys2Proof.Machine.execGuardSample milliwatts s
  | .levelChangeDone => Sys2Proof.Machine.execLevelChangeDone s
  | .railFault kind => Sys2Proof.Machine.execRailFault kind s
  | .orderlyShutdown cause => Sys2Proof.Machine.execOrderlyShutdown cause s
  | .shutdownRailsOff => Sys2Proof.Machine.execShutdownRailsOff s
  | .hardwareTrip => Sys2Proof.Machine.execHardwareTrip s
  | .flowLost => Sys2Proof.Machine.execFlowLost s
  | .flowRestored => Sys2Proof.Machine.execFlowRestored s
  | .flowLostLimit => Sys2Proof.Machine.execFlowLostLimit s
  | .feedLoss feedB otherGood => Sys2Proof.Machine.execFeedLoss feedB otherGood s
  | .powerOn o => Sys2Proof.Machine.execPowerOn o s
  | .mrst ns o => Sys2Proof.Machine.execMrst ns o s
  | .perstAssert o => Sys2Proof.Machine.execPerstAssert o s
  | .perstDeassert => Sys2Proof.Machine.execPerstDeassert s
  | .holdRelease o => Sys2Proof.Machine.execHoldRelease o s
  | .dlActive speed width flit ms => Sys2Proof.Machine.execDlActive speed width flit ms s
  | .spareQuery stack die arg => Sys2Proof.Machine.execSpareQuery stack die arg s
  | .softRepair stack die arg => Sys2Proof.Machine.execSoftRepair stack die arg s
  | .odeccRead stack die count => Sys2Proof.Machine.execOdeccRead stack die count s
  | .bu1500Shift cmd captured => Sys2Proof.Machine.execBu1500Shift cmd captured s
  | .idcode => Sys2Proof.Machine.execIdcode s
  | .samplePreload => Sys2Proof.Machine.execSamplePreload s
  | .extest => Sys2Proof.Machine.execExtest s
  | .extestPulse => Sys2Proof.Machine.execExtestPulse s
  | .extestTrain => Sys2Proof.Machine.execExtestTrain s
  | .clamp => Sys2Proof.Machine.execClamp s
  | .highz => Sys2Proof.Machine.execHighz s
  | .bypass code => Sys2Proof.Machine.execBypass code s
  | .bscanExitReset o => Sys2Proof.Machine.execBscanExitReset o s
  | .traceMarker => Sys2Proof.Machine.execTraceMarker s
  | .registerWrite who off width value => Sys2Proof.Machine.execRegisterWrite who off width value s
  | .atsTranslationCompletion fn addr granted write => Sys2Proof.Machine.execAtsTranslationCompletion fn addr granted write s
  | .functionEnable fn => Sys2Proof.Machine.execFunctionEnable fn s
  | .spareLaneLosesLock n => Sys2Proof.Machine.execSpareLaneLosesLock n s
  | .getCertificate t slot off len => Sys2Proof.Machine.execGetCertificate t slot off len s

end Sys2Proof.Machine
end

