-- ==== Sys2Proof/Safety.lean ====
section
/-! DEFINITION. What counts as a safe state and a safe step, and the terms in which the statements speak of a slot of a bundle. -/

namespace Sys2Proof

open Machine

/-- A step or a command answers a next state. -/
def Runs (o : Host.Outcome State Fault Refusal) : Prop := ∃ t, o = .next t

/-- What a slot with given sources and destinations announces. -/
def regSlot (legal : Bool) (srcs dests : List Nat) : SlotInfo := { SlotInfo.none_ with legal := legal, srcs := srcs, dests := dests }

/-- The state in which the slot `bit` of a bundle is taken, and the bundle then: it is the bundle's turn, the slot neither waits nor stalls, it
reads no register with a pending write, and it is legal and names no resource twice (R48, R51, R52, R88, R89, R98). -/
structure SlotOk (s : State) (u : Issue) (bit : Nat) (i : SlotInfo) (b : BundleIP) : Prop where
  turn : (s.beginSlot u bit).slotBundle u bit = some b
  goes : (s.beginSlot u bit).stallSlot u b i = none
  ready : (i.srcs.any fun k => ((s.beginSlot u bit).tile u.tile).isPending b.seq k) = false
  clear : (b.count i).clash i = none

/-- The state after a slot that leaves `t` of the tile of its bundle, and the bundle as `b`. -/
def slotNext (s : State) (u : Issue) (bit : Nat) (t : Tile) (b : BundleIP) : State :=
  ((s.beginSlot u bit).setTile u.tile t).closeSlot u b

/-- The tile in which a slot is taken. -/
def slotTile (s : State) (u : Issue) (bit : Nat) : Tile := (s.beginSlot u bit).tile u.tile

/-- The state after a scalar slot whose result `v` is readable `lat` cycles after issue; s0 discards it (R44, R58). -/
def scalarNext (s : State) (u : Issue) (i : SlotInfo) (b : BundleIP) (rd lat : Nat) (v : Reg64) : State :=
  if rd = 0 then (s.beginSlot u 0).closeSlot u ((b.count i).name i)
  else slotNext s u 0 ((slotTile s u 0).write (sKey b.stream rd) ((slotTile s u 0).cycle + lat) b.win b.seq (b.poisoned i.srcs) (.sreg v))
    ((b.count i).name i)

/-- A second source as the bundle reads it: the register, or IMM sign-extended (R53, R58). -/
def BundleIP.src2 (b : Machine.BundleIP) (x : Src2) : Reg64 := if x.i then x.imm.signExtend 64 else b.s x.rb.val

/-- A vector slot is taken and can run its operation at once: its descriptor passes its checks, no operation waits, the engine is free, and the
curve that it names is complete (R87, R140, R614). -/
structure VectorOk (s : State) (u : Issue) (op : VOp) (v : VSlot) (b : BundleIP) : Prop where
  slot : SlotOk s u 1 (vectorInfo u op v b) b
  checks : (s.beginSlot u 1).vectorFailure u op v (parseDesc (b.start.descBytes v.handle.val) u.tile) = none
  alone : (slotTile s u 1).core.vwait = []
  free : (slotTile s u 1).vectorFree = true
  ready : (slotTile s u 1).vectorReady op = true

/-- The bundle as a vector slot leaves it. -/
def vectorBundle (u : Issue) (op : VOp) (v : VSlot) (b : BundleIP) : BundleIP := (b.count (vectorInfo u op v b)).name (vectorInfo u op v b)

/-- The state after a vector slot whose operation runs from the issue cycle on, with the operands that it reads at issue. -/
def vectorNext (s : State) (u : Issue) (op : VOp) (v : VSlot) (b : BundleIP) : State :=
  slotNext s u 1 ((slotTile s u 1).startVector u.tile (s.beginSlot u 1).outside (vectorWait op v b)) (vectorBundle u op v b)

/-- A matrix slot is taken and can run its operation at once: its descriptors pass their checks, no operation of its pipeline waits, and the
pipeline and the buffer are ready (R87, R125, R128, R614). -/
structure MatrixOk (s : State) (u : Issue) (op : MOp) (m : MSlot) (b : BundleIP) : Prop where
  slot : SlotOk s u 2 (matrixInfo u op m (slotTile s u 2) b) b
  checks : (s.beginSlot u 2).matrixFailure u op m (parseDesc (b.start.descBytes m.ha.val) u.tile)
    (parseDesc (b.start.descBytes m.hb.toNat) u.tile) = none
  alone : (slotTile s u 2).matrixAhead op = false
  free : (slotTile s u 2).matrixCanStart (matrixWait op m b) = true
  ready : (slotTile s u 2).matrixReady (matrixWait op m b) = true

/-- The bundle as a matrix slot leaves it. -/
def matrixBundle (s : State) (u : Issue) (op : MOp) (m : MSlot) (b : BundleIP) : BundleIP :=
  (b.count (matrixInfo u op m (slotTile s u 2) b)).name (matrixInfo u op m (slotTile s u 2) b)

/-- The state after a matrix slot whose operation runs from the issue cycle on. -/
def matrixNext (s : State) (u : Issue) (op : MOp) (m : MSlot) (b : BundleIP) : State :=
  slotNext s u 2 ((slotTile s u 2).startMatrix u.tile (s.beginSlot u 2).outside (matrixWait op m b)) (matrixBundle s u op m b)

/-- Row `x` of the running programme of stack `n` has its turn with opcode `op`: it is the sequencer's row and legal, no pre-emption and no
refused row holds it, and its time has come (R189, R198, R203, R206, R207). -/
structure RowTurn (s : State) (n op : Nat) (x : RowCtx) : Prop where
  row : ∃ p, (s.stack n).prg = some p ∧ p.ended = false ∧ x = rowCtx n (s.stack n) p ((s.stack n).row p.row)
  goes : (s.stack n).refusedRow = none ∧ (s.stack n).preempt = false ∧ s.stackUp n = true
  code : x.r.op = op
  legal : s.rowError x = none
  due : x.due = true

/-- Such a row has its effect now: it acts on some engine, its engines are awake, no due refresh of its banks goes first, the parts it uses are
free, and no engine refuses it (R195, R199, R200, R201, R206). -/
structure RowOk (s : State) (n op : Nat) (x : RowCtx) : Prop extends RowTurn s n op x where
  acts : x.waitOnly = false
  awake : s.enginesAwake x = true
  first : x.refreshFirst = false
  free : s.partsFree x = true
  idle : s.refuses x = false

/-- The queues of the Lodge and of the translation cache hold no more than the spec gives them: 1,024 status events (R505) and 8,192 translations
(R474). -/
structure Bounded (s : State) : Prop where
  events : s.lodge.evq.length ≤ 1024
  translations : s.atsCache.length ≤ 8192

/-- The anti-rollback counters are listed in their one canonical form, and the counter of each component is at least `n` of it (R564). -/
structure FusesAtLeast (n : Nat → Nat) (s : State) : Prop where
  listed : mwf 0 s.lodge.fuses = true
  least : ∀ c, n c ≤ s.fuse c

end Sys2Proof
end

