-- ==== Sys2Proof/Certificates/Slice0/Obligations.lean ====
section
/-! DEFINITION. The statements about the model, for the provers: what each command leaves, by family of commands; what reset leaves; what a step takes;
and what every step keeps. -/

open Sys2Proof Sys2Proof.Machine

/-- R58, scalar operations 0x01 to 0x13: a slot that takes its turn completes with the value of the table pending in sD, readable at +1, the
product at +3; s0 discards it; nothing else changes but the bundle's own progress. -/
def Obligations.ScalarOperationsWriteTableValue : Prop :=
  ∀ (s : State) (u : Issue) (b : BundleIP) (rd ra : Fin 32) (src : Src2),
    let i := regSlot true (sKey u.stream ra.val :: src2Keys u.stream src) [sKey u.stream rd.val]
    let x := b.s ra.val
    let y := BundleIP.src2 b src
    let n := y.toNat % 64
    let next (lat : Nat) (v : Reg64) := Host.Outcome.next (φ := Fault) (ρ := Refusal) (scalarNext s u i b rd.val lat v)
    SlotOk s u 0 i b →
      exec (.aluOp u .add rd ra src) s = next 1 (x + y) ∧
      exec (.aluOp u .sub rd ra src) s = next 1 (x - y) ∧
      exec (.aluOp u .band rd ra src) s = next 1 (x &&& y) ∧
      exec (.aluOp u .bor rd ra src) s = next 1 (x ||| y) ∧
      exec (.aluOp u .bxor rd ra src) s = next 1 (x ^^^ y) ∧
      exec (.aluOp u .shl rd ra src) s = next 1 (x <<< n) ∧
      exec (.aluOp u .shr rd ra src) s = next 1 (x >>> n) ∧
      exec (.aluOp u .sar rd ra src) s = next 1 (x.sshiftRight n) ∧
      exec (.mul u rd ra src) s = next 3 (x * y) ∧
      exec (.minMax u .min rd ra src) s = next 1 (if x.toInt < y.toInt then x else y) ∧
      exec (.minMax u .max rd ra src) s = next 1 (if x.toInt < y.toInt then y else x) ∧
      exec (.minMax u .minu rd ra src) s = next 1 (if x.toNat < y.toNat then x else y) ∧
      exec (.minMax u .maxu rd ra src) s = next 1 (if x.toNat < y.toNat then y else x) ∧
      exec (.setCompare u .slt rd ra src) s = next 1 (if x.toInt < y.toInt then 1 else 0) ∧
      exec (.setCompare u .sltu rd ra src) s = next 1 (if x.toNat < y.toNat then 1 else 0) ∧
      exec (.setCompare u .seq rd ra src) s = next 1 (if x = y then 1 else 0)

/-- R58 (li, rda, rdt, rdlc, rdreg, qcnt) and R72: moves into a scalar register complete with the value read, sign-extended for li, rda and rdt,
pending in sD at +1, a register of the tile at +4. -/
def Obligations.ScalarMovesReadTheirSource : Prop :=
  ∀ (s : State) (u : Issue) (b : BundleIP) (rd : Fin 32),
    let i := regSlot true [] [sKey u.stream rd.val]
    (SlotOk s u 0 i b →
      (∀ imm : BitVec 40, exec (.li u rd imm) s = .next (scalarNext s u i b rd.val 1 (imm.signExtend 64))) ∧
      (∀ k : Fin 4, (∀ l ∈ b.start.loops b.stream, l.k ≠ k.val) → exec (.rdlc u rd k) s = .next (scalarNext s u i b rd.val 1 0)) ∧
      (∀ (k : Fin 4) (l : LoopRec) (ls : List LoopRec), b.start.loops b.stream = l :: ls → l.k = k.val →
        exec (.rdlc u rd k) s = .next (scalarNext s u i b rd.val 1 (BitVec.ofNat 64 l.remaining))) ∧
      (∀ (imm : BitVec 40) (v : Nat), 0 ≤ imm.toInt → (slotTile s u 0).tilReg imm.toNat = some v →
        exec (.rdreg u rd imm) s = .next (scalarNext s u i b rd.val 4 (BitVec.ofNat 64 v))) ∧
      (∀ imm : BitVec 40, imm.toInt < 0 ∨ (slotTile s u 0).tilReg imm.toNat = none →
        exec (.rdreg u rd imm) s = .next (scalarNext s u i b rd.val 4 0)) ∧
      (∀ q : Fin 4, exec (.qcnt u rd q) s =
        .next (scalarNext s u i b rd.val 1 (BitVec.ofNat 64 (b.start.queue (popQueue u.stream q.val)).length)))) ∧
    (∀ n : Fin 16, u.stream = .A →
      (SlotOk s u 0 (regSlot true [64 + n.val] [sKey u.stream rd.val]) b →
        exec (.rda u rd n) s =
          .next (scalarNext s u (regSlot true [64 + n.val] [sKey u.stream rd.val]) b rd.val 1 ((b.start.getA n.val).signExtend 64))) ∧
      (SlotOk s u 0 (regSlot true [80 + n.val] [sKey u.stream rd.val]) b →
        exec (.rdt u rd n) s =
          .next (scalarNext s u (regSlot true [80 + n.val] [sKey u.stream rd.val]) b rd.val 1 ((b.start.getT n.val).signExtend 64))))

/-- R45, R46 and R58 (seta, sett, bind): the A stream's address and step registers take src2 [39:0], readable at +1; bind ties aN to a loop, and
4 unties it. -/
def Obligations.AddressRegistersAreSetAndBound : Prop :=
  ∀ (s : State) (u : Issue) (b : BundleIP) (n : Fin 16), u.stream = .A →
    (∀ src : Src2,
      let v : AReg := (BundleIP.src2 b src).truncate 40
      let t := slotTile s u 0
      (∀ i, i = regSlot true (src2Keys u.stream src) [64 + n.val] → SlotOk s u 0 i b → exec (.seta u n src) s =
        .next (slotNext s u 0 (t.write (64 + n.val) (t.cycle + 1) b.win b.seq (b.poisoned i.srcs) (.areg v)) ((b.count i).name i))) ∧
      (∀ i, i = regSlot true (src2Keys u.stream src) [80 + n.val] → SlotOk s u 0 i b → exec (.sett u n src) s =
        .next (slotNext s u 0 (t.write (80 + n.val) (t.cycle + 1) b.win b.seq (b.poisoned i.srcs) (.areg v)) ((b.count i).name i)))) ∧
    (∀ imm : BitVec 40, imm.toNat % 8 ≤ 4 → SlotOk s u 0 (regSlot true [] []) b →
      let t := slotTile s u 0
      let i := regSlot true [] []
      let m := mput 0 t.core.binds n.val (if imm.toNat % 8 = 4 then 0 else imm.toNat % 8 + 1)
      exec (.bind u n imm) s = .next (slotNext s u 0 { t with core := { t.core with binds := m } } ((b.count i).name i)))

/-- R50, R58, R59 and R70: an empty bundle does nothing; a jump and a taken branch name the bundle's address + 8 × IMM as the next one, an
untaken branch does not; lexit marks the innermost loop. R65 and R68: a loop whose trip count is 1 to 65,535, whose body ends inside every active
loop and which makes no fifth one becomes the innermost active loop, its body from the next bundle to the end address; a count outside 0 to
65,535 halts with reason code 0x12. -/
def Obligations.BranchesLoopsAndEmptyBundles : Prop :=
  (∀ (s : State) (u : Issue) (b : BundleIP),
      let plain := regSlot true [] []
      let b' := (b.count plain).name plain
      (SlotOk s u 6 plain b → exec (.bundleNop u) s = .next ((s.beginSlot u 6).closeSlot u b')) ∧
      (∀ imm : BitVec 40, SlotOk s u 0 plain b → 0 ≤ (b.pc : Int) + 8 * imm.toInt → (b.pc : Int) + 8 * imm.toInt < 2 ^ 23 →
        exec (.jmp u imm) s =
          .next ((s.beginSlot u 0).closeSlot u { b' with branch := some (((b.pc : Int) + 8 * imm.toInt).toNat) })) ∧
      (∀ (op : BranchOp) (ra rb : Fin 32) (imm : BitVec 40),
        let i := regSlot true [sKey u.stream ra.val, sKey u.stream rb.val] []
        let x := b.s ra.val
        let y := b.s rb.val
        let taken : Prop := match op with
          | .beq => x = y
          | .bne => x ≠ y
          | .blt => x.toInt < y.toInt
          | .bge => y.toInt ≤ x.toInt
          | .bltu => x.toNat < y.toNat
          | .bgeu => y.toNat ≤ x.toNat
        SlotOk s u 0 i b →
          (¬ taken → exec (.condBranch u op ra rb false imm) s = .next ((s.beginSlot u 0).closeSlot u ((b.count i).name i))) ∧
          (taken → 0 ≤ (b.pc : Int) + 8 * imm.toInt → (b.pc : Int) + 8 * imm.toInt < 2 ^ 23 →
            exec (.condBranch u op ra rb false imm) s =
              .next ((s.beginSlot u 0).closeSlot u { (b.count i).name i with branch := some (((b.pc : Int) + 8 * imm.toInt).toNat) }))) ∧
      (SlotOk s u 0 plain b →
        let t := slotTile s u 0
        (∀ l ls, t.core.loops b.stream = l :: ls →
          exec (.lexit u) s = .next (slotNext s u 0 { t with core := t.core.setLoops b.stream ({ l with exit := true } :: ls) } b')) ∧
        (t.core.loops b.stream = [] → exec (.lexit u) s = .next ((s.beginSlot u 0).closeSlot u b')))) ∧
  (∀ (s : State) (u : Issue) (b : BundleIP) (k : Fin 4) (ra : Fin 32) (immediate : Bool) (imm : BitVec 40),
      let i := regSlot true (if immediate then [] else [sKey u.stream ra.val]) []
      let trips : Int := if immediate then (imm.toNat : Int) % 2 ^ 16 else (b.s ra.val).toInt
      let endA : Int := (b.pc : Int) + 8 * (imm.extractLsb' 16 24).toInt
      let entry : LoopRec :=
        { k := k.val, first := b.pc + 8 * hdrLength b.hdr, endAddr := endA.toNat, remaining := trips.toNat, exit := false }
      let t := slotTile s u 0
      SlotOk s u 0 i b →
        (1 ≤ trips → trips ≤ 65535 → (hdrLength b.hdr : Int) ≤ (imm.extractLsb' 16 24).toInt → (b.start.loops b.stream).length < 4 →
          (∀ l ∈ b.start.loops b.stream, l.k ≠ k.val ∧ endA ≤ l.endAddr) →
          exec (.loop u k ra immediate imm) s =
            .next (slotNext s u 0 { t with core := t.core.setLoops b.stream (entry :: t.core.loops b.stream) } ((b.count i).name i))) ∧
        (trips < 0 ∨ 65535 < trips →
          exec (.loop u k ra immediate imm) s =
            .next ((s.beginSlot u 0).closeSlot u (((b.count i).name i).stop 0x12 (ucode 32 trips)))))

/-- R58 and R74 (qput, qget): a push of one item with the register in bytes [7:0], and a pop into sD, start in the issue cycle on the queue that
R58 names for the stream. -/
def Obligations.QueueSlotsStartPushAndPop : Prop :=
  ∀ (s : State) (u : Issue) (b : BundleIP) (q : Fin 4) (r : Fin 32),
    let t := slotTile s u 0
    let act (k : ActKind) : Act := { start := t.cycle, win := b.win, seq := b.seq, pc := b.pc, stream := b.stream, kind := k }
    let lq := q.val
    let sq := 4 + q.val
    (∀ i, i = { regSlot true [sKey u.stream r.val] [] with pushes := [if u.stream = .A then lq else sq] } → SlotOk s u 0 i b →
      exec (.qput u q r) s = .next (slotNext s u 0 { t with core := { t.core with acts := t.core.acts ++
        [act (.pushItem (if u.stream = .A then lq else sq)
          { payload := (b.s r.val).zeroExtend 2048, poison := b.poisoned [sKey u.stream r.val], readyAt := 0, flips := 0 })] } }
        ((b.count i).name i))) ∧
    (∀ i, i = { regSlot true [] [sKey u.stream r.val] with pops := [if u.stream = .A then sq else lq] } → SlotOk s u 0 i b →
      exec (.qget u r q) s = .next (slotNext s u 0 { t with core := { t.core with acts := t.core.acts ++
        [act (.popReg (if u.stream = .A then sq else lq) (sKey b.stream r.val))] } } ((b.count i).name i)))

/-- R60, R93, R305 and R311 (sig, sig.t, acset, bell): the turnstile holds the effect behind the store slot's, with the operand register and the
amount s[RB] + IMM. R43, R60, R89 and R297 (wait, obs, await, fence, qwait, end): the stream stalls for what it waits for; wait and obs hold
their operation as well; wait, obs, await and fence close their window. -/
def Obligations.SyncSlotsHoldEffectsOrStall : Prop :=
  (∀ (s : State) (u : Issue) (b : BundleIP) (ra rb : Fin 32) (imm : BitVec 14),
      let t := slotTile s u 5
      let a := sKey u.stream ra.val
      let r := sKey u.stream rb.val
      let amount : Int := (b.s rb.val + imm.zeroExtend 64).toInt
      let held (i : SlotInfo) (e : Effect) := Host.Outcome.next (φ := Fault) (ρ := Refusal)
        (slotNext s u 5 (t.hold b.win (2 * b.seq + 1) b.origin e) ((b.count i).name i))
      (∀ i, i = regSlot true [a, r] [] → SlotOk s u 5 i b →
        exec (.sig u ra rb imm) s = held i (.sig (b.s ra.val) amount) ∧
        (fld (b.s ra.val).toNat 16 10 < 96 →
          exec (.sigT u ra rb imm) s = held i (.sigT (b.s ra.val) imm.toNat ((b.s rb.val).truncate 32))) ∧
        (96 ≤ fld (b.s ra.val).toNat 16 10 →
          exec (.sigT u ra rb imm) s =
            .next ((s.beginSlot u 5).closeSlot u (((b.count i).name i).stop 0x20 (fld (b.s ra.val).toNat 0 32))))) ∧
      (∀ i, i = regSlot true [r] [] → SlotOk s u 5 i b →
        exec (.acset u rb imm) s = held i (.acset (imm.toNat % 64) ((b.s rb.val).truncate 32))) ∧
      (∀ i, i = regSlot true [a] [] → SlotOk s u 5 i b →
        exec (.bell u ra imm) s = held i (.bell ((b.s ra.val + imm.zeroExtend 64).truncate 11)))) ∧
  (∀ (s : State) (u : Issue) (b : BundleIP) (ra rb : Fin 32) (imm : BitVec 14),
      let t := slotTile s u 5
      let a := sKey u.stream ra.val
      let r := sKey u.stream rb.val
      let amount : Int := (b.s rb.val + imm.zeroExtend 64).toInt
      let stalled (t : Tile) (x : Stall) : Tile := { t with core := t.core.setStall b.stream x }
      let closing (i : SlotInfo) : BundleIP := { (b.count i).name i with closes := true }
      (∀ i, i = regSlot true [a, r] [] → SlotOk s u 5 i b →
        exec (.wait u ra rb imm) s =
          .next (slotNext s u 5 (stalled (t.hold b.win (2 * b.seq + 1) b.origin (.wait b.stream (b.s ra.val) amount)) .semWait) (closing i)) ∧
        exec (.obs u ra rb imm) s =
          .next (slotNext s u 5 (stalled (t.hold b.win (2 * b.seq + 1) b.origin (.obs b.stream (b.s ra.val) amount)) .semWait) (closing i))) ∧
      (∀ i, i = regSlot true [r] [] → SlotOk s u 5 i b →
        exec (.await u rb imm) s =
          .next (slotNext s u 5 (stalled t (.await (imm.toNat % 64) ((b.s rb.val).toNat % 2 ^ 32))) (closing i))) ∧
      (∀ i, i = regSlot true [] [] → SlotOk s u 5 i b →
        (imm.toNat % 4 ≠ 3 → exec (.fence u imm) s =
          .next (slotNext s u 5
            { t with fences := t.fences ++ [{ stream := b.stream, scope := imm.toNat % 4, win := b.win, issued := t.cycle }] } (closing i))) ∧
        (imm.toNat / 4 % 32 ≤ 15 → exec (.qwait u imm) s =
          .next (slotNext s u 5 (stalled t (.qwait (popQueue b.stream (imm.toNat % 4)) (imm.toNat / 4 % 32 + 1)))
            ((b.count i).name i))) ∧
        exec (.endOp u) s = .next (slotNext s u 5 (stalled t .ended) ((b.count i).name i))))

/-- R61, R63, R83 and R86 (ld.q, ld.s, ld.q.l): a load whose checks pass is issued for the descriptor and the offset aN + IMM; the load of rows
pushes the rows' items. -/
def Obligations.LoadsIssueAfterTheirChecks : Prop :=
  ∀ (s : State) (u : Issue) (b : BundleIP) (h : Fin 1024) (n : Fin 16) (imm : BitVec 24), u.stream = .A →
    let desc := b.start.descBytes h.val
    let d := parseDesc desc u.tile
    let o : Int := (b.start.getA n.val).toInt + imm.toInt
    let t := slotTile s u 3
    (∀ (q : Fin 4) (count : BitVec 8) (vol : Bool) (i : SlotInfo), i = { regSlot true (memSrcs b n imm h (256 * (count.toNat + 1))) [] with loads := [q.val] } →
      hdrLong u.hdr ≠ 1 → SlotOk s u 3 i b → (s.beginSlot u 3).accessFailure u.tile h.val d (.move false) o (count.toNat + 1) = none →
      exec (.ldQ u h n q count vol imm) s =
        .next (((s.beginSlot u 3).startLoad u.tile ((b.count i).name i) q.val desc h.val o (count.toNat + 1)).closeSlot u ((b.count i).name i))) ∧
    (∀ (r : Fin 32) (w : Width) (vol : Bool) (i : SlotInfo), i = regSlot true (memSrcs b n imm h (widthBytes w)) [r.val] →
      hdrLong u.hdr ≠ 1 → SlotOk s u 3 i b → (s.beginSlot u 3).scalarFailure u.tile h.val d false o (widthBytes w) = none →
      exec (.ldS u h n r w vol imm) s =
        .next (((s.beginSlot u 3).loadScalar u.tile ((b.count i).name i) d h.val r.val (widthBytes w) vol o).closeSlot u ((b.count i).name i))) ∧
    (∀ (f : LongForm) (i : SlotInfo), i = { regSlot true [64 + f.areg.val] [] with loads := [f.queue.val] } → hdrLong u.hdr = 1 → SlotOk s u 3 i b →
      longFailure f (longBase f b) = none →
      exec (.ldQL u f) s = .next (slotNext s u 3 { t with nextLoad := t.nextLoad + 1, loads := t.loads ++
        [{ id := t.nextLoad, win := b.win, seq := b.seq, q := f.queue.val, pc := b.pc, nextAt := t.cycle + 5, cls := 6, rate := 1, pushed := 0
           count := longItems f, items := t.rowItems f (longBase f b), desc := [], index := 0, data := [], poison := [], missing := [] }] }
        ((b.count i).name i)))

/-- R62, R83 and R168 (st.q, st.q.l, st.cp): a store whose checks pass starts to take its items in the issue cycle, for the descriptor and offset
of the slot, after the scalar cache has lost the lines it covers. -/
def Obligations.StoresStartAfterTheirChecks : Prop :=
  ∀ (s : State) (u : Issue) (b : BundleIP), u.stream = .A →
    let t := slotTile s u 4
    let run (x : Tile) (k : ActKind) : Tile := { x with core := { x.core with acts := x.core.acts ++
      [{ start := x.cycle, win := b.win, seq := b.seq, pc := b.pc, stream := .A, kind := k }] } }
    (∀ (h : Fin 1024) (n : Fin 16) (q : Fin 4) (count : BitVec 8) (acid : Fin 64) (imm : BitVec 24) (i : SlotInfo),
      let desc := b.start.descBytes h.val
      let d := parseDesc desc u.tile
      let o : Int := (b.start.getA n.val).toInt + imm.toInt
      let c := count.toNat + 1
      i = { regSlot true [64 + n.val, 1024 + h.val] [] with pops := [4 + q.val], bytes := ownBytes u.tile d (256 * c) } →
      hdrLong u.hdr ≠ 2 → SlotOk s u 4 i b → (s.beginSlot u 4).accessFailure u.tile h.val d (.move true) o c = none →
      (s.beginSlot u 4).portFailure u.tile h.val (4 + q.val) d o c = none →
      exec (.stQ u h n q count acid imm) s = .next (slotNext s u 4
        (run (t.invalidate (d.storeLines o c)) (.popStore (4 + q.val) c [] (.desc { desc := desc, h := h.val, index := o, acid := acid.val })))
        ((b.count i).name i))) ∧
    (∀ (f : LongForm) (i : SlotInfo),
      i = { regSlot true [64 + f.areg.val] [] with pops := [4 + f.queue.val], bytes := (f.rowbytes.toNat + 1) * (f.rows.toNat + 1) } →
      hdrLong u.hdr = 2 → SlotOk s u 4 i b → longFailure f (longBase f b) = none →
      exec (.stQL u f) s =
        .next (slotNext s u 4 (run t (.popStore (4 + f.queue.val) (longItems f) [] (.long f (longBase f b)))) ((b.count i).name i)))

/-- R62, R63, R93 and R159 (st.s): the low WIDTH bytes of sN go to aN + IMM bytes from the descriptor's base: out of bounds they are dropped and
counted; in the own scratchpad and the descriptor table they are pending until +3; elsewhere they are a held effect. R62 and R168 (st.cp): a copy
between scratchpad or register-file descriptors of one format, or out of stack memory, whose checks pass starts in the issue cycle; of stack
memory its reads go out first. -/
def Obligations.ScalarStoresAndCopiesStart : Prop :=
  (∀ (s : State) (u : Issue) (b : BundleIP) (h : Fin 1024) (n : Fin 16) (r : Fin 32) (w : Width) (acid : Fin 64) (imm : BitVec 24)
      (i : SlotInfo), u.stream = .A →
      let d := parseDesc (b.start.descBytes h.val) u.tile
      let o : Int := (b.start.getA n.val).toInt + imm.toInt
      let a := (d.scalarAddr o).toNat
      let bs := toBytes (widthBytes w) (b.s r.val).toNat
      let p := b.poisoned [r.val]
      let t := slotTile s u 4
      i = { regSlot true [64 + n.val, 1024 + h.val, r.val] [] with bytes := ownBytes u.tile d (widthBytes w) } →
      hdrLong u.hdr ≠ 2 → SlotOk s u 4 i b → (s.beginSlot u 4).scalarFailure u.tile h.val d true o (widthBytes w) = none →
      let next (x : Tile) := Host.Outcome.next (φ := Fault) (ρ := Refusal) (slotNext s u 4 x ((b.count i).name i))
      (d.inFootprint (if d.table then o else d.scalarAddr o) (widthBytes w) = false →
        exec (.stS u h n r w acid imm) s = next { t with core := t.core.countOob true b.stream h.val [o] }) ∧
      (d.inFootprint o (widthBytes w) = true → d.table = true →
        exec (.stS u h n r w acid imm) s = next ((granulePieces o.toNat bs).foldl (fun y g =>
          y.write (1024 + g.1 / 64) (t.cycle + 3) b.win b.seq p (.table g.1 g.2 0xFF#8)) t)) ∧
      (d.inFootprint (d.scalarAddr o) (widthBytes w) = true → d.table = false → spaceOf a = 2 → fld a 23 10 = u.tile →
        exec (.stS u h n r w acid imm) s = next (t.write 8192 (t.cycle + 3) b.win b.seq p (.bytes (a % 2 ^ 23) bs 0xFF#8))) ∧
      (d.inFootprint (d.scalarAddr o) (widthBytes w) = true → d.table = false → ¬ (spaceOf a = 2 ∧ fld a 23 10 = u.tile) →
        exec (.stS u h n r w acid imm) s = next ((t.invalidate (if spaceOf a = 0 then granulesOf a (widthBytes w) else [])).hold b.win (2 * b.seq) b.origin
          (.write a bs 0xFF#8 p acid.val)))) ∧
  (∀ (s : State) (u : Issue) (b : BundleIP) (hs hd : Fin 1024) (as ad : Fin 16) (count : BitVec 8) (acid : Fin 64) (i : SlotInfo),
      u.stream = .A →
      let n := u.tile
      let c := count.toNat + 1
      let sb := b.start.descBytes hs.val
      let db := b.start.descBytes hd.val
      let sd := parseDesc sb n
      let dd := parseDesc db n
      let js := (b.start.getA as.val).toInt
      let jd := (b.start.getA ad.val).toInt
      let s1 := s.beginSlot u 4
      let far := !sd.table && spaceOf sd.base == 0
      let s2 := if far then s1.startLoad n ((b.count i).name i) 99 sb hs.val js c else s1
      let t := (s2.tile n).invalidate (dd.storeLines jd c)
      i = { regSlot true (memSrcs b as 0 hs (256 * c) ++ [64 + ad.val, 1024 + hd.val]) [] with bytes := ownBytes n dd (256 * c) } →
      hdrLong u.hdr ≠ 2 → SlotOk s u 4 i b → sd.fmt = dd.fmt →
      firstFailure [sd.verify hs.val (.copyItems false) n, dd.verify hd.val (.copyItems true) n, dd.verifyWrite hd.val, none,
        s1.verifySpace sd, s1.verifySpace dd, s1.streamBad sd js c, s1.streamBad dd jd c] = none →
      exec (.stCp u hs hd as ad count acid) s = .next ((s2.setTile n { t with core := { t.core with acts := t.core.acts ++
        [{ start := t.cycle, win := b.win, seq := b.seq, pc := b.pc, stream := .A
           kind := .copy sb hs.val js { desc := db, h := hd.val, index := jd, acid := acid.val } c 0 []
             (if far then some (slotTile s u 4).nextLoad else none) }] } }).closeSlot u ((b.count i).name i)))

/-- R56, R87, R131 to R134 and R614 (the vector operations): a slot whose descriptor passes its checks issues its operation with the operands
that it reads at issue; on a free engine with no operation waiting it starts in the same cycle, behind others it takes one of the four places. -/
def Obligations.VectorSlotsIssueTheirOperation : Prop :=
  ∀ (s : State) (u : Issue) (b : BundleIP) (v : VSlot),
    let t := slotTile s u 1
    let waits (c : Instr) (op : VOp) : Prop :=
      SlotOk s u 1 (vectorInfo u op v b) b →
      (s.beginSlot u 1).vectorFailure u op v (parseDesc (b.start.descBytes v.handle.val) u.tile) = none →
      t.core.vwait ≠ [] → t.core.vwait.length < 4 →
        exec c s = .next (slotNext s u 1 { t with core := { t.core with vwait := t.core.vwait ++ [vectorWait op v b] } } (vectorBundle u op v b))
    (VectorOk s u .fadd v b → exec (.vaddF32 u .add v) s = .next (vectorNext s u .fadd v b)) ∧
    (VectorOk s u .fsub v b → exec (.vaddF32 u .sub v) s = .next (vectorNext s u .fsub v b)) ∧
    (VectorOk s u .fmul v b → exec (.vaddF32 u .mul v) s = .next (vectorNext s u .fmul v b)) ∧
    (VectorOk s u .ffma v b → exec (.vfma u v) s = .next (vectorNext s u .ffma v b)) ∧
    (VectorOk s u .fmin v b → exec (.vminVmaxF32 u .min v) s = .next (vectorNext s u .fmin v b)) ∧
    (VectorOk s u .fmax v b → exec (.vminVmaxF32 u .max v) s = .next (vectorNext s u .fmax v b)) ∧
    (VectorOk s u .fabs v b → exec (.vabsVneg u .abs v) s = .next (vectorNext s u .fabs v b)) ∧
    (VectorOk s u .fneg v b → exec (.vabsVneg u .neg v) s = .next (vectorNext s u .fneg v b)) ∧
    (VectorOk s u .mov v b → exec (.vmov u v) s = .next (vectorNext s u .mov v b)) ∧
    (VectorOk s u .cmp v b → exec (.vcmp u v) s = .next (vectorNext s u .cmp v b)) ∧
    (VectorOk s u .sel v b → exec (.vsel u v) s = .next (vectorNext s u .sel v b)) ∧
    (VectorOk s u .iadd v b → exec (.vintArith u .add v) s = .next (vectorNext s u .iadd v b)) ∧
    (VectorOk s u .isub v b → exec (.vintArith u .sub v) s = .next (vectorNext s u .isub v b)) ∧
    (VectorOk s u .imul v b → exec (.vintArith u .mul v) s = .next (vectorNext s u .imul v b)) ∧
    (VectorOk s u .saddS v b → exec (.vsatArith u .addS v) s = .next (vectorNext s u .saddS v b)) ∧
    (VectorOk s u .ssubS v b → exec (.vsatArith u .subS v) s = .next (vectorNext s u .ssubS v b)) ∧
    (VectorOk s u .saddU v b → exec (.vsatArith u .addU v) s = .next (vectorNext s u .saddU v b)) ∧
    (VectorOk s u .imin v b → exec (.vintMinMax u .min v) s = .next (vectorNext s u .imin v b)) ∧
    (VectorOk s u .imax v b → exec (.vintMinMax u .max v) s = .next (vectorNext s u .imax v b)) ∧
    (VectorOk s u .uminI v b → exec (.vintMinMax u .minu v) s = .next (vectorNext s u .uminI v b)) ∧
    (VectorOk s u .umaxI v b → exec (.vintMinMax u .maxu v) s = .next (vectorNext s u .umaxI v b)) ∧
    (VectorOk s u .andB v b → exec (.vbitwise u .band v) s = .next (vectorNext s u .andB v b)) ∧
    (VectorOk s u .orB v b → exec (.vbitwise u .bor v) s = .next (vectorNext s u .orB v b)) ∧
    (VectorOk s u .xorB v b → exec (.vbitwise u .bxor v) s = .next (vectorNext s u .xorB v b)) ∧
    (VectorOk s u .shl v b → exec (.vshift u .shl v) s = .next (vectorNext s u .shl v b)) ∧
    (VectorOk s u .shr v b → exec (.vshift u .shr v) s = .next (vectorNext s u .shr v b)) ∧
    (VectorOk s u .sar v b → exec (.vshift u .sar v) s = .next (vectorNext s u .sar v b)) ∧
    (VectorOk s u .cvtF v b → exec (.vcvtF32S32 u v) s = .next (vectorNext s u .cvtF v b)) ∧
    (VectorOk s u .cvtI v b → exec (.vcvtS32F32 u v) s = .next (vectorNext s u .cvtI v b)) ∧
    (VectorOk s u .iota v b → exec (.viota u v) s = .next (vectorNext s u .iota v b)) ∧
    (∀ slot : Fin 8, VectorOk s u (.curve slot.val) v b → exec (.vcurve u slot v) s = .next (vectorNext s u (.curve slot.val) v b)) ∧
    (VectorOk s u .cload v b → exec (.vcload u v) s = .next (vectorNext s u .cload v b)) ∧
    (VectorOk s u (.redF .sum) v b → exec (.vredF32 u .sum v) s = .next (vectorNext s u (.redF .sum) v b)) ∧
    (VectorOk s u (.redF .max) v b → exec (.vredF32 u .max v) s = .next (vectorNext s u (.redF .max) v b)) ∧
    (VectorOk s u (.redF .min) v b → exec (.vredF32 u .min v) s = .next (vectorNext s u (.redF .min) v b)) ∧
    (VectorOk s u (.redS .sum) v b → exec (.vredS32 u .sum v) s = .next (vectorNext s u (.redS .sum) v b)) ∧
    (VectorOk s u (.redS .max) v b → exec (.vredS32 u .max v) s = .next (vectorNext s u (.redS .max) v b)) ∧
    (VectorOk s u .redCnt v b → exec (.vredcnt u v) s = .next (vectorNext s u .redCnt v b)) ∧
    (VectorOk s u .redMaxI v b → exec (.vredmaxi u v) s = .next (vectorNext s u .redMaxI v b)) ∧
    (∀ f : Fin 16, VectorOk s u (.unpk f.val) v b → exec (.vunpk u f v) s = .next (vectorNext s u (.unpk f.val) v b)) ∧
    (∀ f : Fin 16, VectorOk s u (.pack f.val) v b → exec (.vpack u f v) s = .next (vectorNext s u (.pack f.val) v b)) ∧
    waits (.vaddF32 u .add v) .fadd ∧ waits (.vaddF32 u .sub v) .fsub ∧ waits (.vaddF32 u .mul v) .fmul ∧ waits (.vfma u v) .ffma ∧
    waits (.vminVmaxF32 u .min v) .fmin ∧ waits (.vminVmaxF32 u .max v) .fmax ∧ waits (.vabsVneg u .abs v) .fabs ∧ waits (.vabsVneg u .neg v) .fneg ∧
    waits (.vmov u v) .mov ∧ waits (.vcmp u v) .cmp ∧ waits (.vsel u v) .sel ∧ waits (.vintArith u .add v) .iadd ∧
    waits (.vintArith u .sub v) .isub ∧ waits (.vintArith u .mul v) .imul ∧ waits (.vsatArith u .addS v) .saddS ∧
    waits (.vsatArith u .subS v) .ssubS ∧ waits (.vsatArith u .addU v) .saddU ∧ waits (.vintMinMax u .min v) .imin ∧
    waits (.vintMinMax u .max v) .imax ∧ waits (.vintMinMax u .minu v) .uminI ∧ waits (.vintMinMax u .maxu v) .umaxI ∧
    waits (.vbitwise u .band v) .andB ∧ waits (.vbitwise u .bor v) .orB ∧ waits (.vbitwise u .bxor v) .xorB ∧ waits (.vshift u .shl v) .shl ∧
    waits (.vshift u .shr v) .shr ∧ waits (.vshift u .sar v) .sar ∧ waits (.vcvtF32S32 u v) .cvtF ∧ waits (.vcvtS32F32 u v) .cvtI ∧
    waits (.viota u v) .iota ∧ (∀ slot : Fin 8, waits (.vcurve u slot v) (.curve slot.val)) ∧ waits (.vcload u v) .cload ∧
    waits (.vredF32 u .sum v) (.redF .sum) ∧ waits (.vredF32 u .max v) (.redF .max) ∧ waits (.vredF32 u .min v) (.redF .min) ∧
    waits (.vredS32 u .sum v) (.redS .sum) ∧ waits (.vredS32 u .max v) (.redS .max) ∧ waits (.vredcnt u v) .redCnt ∧ waits (.vredmaxi u v) .redMaxI ∧
    (∀ f : Fin 16, waits (.vunpk u f v) (.unpk f.val)) ∧ (∀ f : Fin 16, waits (.vpack u f v) (.pack f.val))

/-- R132 and R133: what each lane of an integer, bitwise or sign operation becomes; and an operation over registers of up to 256 elements writes
the lanes of its destination in its one busy cycle, readable L cycles after its start. -/
def Obligations.IntegerLanesFollowTheTable : Prop :=
  (∀ (md i : Nat) (curve : SMap Memory) (a b c : Lane),
    let y (op : VOp) := laneOp op md curve i a b c
    let n := b.toNat % 32
    y .iadd = a + b ∧ y .isub = a - b ∧ y .imul = a * b ∧ y .andB = a &&& b ∧ y .orB = a ||| b ∧ y .xorB = a ^^^ b ∧
    y .shl = a <<< n ∧ y .shr = a >>> n ∧ y .sar = a.sshiftRight n ∧ y .mov = a ∧
    (y .sel = if c = 0 then b else a) ∧ y .fabs = a &&& 0x7FFFFFFF ∧ y .fneg = a ^^^ 0x80000000 ∧ y .iota = BitVec.ofNat 32 i + a ∧
    (y .imin).toInt = min a.toInt b.toInt ∧ (y .imax).toInt = max a.toInt b.toInt ∧
    (y .uminI).toNat = min a.toNat b.toNat ∧ (y .umaxI).toNat = max a.toNat b.toNat ∧
    (y .saddS).toInt = max (-2147483648) (min 2147483647 (a.toInt + b.toInt)) ∧
    (y .ssubS).toInt = max (-2147483648) (min 2147483647 (a.toInt - b.toInt)) ∧
    (y .saddU).toNat = min 4294967295 (a.toNat + b.toNat)) ∧
  (∀ (n : Nat) (out : Reader) (io : CycleIO) (a : Act) (op : VOp) (v : VSlot) (desc : List Byte) (srcs : List (List (Lane × Bool))) (r : Nat),
    let cnt := v.count.toNat
    let src (j e : Nat) := srcLane ((vSources op v).getD j .bad) (srcs.getD j []) e
    let lanes := (List.range cnt).map fun e =>
      (laneOp op v.md.toNat io.tile.curve e (src 0 e).1 (src 1 e).1 (src 2 e).1, (List.range (vSources op v).length).any fun j => (src j e).2)
    let written := io.tile.write (96 + r) (a.start + op.lat) a.win a.seq ((List.range cnt).any fun k => (lanes.getD k (0#32, false)).2)
      (.lanes ((List.range cnt).map fun k => (k, (lanes.getD k (0#32, false)).1)))
    a.kind = .vector op v desc srcs [] → io.tile.cycle = a.start → op.reduces = false → selOf v.dst = .vreg r → 1 ≤ cnt → cnt ≤ 256 →
    (∀ x ∈ vSources op v, ∃ k, x = .vreg k ∨ x = .sreg k) → srcs.length = (vSources op v).length →
    stepAct n out io a = ({ io with tile := written }, none))

/-- R57, R87, R125, R128 and R614 (mld, mmul, mdrain): a slot whose checks pass issues its operation; with nothing ahead of it and its pipeline
and buffer ready it starts in the same cycle, otherwise it takes one of the four places. -/
def Obligations.MatrixSlotsIssueTheirOperation : Prop :=
  ∀ (s : State) (u : Issue) (b : BundleIP) (m : MSlot),
    let t := slotTile s u 2
    let waits (c : Instr) (op : MOp) : Prop :=
      SlotOk s u 2 (matrixInfo u op m t b) b →
      (s.beginSlot u 2).matrixFailure u op m (parseDesc (b.start.descBytes m.ha.val) u.tile) (parseDesc (b.start.descBytes m.hb.toNat) u.tile) = none →
      t.matrixAhead op = true → t.core.mwait.length < 4 →
        exec c s = .next (slotNext s u 2 { t with core := { t.core with mwait := t.core.mwait ++ [matrixWait op m b] } } (matrixBundle s u op m b))
    (∀ x : Bool, MatrixOk s u (.mld x) m b → exec (.mld u x m) s = .next (matrixNext s u (.mld x) m b)) ∧
    (∀ (x : Bool) (f : Fin 16), MatrixOk s u (.mmul x f.val) m b → exec (.mmul u x f m) s = .next (matrixNext s u (.mmul x f.val) m b)) ∧
    (∀ wide : Bool, MatrixOk s u (.mdrain wide) m b → exec (.mdrain u wide m) s = .next (matrixNext s u (.mdrain wide) m b)) ∧
    (∀ x : Bool, waits (.mld u x m) (.mld x)) ∧ (∀ (x : Bool) (f : Fin 16), waits (.mmul u x f m) (.mmul x f.val)) ∧
    (∀ wide : Bool, waits (.mdrain u wide m) (.mdrain wide))

/-- R87, R91 and R615 (ENGINE_OP_START, LOAD_ITEM_PUSH): the first waiting operation of a free engine starts; the return path may push an item of
a queue's oldest load in the current cycle, and with the cycle's other pushes made it does so at the rate of the load's path class, the item log
keeping the item of an earlier window's load. -/
def Obligations.WaitingOperationsStartAndLoadsPush : Prop :=
  ∀ (s : State) (k : TileAt),
    let n := k.tile
    let s1 := s.advanceTile n k.dt
    let x := s1.tile n
    (x.runs = true → (∀ c, x.mode ≠ .rollback c) →
      (∀ w ws, x.core.vwait = w :: ws → x.vectorFree = true → x.vectorReady w.op = true →
        exec (.engineOpStart k .vector) s =
          .next (s1.setTile n (({ x with core := { x.core with vwait := ws } } : Tile).startVector n s1.outside w))) ∧
      (∀ b w ws, x.core.mwait = w :: ws → w.op = .mld b → x.matrixCanStart w = true →
        exec (.engineOpStart k .matrixLoad) s =
          .next (s1.setTile n (({ x with core := { x.core with mwait := ws } } : Tile).startMatrix n s1.outside w))) ∧
      (∀ w ws, x.core.mwait = w :: ws → (∀ b, w.op ≠ .mld b) → x.matrixCanStart w = true → x.matrixReady w = true →
        exec (.engineOpStart k .matrixMul) s =
          .next (s1.setTile n (({ x with core := { x.core with mwait := ws } } : Tile).startMatrix n s1.outside w)))) ∧
    (∀ q : Fin 4, x.runs = true → (∀ c, x.mode ≠ .rollback c) →
      exec (.loadItemPush k q) s = .next (s1.setTile n { x with pathReq := setIns q.val x.pathReq })) ∧
    (∀ (t : Tile) (l : LoadIP) (it : QItem) (done : List Nat), l.nextItem n = some it → l.nextAt ≤ t.cycle → done.contains l.q = false →
      (t.loads.find? fun y => y.q == l.q && decide (y.pushed < y.count)).map (·.id) = some l.id →
      (l.cls = 6 ∨ mget 0 t.pathFree l.cls ≤ t.cycle) → (t.core.queue l.q).length < 16 →
      let l1 := { l with pushed := l.pushed + 1, nextAt := t.cycle + l.rate }
      let t1 : Tile := { t with
        loads := t.loads.filterMap fun y => if y.id = l.id then (if l1.pushed < l1.count then some l1 else none) else some y
        pathFree := if l.cls = 6 then t.pathFree else mput 0 t.pathFree l.cls (t.cycle + l.rate) }
      let u := t1.push l.q it
      t.pathPush n l done = ({ u.1 with windows := u.1.windows.map fun w =>
        if w.id = t.newest ∧ l.win < w.id then { w with items := w.items ++ [(l.q, l.win, u.2)] } else w }, l.q :: done))

/-- R89, R90, R93, R94, R97 and R98 (WINDOW_IDLE_CLOSE, WINDOW_CONFIRM, EFFECT_RELEASE, REPLAY_RESUME): an idle window closes; the oldest closed
window whose actions are done is confirmed and its held effects go to release in their order; the effect at the head leaves; a rollback ends in
conservative mode. -/
def Obligations.WindowsCloseConfirmAndRelease : Prop :=
  ∀ (s : State) (k : TileAt),
    let n := k.tile
    let s1 := s.advanceTile n k.dt
    let x := s1.tile n
    (∀ w, x.openWin = some w → w.lastIssue + 1024 ≤ x.cycle → x.runs = true →
      exec (.windowIdleClose k) s = .next (s1.setTile n (x.setLast { w with closing := true }))) ∧
    (∀ w ws, x.windows = w :: ws → w.closed = true → x.actionsDone w.id = true → x.runs = true → x.mode = .normal → x.slipN = 0 →
      (∀ e ∈ w.held, ∀ c v, e.2.eff ≠ .acset c v) →
      ∃ y, exec (.windowConfirm k) s = .next (y.settleTile n) ∧
        y = s1.setTile n { ({ x with windows := ws } : Tile).dropCopies with releaseQ := x.releaseQ ++ w.held.map (·.2) }) ∧
    (∀ e rest s2, x.releaseQ = e :: rest → (s1.setTile n { x.acknowledge with releaseQ := rest }).releaseOne n e = some s2 →
      exec (.effectRelease k) s = .next (s2.settleTile n)) ∧
    (∀ c, x.mode = .rollback c → c ≤ x.cycle →
      ∃ y : Tile, exec (.replayResume k) s = .next (s1.setTile n y) ∧ y.mode = .conservative ∧ y.core.sA = x.core.sA ∧
        y.core.sE = x.core.sE ∧ y.core.queues = x.core.queues ∧ y.spad = x.spad)

/-- R90 and R100 (REPLAY_DEADLOCK): without progress in conservative mode the tile halts with reason code 0x60; R107 (DEFERRED_HALT): the first
refusal that reached a tile halts it with its reason code, its bundle and detail, and the effects it still held are discarded. R96, R297, R304,
R306, R307 and R316 (REMOTE_WRITE_ARRIVE, SIG_T_ARRIVE, RELEASE_NOTICE, FENCE_COMPLETE): what arrives at an awake tile. -/
def Obligations.TilesHaltAndTakeWhatArrives : Prop :=
  (∀ (s : State) (k : TileAt),
      let n := k.tile
      let s1 := s.advanceTile n k.dt
      let x := s1.tile n
      (∀ q p, x.runs = true → x.mode = .conservative → x.stuck .A = true → x.stuck .E = true → x.waitOf .A = some (q, p) →
        x.fed = false → x.moving = false →
        exec (.replayDeadlock k) s = .next ((s1.setTile n (x.haltHere
          { reason := 0x60#8, streamE := false, pc := BitVec.ofNat 23 p, detail := BitVec.ofNat 32 q })).settleTile n)) ∧
      (∀ q p, x.runs = true → x.mode = .conservative → x.stuck .A = true → x.stuck .E = true → x.waitOf .A = none → x.waitOf .E = some (q, p) →
        x.fed = false → x.moving = false →
        exec (.replayDeadlock k) s = .next ((s1.setTile n (x.haltHere
          { reason := 0x60#8, streamE := true, pc := BitVec.ofNat 23 p, detail := BitVec.ofNat 32 q })).settleTile n)) ∧
      (∀ h rest, x.refusals = h :: rest → x.halt.reason = 0 → h.reason ≠ 0 →
        ∃ t : State, exec (.deferredHalt k) s = .next t ∧ t = s1.recordDeferred n h ∧ (t.tile n).halt = h ∧ (t.tile n).releaseQ = [] ∧
          (t.tile n).heldEffects = [] ∧ (t.tile n).refusals = rest)) ∧
  (∀ (s : State) (k : TileAt) (i : Nat),
      let n := k.tile
      let s1 := s.advanceTile n k.dt
      let x := s1.tile n
      x.sleep = .awake →
      (∀ m, x.inbox[i]? = some m → (∀ e ∈ x.inbox.take i, ¬ (e.addr / 64 = m.addr / 64 ∧ e.tile = m.tile)) →
        let s2 := s1.setTile n { x.remoteWrite m.addr m.bs m.mask m.poison with inbox := listDrop x.inbox i }
        let s3 := match m.acid with
          | some ac => s2.arrive n ac m.bs.length
          | none => s2
        (m.tile ≠ peerSender → exec (.remoteWriteArrive k i) s = .next (s3.landed m.tile m.effId)) ∧
        (m.tile = peerSender → (∀ e ∈ (s3.tile n).inbox, ¬ (e.tile = peerSender ∧ e.effId = m.effId)) →
          exec (.remoteWriteArrive k i) s = .next (s3.sendPacket (s3.reply 3 (m.effId / 2 ^ 20) (m.effId % 2 ^ 20) 0)))) ∧
      (∀ h, x.thrPort[i]? = some h → x.thr.length < 16 →
        exec (.sigTArrive k i) s =
          .next ((s1.setTile n { x with thrPort := listDrop x.thrPort i, thr := x.thr ++ [h] }).passThresholds n)) ∧
      (∀ st scope sem c rest, x.notices = (st, scope, sem, c) :: rest →
        exec (.releaseNotice k) s = .next (s1.setTile n
          (if 1 ≤ scope then (({ x with notices := rest } : Tile).resumeWait st).clearCache
            else ({ x with notices := rest } : Tile).resumeWait st))) ∧
      (∀ f rest, x.fences = f :: rest → x.fenceHolds f = true →
        exec (.fenceComplete k) s = .next (s1.setTile n
          (if 1 ≤ f.scope then ({ x.acknowledge with fences := rest } : Tile).clearCache else { x.acknowledge with fences := rest }))))

/-- R32, R33, R182 and R200 (UNIT_WAKE_COMPLETE, UNIT_SLEEP, BANK_ENGINE_SLEEP): a waking unit becomes ready and records it; an idle one sleeps;
a bank engine that wakes or sleeps holds zeros. -/
def Obligations.UnitsWakeAndSleep : Prop :=
  ∀ (s : State) (unit : BitVec 16),
    let u := unit.toNat
    let i := u % 4096
    let l := (s.unit u).logical
    let t := s.tile l
    let e := s.engine (i / 64) (i % 64)
    let r := s.region i
    (u / 4096 = 0 → l < 96 → t.sleep = .waking →
      exec (.unitWakeComplete unit) s = .next ((s.setTile l { t with sleep := .awake }).traceWake u)) ∧
    (u / 4096 = 1 → e.sleep = .waking → exec (.unitWakeComplete unit) s = .next ((s.setEngine (i / 64) (i % 64)
      { Engine.zero with sleep := .awake, lastUse := (s.stack (i / 64)).cycle }).traceWake u)) ∧
    (u / 4096 = 2 → r.cpySleep = .waking →
      exec (.unitWakeComplete unit) s = .next ((s.setRegion i { r with cpySleep := .awake }).traceWake u)) ∧
    (u / 4096 = 3 → r.hdmaSleep = .waking →
      exec (.unitWakeComplete unit) s = .next ((s.traceWake u).hdmaTurn i { r with hdmaSleep := .awake })) ∧
    (u / 4096 = 0 → l < 96 → t.sleep = .awake → t.noWork = true →
      exec (.unitSleep unit) s = .next ((s.traceSleep u).setTile l { t with sleep := .asleep })) ∧
    (u / 4096 = 2 → r.cpySleep = .awake → r.copyIdle = true →
      exec (.unitSleep unit) s = .next ((s.setRegion i { r with cpySleep := .asleep }).traceSleep u)) ∧
    (u / 4096 = 3 → r.hdmaSleep = .awake → r.hdmaIdle = true →
      exec (.unitSleep unit) s = .next ((s.setRegion i { r with hdmaSleep := .asleep }).traceSleep u)) ∧
    (∀ (k : StkAt) (pc : Fin 64),
      let s1 := s.reachStk k
      let c := s1.stack k.stack
      let g := s1.engine k.stack pc.val
      c.prg = none → c.startQ = [] → g.sleep = .awake → g.lastUse + 1200 ≤ c.cycle →
        exec (.bankEngineSleep k pc) s =
          .next ((s1.setEngine k.stack pc.val Engine.zero).traceSleep (unitId 1 (k.stack * 64 + pc.val))))

/-- R175, R176, R178 and R180 (COPY_CMD_ACCEPT, COPY_CMD_START, COPY_CMD_COMPLETE): acceptance as a move, staged or refused; the start; and the
writes, arrivals and signal of the completion, once the stack controllers have served the command and the port of its destination is open. R321
to R325 (ATOM_BATCH, ATOMIC_PERFORM): the records of an item go out in record order; one is performed with no earlier record to its granule
before it, and the target takes the value of R323. -/
def Obligations.CopyAndAtomicCommands : Prop :=
  (∀ (s : State) (g : Fin 8) (c : RegCmd) (rest : List RegCmd),
      let n := g.val
      let r := s.region n
      let x := c.copy
      let staging := x.overlaps = true ∧ x.isMove = false
      let b := byteField x.item 0x84 1
      let tag := byteField x.item 0x90 4
      let granules := x.src.granules ++ x.dst.granules
      let woken : Sleep := if r.cpySleep = .asleep then .waking else r.cpySleep
      let taken (staged : Bool) : Region := { r with cpyPort := rest, cpySleep := woken, cpyQ := r.cpyQ ++ [{ c with staged := staged }] }
      let accepted (staged : Bool) := Host.Outcome.next (φ := Fault) (ρ := Refusal) ((s.setRegion n (taken staged)).landed c.tile c.effId)
      (r.cpyPort = c :: rest → r.cpyHeld < 32 →
        (¬ staging → exec (.copyCmdAccept g) s = accepted false) ∧
        (staging → x.size ≤ 1048576 → exec (.copyCmdAccept g) s = accepted true) ∧
        (staging → 1048576 < x.size → ∃ t, exec (.copyCmdAccept g) s = .next t ∧ (t.region n).cpyQ = r.cpyQ ∧ (t.region n).cpyPort = rest ∧
          (t.region n).cpyRefused = satInc r.cpyRefused ∧
          (t.tile c.tile).refusals = ((s.tile c.tile).refuse 0x40 c.origin (cdiv x.size 1024)).refusals)) ∧
      (∀ dt, r.cpyQ = c :: rest → r.cpyRun = none → r.cpySleep = .awake → s.unitUp (unitId 2 n) = true →
        let staged : BitVec 32 := if c.staged then satInc r.cpyStaged else r.cpyStaged
        let run := some (c, x.cycles c.staged)
        exec (.copyCmdStart g dt) s = .next (((s.setRegion n { r with cpyQ := rest, cpyRun := run, cpyStaged := staged }).askStacks (unitId 2 n)
          granules).cmdStart (unitId 2 n) tag)) ∧
      (∀ dt need, r.cpyRun = some (c, need) → need ≤ dt → s.unitUp (unitId 2 n) = true → s.portOpen x.dst.base = true →
        s.stacksAnswered (unitId 2 n) = true → s.stacksOpen granules = true →
        let f := s.fetchGranules x.src.granules
        let ch := f.1.fresh
        let out := x.result (fun a => (memGet f.2.1 a, f.2.2.contains (a / 64))) ch.1 x.dst.count
        let s1 := ch.2.performPieces out.pieces fun h => out.bad.contains h
        let q := s1.region n
        let done : Region := { q with cpyRun := none, cpyTag := BitVec.ofNat 32 tag, cpyDone := satInc q.cpyDone
                                      cpyBytes := satAdd q.cpyBytes (piecesBytes out.pieces) }
        let s2 := (s1.setRegion n done).cmdEnd (unitId 2 n) tag
        let s3 := if b.testBit 3 then s2.arrivePieces (fld (byteField x.item 0x8C 1) 0 6) out.pieces else s2
        (b.testBit 2 = false → exec (.copyCmdComplete g dt) s = .next s3) ∧
        (b.testBit 2 = true → exec (.copyCmdComplete g dt) s =
          .next (s3.sendSignal (.copy c.tile c.origin) (partyId 1 n) 1 (byteField x.item 0x88 2) 1 0)))) ∧
  ((∀ (s : State) (g : Fin 8) (c : RegCmd) (rest : List RegCmd), (s.region g.val).atomPort = c :: rest →
      exec (.atomBatch g) s = .next ((List.range 8).foldl (fun acc i => acc.dispatchAtom g.val (atomRecord c i))
        (s.setRegion g.val { s.region g.val with atomPort := rest }))) ∧
    (∀ (s : State) (g : Fin 8) (i : Nat) (a : AtomRec), (s.region g.val).atoms[i]? = some a →
      (∀ b ∈ (s.region g.val).atoms.take i, b.addr / 64 ≠ a.addr / 64) → s.portOpen a.addr = true →
      let s1 := s.setRegion g.val { s.region g.val with atoms := listDrop (s.region g.val).atoms i }
      let w := atomBytes a.width
      let cells := (List.range w).map fun j => s1.outside (a.addr + j)
      let old := ofBytes (cells.map (·.1))
      exec (.atomicPerform g i) s = .next ((s1.performPiece a.addr (toBytes w (atomValue a.op a.width old a.operand.toNat)) 0xFF#8 false).atomReturn
        a old (cells.any (·.2)))) ∧
    (∀ width old x : Nat,
      let m := 2 ^ (8 * atomBytes width)
      atomValue 1 width old x = (old % m + x % m) % m ∧ atomValue 4 width old x = min (old % m) (x % m) ∧
      atomValue 5 width old x = max (old % m) (x % m) ∧ atomValue 6 width old x = x % m))

/-- R189 to R191, R197, R206 and R211 (START_CMD_ACCEPT, PRG_START, PRG_MEM_WRITE, VSTAGE_WRITE, ROW_REISSUE, PRG_COMPLETE): commands and
memories of a controller, and the ends of rows and programmes. -/
def Obligations.ProgrammesStartAndComplete : Prop :=
  ∀ (s : State) (k : StkAt),
    let n := k.stack
    let s1 := s.reachStk k
    let c := s1.stack n
    (∀ x rest, c.startPort = x :: rest → c.startQ.length < 16 → (∀ a ∈ c.aperPort, a.1 = x.tile → x.effId ≤ a.2.2.2.2) →
      exec (.startCmdAccept k) s =
        .next ((s1.setStack n { c with startPort := rest, startQ := c.startQ ++ [x] }).landed x.tile x.effId)) ∧
    (∀ x rest, c.prg = none → c.startQ = x :: rest → c.kvGo = false → s1.stackUp n = true →
      let p : Programme := { cmd := x, row := x.entry, loops := [], lastIssue := c.cycle, doneAt := c.cycle, ended := false
                             failedEng := 0, fetched := 0, configured := 0, walks := [], drains := [] }
      exec (.prgStart k) s =
        .next ((s1.setStack n { c with startQ := rest, prg := some p }).cmdStart (unitId 4 n) x.tag.toNat)) ∧
    (∀ a, c.nextAperture true = some a → exec (.prgMemWrite k) s =
      .next ((s1.setStack n { c with aperPort := c.aperPort.filter (fun b => decide (b ≠ a))
                                     prgMem := memWrite c.prgMem a.2.2.1 (toBytes 256 a.2.2.2.1.toNat) }).landed a.1 a.2.2.2.2)) ∧
    (∀ a, c.nextAperture false = some a → exec (.vstageWrite k) s =
      .next ((s1.setStack n { c with aperPort := c.aperPort.filter (fun b => decide (b ≠ a))
                                     vstage := memWrite c.vstage a.2.2.1 (toBytes 256 a.2.2.2.1.toNat) }).landed a.1 a.2.2.2.2)) ∧
    (∀ p m, c.refusedRow = some m → c.prg = some p →
      let x := rowCtx n c p (c.row p.row)
      let again (op : Nat) (t : State) : Prop := x.r.op = op → exec (.rowReissue k) s = .next ((t.noteOp x).advanceRow n)
      let s2 := s1.setStack n { c with refusedRow := none }
      c.preempt = false → s1.refuses x = false → x.refreshFirst = false → s1.partsFree x = true →
      again 0x11 (s2.rowSload x) ∧ again 0x12 (s2.rowMac x) ∧ again 0x13 (s2.rowAclr x) ∧ again 0x14 (s2.rowDrain x)) ∧
    (∀ p, c.prg = some p → p.ended = true → p.doneAt ≤ c.cycle → c.refusedRow = none → s1.drainsFlying n = false →
      ∃ t, exec (.prgComplete k) s = .next t ∧ (t.stack n).prg = none ∧ (t.stack n).prgDone = satInc c.prgDone ∧
        (t.stack n).startQ = c.startQ ∧ (t.stack n).lastTag = p.cmd.tag ∧ (t.stack n).preempt = false ∧
        (∀ b ∈ (t.stack n).banks, b.2.page = none) ∧ (t.stack n).mem = c.mem)

/-- R193 to R200, R271 and R274 (the programme rows): a row that can issue has its effect and the sequencer moves on; a row that acts on no
engine has only its wait; the walker takes the tables of one more row, up to four. -/
def Obligations.ProgrammeRowsTakeEffect : Prop :=
  ∀ (s : State) (k : StkAt) (x : RowCtx),
    let n := k.stack
    let s1 := s.reachStk k
    let done (op : Nat) (c : Instr) (t : State) : Prop := RowOk s1 n op x → exec c s = .next (((t.noteOp x).useFetched x).advanceRow n)
    let waits (op : Nat) (c : Instr) : Prop := RowTurn s1 n op x → x.waitOnly = true → exec c s = .next ((s1.useFetched x).advanceRow n)
    done 0x00 (.rowNop k) s1 ∧ done 0x01 (.act k) (s1.rowAct x) ∧ done 0x02 (.pre k) (s1.rowPre x) ∧ done 0x03 (.wake k) (s1.rowWake x) ∧
    done 0x10 (.vload k) (s1.rowVload x) ∧ done 0x11 (.sload k) (s1.rowSload x) ∧ done 0x12 (.mac k) (s1.rowMac x) ∧
    done 0x13 (.aclr k) (s1.rowAclr x) ∧ done 0x14 (.drain k) (s1.rowDrain x) ∧ done 0x18 (.cmove k) (s1.rowCmove x) ∧
    done 0x20 (.acfg k) (s1.rowAcfg x) ∧ done 0x21 (.awalk k) (s1.rowAwalk x) ∧ done 0x30 (.rowSig k) (s1.rowSig x) ∧
    done 0x31 (.rowLoop k) (s1.rowLoop x) ∧ done 0x32 (.rowEnd k) (s1.rowEnd x) ∧
    waits 0x01 (.act k) ∧ waits 0x02 (.pre k) ∧ waits 0x03 (.wake k) ∧ waits 0x10 (.vload k) ∧ waits 0x11 (.sload k) ∧ waits 0x12 (.mac k) ∧
    waits 0x13 (.aclr k) ∧ waits 0x14 (.drain k) ∧ waits 0x20 (.acfg k) ∧ waits 0x21 (.awalk k) ∧
    (∀ p, (s1.stack n).prg = some p → exec (.walkerTableFetch k) s =
      .next (s1.setStack n { s1.stack n with prg := some { p with fetched := min 4 (p.fetched + 1) } }))

/-- R193 and R195: an ACT row leaves the page open in the bank of every targeted pseudo-channel, opened at this cycle, and a PRE row leaves none
open there; every other bank, the memory and the engines stay as they were. -/
def Obligations.ActOpensAndPreClosesBanks : Prop :=
  ∀ (s : State) (x : RowCtx), (s.stack x.n).prg.isSome = true → mwf Bank.zero (s.stack x.n).banks = true →
    let c := s.stack x.n
    let p := x.page.toNat
    (∀ pc ∈ x.targets, ((s.rowAct x).stack x.n).bank pc p = { c.bank pc p with page := some p, actAt := c.cycle, used := true }) ∧
    (∀ pc ∈ x.targets, (((s.rowPre x).stack x.n).bank pc p).page = none) ∧
    (∀ pc b, pc ∉ x.targets ∨ b % 32 ≠ p % 32 → ((s.rowAct x).stack x.n).bank pc b = c.bank pc b) ∧
    ((s.rowAct x).stack x.n).mem = c.mem ∧ (s.rowAct x).engines = s.engines ∧ (s.rowAct x).tiles = s.tiles ∧
    ((s.rowPre x).stack x.n).mem = c.mem ∧ (s.rowPre x).engines = s.engines ∧ (s.rowPre x).tiles = s.tiles

/-- R203 to R205, R236 and R276 (ORDINARY_ACCESS, ACCESS_TV_RETRY, PARITY_RETRY, INTERFACE_RECAL, PREEMPT, PREEMPT_RESUME): an access that
nothing holds is performed in its turn, one that reaches an occupied bank or data path is held and counted, and a held one that nothing holds any
longer is tried in its turn; retries are performed; a recalibrated interface serves its access again; a late held access pre-empts. -/
def Obligations.OrdinaryAccessesAreServedHeldAndRetried : Prop :=
  ∀ (s : State) (k : StkAt) (i : Nat) (x : StkAcc),
    let n := k.stack
    let s1 := s.reachStk k
    let c := s1.stack n
    let y : StkAcc := { x with reached := some c.cycle }
    let left : Stack := { c with inflight := listDrop c.inflight i }
    let unheld : Stack := { c with held := listDrop c.held i }
    (s1.stackUp n = true → c.held = [] → c.inflight[i]? = some x → (∀ z ∈ c.inflight.take i, z.addr / 32 ≠ x.addr / 32) →
      (c.holds x.addr = false → c.preempt = false → c.ordReady x.addr x.kind.writes = true →
        exec (.ordinaryAccess k i .ok) s = .next ((s1.setStack n left).performAccess n y)) ∧
      (∀ ev, c.holds x.addr = true → exec (.ordinaryAccess k i ev) s =
        .next (s1.setStack n { left with held := [y], heldCnt := satInc c.heldCnt }))) ∧
    (∀ ev, s1.stackUp n = true → c.held[i]? = some x → x.cause = 0 → c.holds x.addr = false → c.behind (c.held.take i) x = false →
      c.ordReady x.addr x.kind.writes = true →
      exec (.ordinaryAccess k i ev) s = .next ((s1.setStack n (unheld.yieldBank x.addr)).attempt n x ev)) ∧
    (c.held[i]? = some x → c.holds x.addr = false → c.ordReady x.addr x.kind.writes = true → x.retryAt ≤ c.cycle →
      (x.cause = 1 → exec (.accessTvRetry k i .ok) s = .next ((s1.setStack n unheld).performAccess n x)) ∧
      (x.cause = 2 → exec (.parityRetry k i .ok) s =
        .next ((s1.setStack n { unheld with parRetry := satInc c.parRetry }).performAccess n x))) ∧
    (c.held[i]? = some x → x.cause = 3 → exec (.interfaceRecal k i true) s =
      .next (s1.setStack n { c with held := listSet c.held i { x with cause := 0, tries := 0 } })) ∧
    (∀ r, x ∈ c.held → x.cause = 0 → x.reached = some r → r + min 2400 c.holdMax.toNat < c.cycle → c.preempt = false → (c.prg.isSome = true ∨ c.kvGo = true) →
      exec (.preempt k) s = .next (s1.setStack n { c with preempt := true, preemptAt := c.cycle, preemptCnt := satInc c.preemptCnt })) ∧
    (c.preempt = true → (∀ z ∈ c.held, z.cause = 0 → ∀ r, z.reached = some r → c.preemptAt < r) →
      exec (.preemptResume k) s = .next (s1.setStack n { c.reopen.resumeWalks with preempt := false, preemptPages := [] }))

/-- R205 and R236: what a failed attempt leaves. A timing violation is counted and its access waits for the idle pseudo-channel; the fourth one
in a row ends it, a read with bytes of 0xE5 marked poisoned; a parity error waits T_PARRT cycles, and the fifth one waits for the recalibration
of the interface. -/
def Obligations.FailedAttemptsAreCountedAndRetried : Prop :=
  ∀ (s : State) (n : Nat) (x : StkAcc),
    let c := s.stack n
    (x.cause = 1 → x.tries < 3 →
      ((s.attempt n x .timingViolation).stack n).tvAccess = satInc c.tvAccess ∧
      ((s.attempt n x .timingViolation).stack n).held = c.held ++ [{ x with tries := x.tries + 1, cause := 1, retryAt := c.cycle }]) ∧
    (∀ f len, x.cause = 1 → x.tries = 3 → x.kind = .read len → x.src = .host f →
      ((s.attempt n x .timingViolation).stack n).held = c.held ∧ ∃ bad, (s.attempt n x .timingViolation).out.head? =
        some (.aperture f (List.replicate len 0xE5#8) bad) ∧ ∀ b ∈ bad, b = true) ∧
    (x.cause = 2 → x.tries < 4 →
      ((s.attempt n x .parityError).stack n).held = c.held ++ [{ x with tries := x.tries + 1, retryAt := c.cycle + c.fig 17 }] ∧
      ((s.attempt n x .parityError).stack n).mem = c.mem) ∧
    (x.cause = 2 → x.tries = 4 →
      ((s.attempt n x .parityError).stack n).parExhaust = satInc c.parExhaust ∧
      ((s.attempt n x .parityError).stack n).held = c.held ++ [{ x with tries := 5, cause := 3, retryAt := c.cycle }])

/-- R202, R209, R228 to R232 and R234 (REFRESH_DUE, REFRESH_BOUNDARY, BAND_SWAP_REQUEST, THROTTLE_LEVEL_APPLY, ENG_AVAIL_RESTORE): refreshes,
tables and levels of a controller. -/
def Obligations.RefreshBandsAndLevels : Prop :=
  ∀ (s : State) (k : StkAt),
    let n := k.stack
    let s1 := s.reachStk k
    let c := s1.stack n
    let upd (y : Stack) := Host.Outcome.next (φ := Fault) (ρ := Refusal) (s1.setStack n y)
    (∀ pc : Fin 64,
      let at_ := mget 0 c.refAt pc.val
      let owed := mget 0 c.refOwed pc.val
      let c1 : Stack := { c with refAt := mput 0 c.refAt pc.val (at_ + max 1 (c.fig 14)) }
      let bank := mget 0 c.refBank pc.val
      let b := c.bank pc.val bank
      (at_ ≤ c.cycle → b.page = none → (∀ w ∈ c.runs, w.pc = pc.val → w.opens c.cycle bank = false) → exec (.refreshDue k pc) s =
        upd { c1.grantRefresh pc.val with refOwed := mput 0 c.refOwed pc.val owed }) ∧
      (at_ ≤ c.cycle → b.page.isSome = true → c.prg.isSome = true → owed + 1 ≤ c1.fig 18 →
        exec (.refreshDue k pc) s = upd { c1 with refOwed := mput 0 c.refOwed pc.val (owed + 1) })) ∧
    (c.roundAt ≤ c.cycle →
      let c1 := (List.range 4).foldl (fun x b => if c.swap.getLsbD b then x.swapBand b else x) c
      ∃ y : Stack, exec (.refreshBoundary k) s = .next ((s1.setStack n y).timingDone) ∧ y.swap = 0 ∧ y.band = c.bandReq ∧
        y.margin = c.pert.truncate 8 ∧ y.tables = c1.tables ∧ y.shadows = c1.shadows ∧ y.mem = c.mem ∧ y.banks = c.banks) ∧
    (∀ bits : BitVec 4, exec (.bandSwapRequest k bits) s = upd { c with swap := c.swap ||| bits }) ∧
    exec (.throttleLevelApply k) s = upd { c with throttle := c.throttleReq } ∧
    (∀ pc : Fin 64, (s.unit (unitId 1 (n * 64 + pc.val))).allowed = 2 → c.prg = none → c.startQ = [] →
      exec (.engAvailRestore k pc) s = upd { c with engAvail := setBit c.engAvail pc.val true })

/-- R246 to R258 (PAGE_FILL_DONE, VALID_CLEAR, VALID_CLEAR_DONE, SCRUB_VISIT, PAGE_REPAIR, ODECC_POLL) and R282 and R289 (KVCOPY, KVCOPY_DONE):
the valid map, the scrubber, repairs and page copies. -/
def Obligations.PagesAreFilledClearedScrubbedRepairedAndCopied : Prop :=
  ∀ (s : State) (k : StkAt),
    let n := k.stack
    let s1 := s.reachStk k
    let c := s1.stack n
    let upd (y : Stack) := Host.Outcome.next (φ := Fault) (ρ := Refusal) (s1.setStack n y)
    (∀ (pc : Fin 64) (page : Nat) (f : Nat × Nat), f ∈ c.filling → f.1 = pc.val * 524288 + page → f.2 ≤ c.cycle →
      let c1 : Stack := { c with filling := c.filling.filter (fun g => decide (g.1 ≠ f.1)), valid := setIns f.1 c.valid }
      (f.1 ∉ c.clrLate → exec (.pageFillDone k pc page) s = upd c1) ∧
      (f.1 ∈ c.clrLate → exec (.pageFillDone k pc page) s =
        upd { c1.clearWhere (fun q => decide (q = f.1)) with clrLate := setDel f.1 c.clrLate })) ∧
    (∀ page npage mask, c.clrGo = false → exec (.validClear k page npage mask) s =
      upd { c with clrPage := page, clrNpage := npage, clrMask := mask, clrGo := true, clrPos := 0 }) ∧
    (c.clrGo = true → c.clearTotal ≤ c.clrPos → exec (.validClearDone k) s = upd { c with clrGo := false }) ∧
    (∀ q, c.scrubInt ≠ 0 → c.scrubAt ≤ c.cycle → s1.stackUp n = true → c.nextVisit = some q → c.holds (q * 2048) = false →
      c.ordReady (q * 2048) false = true → (∀ x ∈ c.held, x.cause = 0 → pcOf x.addr ≠ pcOf (q * 2048)) →
      let next := max c.cycle (c.scrubAt + 256 * max 3018 c.scrubInt.toNat)
      exec (.scrubVisit k) s = .next ((s1.setStack n ({ c.takeVisit with scrubAt := next }.ordColumns (q * 2048) 2048 false)).scrubPage n q)) ∧
    (∀ (pc : Fin 64) (page : Nat),
      let p := pc.val * 524288 + page
      let bank := pc.val * 32 + page % 32
      c.prg = none → c.kvGo = false → p ∈ c.repairWant → mget 0 c.spareUsed bank < 4 →
      let s2 := s1.migratePage n p
      let x := s2.stack n
      let y : Stack := { x with repairWant := setDel p x.repairWant, corrSeen := mput 0 x.corrSeen p 0 }
      let s3 := s2.setStack n { y with spareUsed := mput 0 y.spareUsed bank (mget 0 c.spareUsed bank + 1), repairSoft := satInc y.repairSoft }
      exec (.pageRepair k pc page) s = .next (State.dutyBoundary { s3 with lodge := { s3.lodge with nvRepairs := s3.lodge.nvRepairs ++ [(n * 2, p)] } } 6)) ∧
    (∀ counts, exec (.odeccPoll counts) s = .next ((List.range 8).foldl (fun acc j =>
      acc.setStack j { acc.stack j with odecc := satAdd (acc.stack j).odecc (counts.getD j 0) }) s)) ∧
    (∀ (src dst : BitVec 25) a b, s1.pageOfId n src.toNat = some (n, a) → s1.pageOfId n dst.toNat = some (n, b) → c.kvGo = false →
      let c1 : Stack := { c with kvSrc := src, kvDst := dst, kvErr := false, kvGo := true, kvUntil := 0, kvFirst := (a.2, b.2) }
      exec (.kvcopy k src dst) s = upd (if c.prg.isNone then c1.beginCopy else c1)) ∧
    (∀ a b, s1.pageOfId n c.kvSrc.toNat = some a → s1.pageOfId n c.kvDst.toNat = some b → c.kvGo = true → c.preempt = false →
      c.kvUntil ≠ 0 → c.kvUntil ≤ c.cycle →
      exec (.kvcopyDone k) s = .next ((s1.setStack n { c with kvGo := false, kvUntil := 0, kvRuns := [] }).copyCachePage n a b))

/-- R310 to R317 (SEM_SIGNAL_APPLY): a signal that is its party's oldest and meets no refusal is applied; with nobody waiting and no armed slot
the value rises by n, LASTSCOPE and LASTSRC are recorded, and the signal is counted. One outside the quota changes no semaphore and halts its
tile. R313 (SEM_WAIT_ARRIVE): a wait that finds no queue and value enough takes n and is released; otherwise it joins the queue. -/
def Obligations.SignalsAndWaitsReachTheirSemaphore : Prop :=
  (∀ (s : State) (i t party scope sem : Nat) (o : Origin) (n : Int) (e : Nat),
      s.netFirst i = some (.signal (.tile t o) party scope sem n e) →
      let s1 : State := { s with sem := { s.sem with net := listDrop s.sem.net i } }
      let x := s.sema sem
      (exec (.semSignalApply i) s = .next ((s1.applySignal (.tile t o) party scope sem n).landed t e)) ∧
      (s.quotaOk (.tile t o) sem = true → 0 ≤ x.value + n → x.value + n ≤ 16777215 → x.queue = [] → x.observers = [] →
        (∀ a ∈ s.sem.ntf, (mget NtfSlot.zero s.sem.ntf a.1).armed = true → (mget NtfSlot.zero s.sem.ntf a.1).sem ≠ sem) →
        mwf Sem.zero s.sem.sems = true →
        let y := s1.applySignal (.tile t o) party scope sem n
        (y.sema sem).value = (x.value + n).toNat ∧ (y.sema sem).lastScope = min scope 2 ∧ (y.sema sem).lastSrc = party ∧
        (∀ m, m ≠ sem → y.sema m = s.sema m) ∧ y.sem.signals = satInc s.sem.signals ∧ y.tiles = s.tiles ∧ y.stk = s.stk) ∧
      (s.quotaOk (.tile t o) sem = false →
        let y := s1.applySignal (.tile t o) party scope sem n
        y.sem.sems = s.sem.sems ∧ y.sem.signals = s.sem.signals ∧ (y.tile t).refusals = ((s.tile t).refuse 0x52 o sem).refusals)) ∧
  (∀ (s : State) (i t scope sem n : Nat) (st : Stream), n ≤ 16777215 → s.quotaOk (s.waitSrc t st) sem = true →
      let s1 : State := { s with sem := { s.sem with net := listDrop s.sem.net i } }
      let x := s.sema sem
      let w : Waiter := { tile := t, stream := st, scope := scope, n := n }
      (s.netFirst i = some (.wait t st scope sem n) →
        (x.queue = [] → n ≤ x.value → exec (.semWaitArrive i) s =
          .next ((s1.setSema sem { x with value := x.value - n }).releaseWaiter sem w n)) ∧
        (x.queue ≠ [] ∨ x.value < n → exec (.semWaitArrive i) s = .next (s1.setSema sem { x with queue := x.queue ++ [w] }))))

/-- R315: the queue is served from its head for as long as the value is at least what the head asks for: afterwards the value has fallen by the
sum of a served prefix, the rest waits in its order, and its head asks for more than is left. -/
def Obligations.QueueIsServedInOrderWhileTheValueAllows : Prop :=
  ∀ (s : State) (sem : Nat), mwf Sem.zero s.sem.sems = true →
    let x := s.sema sem
    let y := (s.serveQueue sem x.queue).sema sem
    ∃ served rest, x.queue = served ++ rest ∧ y.queue = rest ∧ y.value + (served.map (·.n)).sum = x.value ∧
      (∀ w ∈ rest.head?, y.value < w.n) ∧ y.lastScope = x.lastScope ∧ y.lastSrc = x.lastSrc

/-- R327 and R481 (NTF_ARM), R333, R469 and R470 (HST_DB_RING), R326 (HST_DB_SEM), R501 (HST_DB_INT): the notification view and the doorbells of
an enabled function. -/
def Obligations.NotificationsAndDoorbells : Prop :=
  ∀ (s : State) (f : Nat),
    let x := s.fn f
    x.enabled = true →
    (∀ (j : Nat) (a : BitVec 64),
      let m := x.ntfFirst + j
      let n := mget NtfSlot.zero s.sem.ntf m
      let sem := fld a.toNat 0 16
      let y : NtfSlot := { n with sem := sem, kind := a.getLsbD 16, armed := true, func := f, thresh := fld a.toNat 32 24, fired := 0 }
      j < x.ntfCount → n.armed = false → s.inQuota f sem = true → (s.sema sem).value < fld a.toNat 32 24 →
        exec (.ntfArm f j a) s = .next { s with sem := { s.sem with ntf := mput NtfSlot.zero s.sem.ntf m y.fields } }) ∧
    (∀ tail : BitVec 16, f ≠ 0 → x.rqEn = true → (tail - x.rqHead).toNat ≤ 2 ^ x.rqLog2n.toNat →
      (x.rqTail - x.rqHead).toNat ≤ (tail - x.rqHead).toNat → exec (.hstDbRing f tail) s = .next (s.setFn f { x with rqTail := tail })) ∧
    (∀ tail : BitVec 16, f ≠ 0 → x.rqEn = true → 2 ^ x.rqLog2n.toNat < (tail - x.rqHead).toNat →
      exec (.hstDbRing f tail) s = .next (s.setFn f { x with rejRing := satInc x.rejRing })) ∧
    (∀ (sem : BitVec 16) (amount : BitVec 32), exec (.hstDbSem f sem amount) s = .next { s with sem := { s.sem with
      net := s.sem.net ++ [.signal (.doorbell f) (partyId 4 f) 2 sem.toNat amount.toInt 0] } }) ∧
    (∀ source : BitVec 11, f = 0 → exec (.hstDbInt f source) s = .next (s.fireFrom source.toNat .host))

/-- R333, R336, R347, R348, R353 and R354 (NEW, CANCEL, PAUSE, RESUME): a record that the ringmaster reads moves HEAD on by one; a valid NEW
joins the queue, a CANCEL or PAUSE of a queued request is noted in it, a RESUME of a parked conversation queues its resumption. -/
def Obligations.RequestRecordsAreTaken : Prop :=
  ∀ (s : State) (f : Nat),
    let x := s.fn f
    let s1 := (s.setFn f { x with rqHead := x.rqHead + 1 }).dutyBoundary 0
    s.servingRuns = true → s.dutyUp 0 = true → x.enabled = true → x.rqEn = true → x.disabledPending = false → x.rqHead ≠ x.rqTail →
    (∀ r samp toks,
      (s1.requestOk f r samp false = true → exec (.newReq f r samp toks) s = .next { s1 with serving := { s1.serving with
        queue := s1.serving.queue ++ [s1.newRequest f r samp toks none] } }) ∧
      (s1.requestOk f r samp false = false → exec (.newReq f r samp toks) s = .next { s1 with serving := { s1.serving with
        answers := s1.serving.answers ++ [(f, r, 11)] } })) ∧
    (∀ (q : Request), s.serving.seqs = [] → s.serving.queue = [q] → q.fn = f →
      exec (.cancel f q.r.rid) s = .next { s1 with serving := { s1.serving with queue := [{ q with cancelled := some s1.time.toNat }] } } ∧
      (∀ ttl : BitVec 17, 1 ≤ ttl.toNat → ttl.toNat ≤ 86400 → exec (.pause f q.r.rid ttl) s = .next { s1 with serving := { s1.serving with
        queue := [{ q with pauseAt := some (s1.time.toNat, ttl.toNat) }] } })) ∧
    (∀ rid, s.serving.seqs = [] → s.serving.queue = [] → s.serving.tails = [] → exec (.cancel f rid) s = .next (s1.unknownRecord f)) ∧
    (∀ r samp toks p rest, s.serving.parked = p :: rest → p.handle = r.handle.toNat → p.fn = f → p.taken = false →
      s.time.toNat < p.expires → s1.requestOk f r samp true = true → (∀ q ∈ rest, q.handle ≠ p.handle) →
      exec (.resume f r samp toks) s = .next { s1 with serving := { s1.serving with
        queue := s1.serving.queue ++ [s1.newRequest f r samp toks (some p.handle)], parked := { p with taken := true } :: rest } })

/-- R355 to R359 and R388 (ADAPTER_LOAD, ADAPTER_READY, ADAPTER_RETIRE, HOST_CHOICE): a load takes the lowest free slot, the checks of the copied
image make it READY, a retirement is noted, and a host's choice is taken for the sequence that waits for it. -/
def Obligations.AdapterSlotsAndHostChoices : Prop :=
  ∀ (s : State) (f : Nat),
    let x := s.fn f
    let s1 := (s.setFn f { x with rqHead := x.rqHead + 1 }).dutyBoundary 0
    let reads : Prop := s.servingRuns = true ∧ s.dutyUp 0 = true ∧ x.enabled = true ∧ x.rqEn = true ∧ x.disabledPending = false ∧ x.rqHead ≠ x.rqTail
    (∀ r, reads → s.serving.slots = [] → r.adapter ≠ 0 → r.version ≠ 0 → fld x.quotaA.toNat 16 11 ≠ 0 →
      exec (.adapterLoad f r) s = .next (s1.setAdSlot 0 { AdSlot.zero with tenant := f, adapter := r.adapter.toNat, version := r.version.toNat
                                                                           state := 1, switchNow := r.switchNow, loader := some (r, f) })) ∧
    (∀ r i, reads → s1.readySlot f r.adapter.toNat (max 1 r.version.toNat) = some i →
      ∃ t, exec (.adapterRetire f r) s = .next t ∧ t.adSlot i = { s1.adSlot i with retireAt := some s1.time.toNat } ∧
        t.serving.retires = s.serving.retires ++ [(f, r)]) ∧
    (∀ choice lstep e rest i, reads → s.serving.seqs = (i, e) :: rest → e.req.fn = f → e.waiting = true → e.lstep = lstep.toNat →
      choice.toNat < (s.tombola 0).vocab →
      exec (.hostChoice f e.req.r.rid choice lstep) s = .next (s1.setSeq i { e with choice := some choice, waiting := false })) ∧
    (∀ i img payload, (s.adSlot i).state = 1 → (s.adSlot i).answer = none → s.adapterOk (s.adSlot i) img payload = true →
      ∃ t, exec (.adapterReady i img payload) s = .next t ∧ (t.adSlot i).state = 2 ∧ (t.adSlot i).rank = adRank img ∧
        (t.adSlot i).answer = some 12)

/-- R36, R37, R344 and R345 (STEP_BOUNDARY): when the step-complete bell has arrived the eight actions run in their order, each recorded complete
before the next, and the longest boundary is kept; run one by one, each acts on the state that it finds, so that what is recorded between two
actions counts in the later one, and action 5 waits for its page copies. -/
def Obligations.StepBoundaryRunsTheEightActions : Prop :=
  ∀ (s : State) (cycles : Nat) (cons : List (Nat × BitVec 32 × BitVec 32)), s.servingRuns = true → s.dutyUp 0 = true →
    let held (t : State) (n : Nat) : State := t.setServing fun v => { v with bnd := none, bndMax := BitVec.ofNat 32 (min (2 ^ 32 - 1) (max v.bndMax.toNat n)) }
    let longest (changed : List Nat) (c : Nat) : Nat := min c (2000 + 100 * changed.length)
    let isolate (v : Serving) (q : List Nat) : Serving := { v with quarantine := v.quarantine ++ q }
    (s.serving.bnd = none → (s.serving.stepOpen = true → s.serving.stepDone = true) →
      let done (t : State) : State := t.dutyBoundary 0
      let t1 := done s.action1
      let t2 := done (t1.action2 cons)
      let t4 := done (done ((t2.noteDeadlines s.stepSeqs).action3 cons)).action4
      let ending := t2.serving.endPend
      let copied := t4.planCopies.askCopies
      let r := copied.action5
      let t6 := done ((done (r.1.setServing fun v => isolate v r.2)).releaseQuarantine t4.serving.quarantine)
      let t7 := done (if ending then t6 else (t6.applyQuotas false).action7 cons)
      let t8 := done (if ending then t7.endServing else t7.action8)
      copied.copiesDone = true →
      exec (.stepBoundary ⟨8, cycles⟩ cons) s = .next (held t8.giveDuties.retirePending (longest (s.changedSeqs t8).eraseDups cycles))) ∧
    (∀ b : Boundary, s.serving.bnd = some b →
      let seen (t : State) : List Nat := (b.changed ++ s.changedSeqs t).eraseDups
      let stands (t : State) (b' : Boundary) : State :=
        t.setServing fun v => { v with bnd := some { b' with cycles := b.cycles + cycles, changed := seen t } }
      let runs (k : Nat) (t : State) (b' : Boundary) : Prop := exec (.stepBoundary ⟨k, cycles⟩ cons) s =
        .next (stands (t.dutyBoundary 0) { b' with next := k + 1 })
      let copying := (if b.asked then s else s.planCopies).askCopies
      let r := copying.action5
      (b.next = 1 → runs 1 s.action1 { b with inStep := s.stepSeqs }) ∧
      (b.next = 2 → runs 2 (s.action2 cons) b) ∧
      (b.next = 3 → runs 3 ((s.noteDeadlines b.inStep).action3 cons) { b with ending := s.serving.endPend }) ∧
      (b.next = 4 → runs 4 s.action4 b) ∧
      (b.next = 5 → copying.copiesDone = false → exec (.stepBoundary ⟨5, cycles⟩ cons) s = .next (stands copying { b with asked := true })) ∧
      (b.next = 5 → copying.copiesDone = true →
        runs 5 (r.1.setServing fun v => isolate v r.2) { b with asked := false, release := s.serving.quarantine }) ∧
      (b.next = 6 → runs 6 (s.releaseQuarantine b.release) b) ∧
      (b.next = 7 → runs 7 (if b.ending then s else (s.applyQuotas false).action7 cons) b) ∧
      (b.next = 8 →
        let t := (if b.ending then s.endServing else s.action8).dutyBoundary 0
        exec (.stepBoundary ⟨8, cycles⟩ cons) s = .next (held t.giveDuties.retirePending (longest (seen t) (b.cycles + cycles)))))

/-- R283, R353 and R354 (PARK_COPY_DONE, SWAP_OUT_DONE, SWAP_IN_DONE, TTL_EXPIRE): pages copied out are recorded as freed, and their places in
host memory kept for the sequence; pages whose bytes the host has answered are stored and end the wait; and a parked conversation is discarded at
the end of its time-to-live. -/
def Obligations.PagesMoveToAndFromHostMemory : Prop :=
  ∀ (s : State) (i : Nat) (e : SeqEntry), s.seq i = some e →
    let edit (t : State) (leaf : Nat → Option Nat) : State := e.pages.foldl (fun acc p => acc.stageLeaf i p.1 p.2.1 (leaf p.2.2)) t
    let out (r : State × List (Nat × Nat × Nat)) : State := edit (r.1.recordFrees e.pages) fun _ => none
    (e.state = .parking → e.parkDone = false → e.saved = [] →
      let r := s.savePages e.pages fun k => s.orgFree.getD k 0
      exec (.parkCopyDone i) s = .next ((out r).setSeq i { e with saved := r.2, pages := [], parkDone := true })) ∧
    (e.state = .swapped → e.saved = [] → e.pages ≠ [] →
      let r := State.savePages { s with frees := s.frees + e.pages.length } e.pages (swapPlace s.frees)
      exec (.swapOutDone i) s = .next ((out r).setSeq i { e with saved := r.2, pages := [] })) ∧
    (∀ data : List (List Byte × Bool), e.state = .swapped → e.saved ≠ [] → e.pages ≠ [] → data.length = e.saved.length →
      (∀ d ∈ data, d.1.length = s.pageBytes) →
      let back := edit (s.loadPages e.pages e.saved data) some
      let e' : SeqEntry := { e with saved := [], returned := true, req := { e.req with resumeOf := none } }
      (e.req.resumeOf = none → exec (.swapInDone ⟨i, data⟩) s = .next (back.setSeq i e')) ∧
      (∀ h, e.req.resumeOf = some h → exec (.swapInDone ⟨i, data⟩) s =
        .next ((back.setServing fun v => { v with parked := v.parked.filter fun p => decide (p.handle ≠ h) }).setSeq i e'))) ∧
    (∀ (h : BitVec 48) p, s.serving.parked = [p] → p.handle = h.toNat → p.taken = false → p.expires ≤ s.time.toNat →
      exec (.ttlExpire h) s = .next { s with serving := { s.serving with parked := [], expired := s.serving.expired ++ [(p.handle, p.fn)] } })

/-- R11, R12, R333, R334, R360 and R365 (REQ_IFNEG, RING_ENABLE, FUNCTION_DISABLE): version 1 is chosen where it is offered, a ring is enabled
with a version and a depth within the quota, and a function that is disabled loses its ring. R400, R412 to R414 and R421 (IFNEG_WRITE,
QUOTA_WRITE): an interface version is chosen while no job holds the module; a quota that keeps its ranges is in force at once, or waits for the
step boundary of a serving job, and one that does not keep them is refused. -/
def Obligations.RingsInterfacesAndQuotasAreSet : Prop :=
  (∀ (s : State) (f : Nat),
      let x := s.fn f
      (∀ offer : BitVec 16, x.rqEn = false → offer.getLsbD 1 = true → exec (.reqIfneg f offer) s = .next (s.setFn f { x with ifActive := 1 })) ∧
      (∀ offer : BitVec 16, x.rqEn = false → offer.getLsbD 1 = false → exec (.reqIfneg f offer) s = .next (s.setFn f { x with ifActive := 0 })) ∧
      (∀ value : BitVec 64, x.rqEn = false → value.getLsbD 8 = true → x.ifActive ≠ 0 → 4 ≤ (value.truncate 5 : BitVec 5).toNat →
        (value.truncate 5 : BitVec 5).toNat ≤ fld x.quotaA.toNat 28 4 →
        exec (.ringEnable f value) s = .next (s.setFn f { x with rqLog2n := value.truncate 5, rqEn := true })) ∧
      (f ≠ 0 → s.servingRuns = true → ∃ t, exec (.functionDisable f) s = .next t ∧
        t.fn f = { x with enabled := false, rqEn := false, disabledPending := true } ∧
        (∀ q ∈ t.serving.queue, q.fn = f → q.disabled = true) ∧ t.serving.queue.length = s.serving.queue.length ∧
        (∀ g, g ≠ f → t.fn g = s.fn g))) ∧
  (∀ (s : State),
      (∀ offer : BitVec 16, s.jobLive = false → s.job.susp = false →
        exec (.ifnegWrite 0 offer) s = .next { s with lodge := { s.lodge with ifActive0 := if offer.getLsbD 1 then 1 else 0 } } ∧
        exec (.ifnegWrite 4 offer) s = .next { s with lodge := { s.lodge with ifActive4 := if offer.getLsbD 1 then 1 else 0 } }) ∧
      (∀ (f : Nat) (a b : BitVec 64),
        let b0 := BitVec.ofNat 64 (b.toNat % 2 ^ 33)
        let a0 := BitVec.ofNat 64 (fld a.toNat 0 14 + fld a.toNat 16 11 * 2 ^ 16 + fld a.toNat 28 36 * 2 ^ 28)
        let x := s.fn f
        1 ≤ f → f ≤ 4096 →
          (s.quotaWriteOk f a0 b0 = false → exec (.quotaWrite f a b) s = .next (s.setFn f { x with quotaB := setBit x.quotaB 63 true })) ∧
          (s.quotaWriteOk f a0 b0 = true → s.servingRuns = true → exec (.quotaWrite f a b) s =
            .next (s.setFn f { x with quotaPendA := some a0, quotaPendB := some b0, quotaB := setBit x.quotaB 63 false })) ∧
          (s.quotaWriteOk f a0 b0 = true → s.jobLive = false → exec (.quotaWrite f a b) s =
            .next ((s.setFn f { x with quotaA := a0, quotaB := setBit x.quotaB 63 false }).setRange f b0))))

/-- R377, R379 to R381, R384 and R387 (VERIFY, PROPOSE, EXPORT): an idle tombola whose reads nothing holds takes the command at the head of its
queue, checks it, reads what it needs and runs for the cycles of R385. R383, R385 and R389 to R391 (TMB_CMD_COMPLETE): once its cycles have
passed the running command writes its results, is counted and recorded, and its signal leaves; R384: a command that fails a check leaves its code
and tag, discards the queue and asks for the job's teardown with cause 6. -/
def Obligations.TombolaCommandsRunAndFail : Prop :=
  (∀ (s : State) (d : Fin 2) (dt tile : Nat) (item : BitVec 2048) (rest : List (Nat × BitVec 2048)),
      let s1 := s.reachTmb d.val dt
      let t := s1.tombola d.val
      let c := tmbCmd item
      let s2 := s1.setTombola d.val { t with q := rest }
      let par := s2.fetchBytes (t.parAddr c.seq) 256
      let nlog := byteField par.2.1 0x2A 2
      let run (o : TmbOut) (now : Nat) : TmbRun :=
        { tile := tile, item := item, due := now + o.cycles, writes := o.writes, block := o.block, empties := o.empties, poison := o.poison }
      let began (r : State × TmbOut) := Host.Outcome.next (φ := Fault) (ρ := Refusal)
        ((r.1.setTombola d.val { r.1.tombola d.val with running := some (run r.2 (r.1.tombola d.val).cycle) }).cmdStart (unitId 6 d.val) c.tag.toNat)
      t.q = (tile, item) :: rest → t.running = none → s1.unitUp (unitId 6 d.val) = true →
      s1.stacksOpen (granulesOf (t.parAddr c.seq) 256 ++ c.rows.flatMap fun n => granulesOf (c.logAddr + n * c.stride) (t.vocab * c.width)) = true →
      (s2.tmbError d.val c nlog = none →
        (∀ r, c.op = 1 → par.1.doVerify d.val c par.2.1 = .ok r → exec (.verify d dt) s = began r) ∧
        (∀ r, c.op = 2 → par.1.doPropose d.val c = .ok r → exec (.propose d dt) s = began r) ∧
        (∀ r, c.op = 3 → par.1.doExport d.val c nlog = .ok r → exec (.exportLogits d dt) s = began r) ∧
        (∀ e, c.op = 1 → par.1.doVerify d.val c par.2.1 = .error e → exec (.verify d dt) s = .next (s2.tmbFail d.val c.tag e))) ∧
      (∀ e, s2.tmbError d.val c nlog = some e → exec (.verify d dt) s = .next (s2.tmbFail d.val c.tag e))) ∧
  (∀ (s : State) (d : Fin 2),
      (∀ dt (r : TmbRun),
        let s1 := s.reachTmb d.val dt
        let t := s1.tombola d.val
        let c := tmbCmd r.item
        let done : Tombola := { t with running := none, commands := satInc t.commands, tag := c.tag, empty := satAdd t.empty r.empties
                                       poisonCnt := if r.poison then satInc t.poisonCnt else t.poisonCnt }
        let s2 := ((s1.setTombola d.val done).tmbDeliver r).cmdEnd (unitId 6 d.val) c.tag.toNat
        t.running = some r → r.due ≤ t.cycle → s1.unitUp (unitId 6 d.val) = true →
        s1.stacksOpen (r.writes.flatMap fun w => granulesOf w.1 w.2.length) = true → (∀ w ∈ r.writes, s1.portOpen w.1 = true) →
          (c.sig = false → exec (.tmbCmdComplete d dt) s = .next s2) ∧
          (c.sig = true → exec (.tmbCmdComplete d dt) s = .next (s2.sendSignal (.tombola d.val c.tag) (partyId 0 r.tile) 1 c.sem 1 0))) ∧
      (∀ tag code, 1 ≤ code → code ≤ 6 →
        let t := s.tmbFail d.val tag code
        (t.tombola d.val).err = BitVec.ofNat 8 code ∧ (t.tombola d.val).errTag = tag ∧ (t.tombola d.val).q = [] ∧
        (t.tombola d.val).running = none ∧ (s.job.tearing = none → 1 ≤ s.job.state → s.job.state ≤ 4 → t.job.tearing = some 6)))

/-- R400 to R402, R409, R410 and R416 (JOB_GO, JOB_END, JOB_ABORT, JOB_RELEASE, JOB_FINISH, JOB_TEARDOWN): an image that passes its checks starts
and runs; a GO that cannot be taken leaves its code in REFUSE; the other operations move the job as they say. -/
def Obligations.JobsStartEndAndAreReleased : Prop :=
  ∀ (s : State),
    (∀ image model ok,
      let m := imageOf image model
      ((s.job.state = 0 ∨ s.job.state = 5) → s.refuseImage image m ok false = none →
        ∃ t, exec (.jobGo image model ok) s = .next t ∧ t.job.state = 2 ∧ t.job.cause = 0 ∧ t.job.refuse = 0 ∧ t.job.owner = m.owner ∧
          t.job.ckTaken = 0 ∧ t.job.ckResumed = 0 ∧ t.job.lastCkpt = none ∧ t.job.tearing = none) ∧
      (∀ code, (s.job.state = 0 ∨ s.job.state = 5) → s.refuseImage image m ok false = some code → exec (.jobGo image model ok) s =
        .next { (if ok then s else s.readRefused 0) with job := { s.job with refuse := BitVec.ofNat 8 code, state := 5, cause := 8, owner := m.owner } }) ∧
      (s.servingRuns = true → exec (.jobGo image model ok) s = .next { s with job := { s.job with refuse := 0x0A } }) ∧
      (s.job.state = 2 → s.servingRuns = false → m.preempt = true → s.job.suspended = none → s.refuseImage image m ok true = none →
        exec (.jobGo image model ok) s = .next { s with job := { s.job with waiting := some m } })) ∧
    (s.servingRuns = true → exec .jobEnd s = .next { s with serving := { s.serving with endPend := true } }) ∧
    (1 ≤ s.job.state → s.job.state ≤ 4 → s.job.tearing = none →
      exec .jobAbort s = .next { s with job := { s.job with tearing := some 3, haltTile := none } }) ∧
    (s.job.state = 5 → mwf Tile.zero s.tiles = true → ∃ t, exec .jobRelease s = .next t ∧ t.job = { s.job with state := 0, image := none } ∧
      (∀ n, n < 96 → t.tile n = (s.tile n).handOver) ∧ t.stk = s.stk ∧ t.regions = s.regions ∧ t.serving = s.serving) ∧
    (s.job.state = 2 → s.servingRuns = false → s.job.tearing = none → (∀ n, n < 96 → (s.tile n).finished = true) → s.enginesIdle = true →
      exec .jobFinish s = .next (s.endJob 1)) ∧
    (∀ c, s.job.tearing = some c → ∃ t, exec .jobTeardown s = .next t ∧ t = s.teardown ∧ t.job.state = 5 ∧ t.job.cause = BitVec.ofNat 4 c.toNat ∧
      t.job.tearing = none)

/-- R403 to R408 and R512 to R514 (CHECKPOINT_SAVE, CHECKPOINT_RESTORE, JOB_PREEMPT, JOB_RESUME, QUIESCE_POINT): what happens at a checkpoint,
with the remaps that a rerun waits for, and at a quiesce point or while no job holds the module. -/
def Obligations.CheckpointsSuspensionsAndQuiescePoints : Prop :=
  ∀ (s : State),
    (∀ m c, s.atCheckpoint = some (m, c) → s.job.waiting = none →
      exec .checkpointSave s = .next ((s.takeCheckpoint m c).sendSignal .lodge s.jobParty 1 c.ckgo c.w 0) ∧
      (s.takeCheckpoint m c).job.ckTaken = satInc s.job.ckTaken ∧
      (s.takeCheckpoint m c).job.lastCkpt = some (s.saveLive m c) ∧
      (s.job.ckTaken ≠ 0 → ∀ v, s.job.lastCkpt = some v →
        (if s.job.ckHalf then (s.takeCheckpoint m c).job.ckpt1 else (s.takeCheckpoint m c).job.ckpt0) = some v)) ∧
    (∀ m v, s.job.image = some m → m.serving = false → s.job.state = 2 → s.job.tearing = none →
      let s1 := s.cancelWork.remapAll
      let s2 := { s1 with job := { s1.job with ckResumed := satInc s1.job.ckResumed } }
      s2.job.lastCkpt = some v → exec .checkpointRestore s =
        .next ((s2.reloadTiles m (some v) fun n => v.tiles.any fun e => decide (e.1 = n)).restoreRest m v)) ∧
    (∀ w, s.job.waiting = some w →
      ((s.job.state = 5 ∨ s.job.state = 0) → exec .jobPreempt s = .next ({ s with job := { s.job with waiting := none } }.startJob w)) ∧
      (∀ m c, s.atCheckpoint = some (m, c) → ∃ t, exec .jobPreempt s = .next t ∧ t.job.state = 2 ∧ t.job.owner = w.owner ∧
        t.job.cause = 0)) ∧
    (∀ m v, s.job.suspended = some (m, v) → (s.job.state = 5 ∨ s.job.state = 0) → s.job.waiting = none →
      ∃ t, exec .jobResume s = .next t ∧ t.job.state = 2 ∧ t.job.owner = m.owner ∧ t.job.suspended = none ∧ t.job.susp = false ∧
        t.job.ckpt0 = some v) ∧
    (∀ r, (s.jobLive = true → s.quiesced = true) → (∀ n, n < 8 → s.remapOf n = none) → s.lodge.liveRun = some r → r.op = 1 →
      exec .quiescePoint s = .next ((s.applyCurve r.payload).liveEnd 0)) ∧
    (∀ n u v, (s.jobLive = true → s.quiesced = true) → n < 8 → (∀ k, k < n → s.remapOf k = none) → s.remapOf n = some (u, v) →
      (∀ k, n < k → k < 8 → (s.remapTile u v).remapOf k = none) → (s.remapTile u v).lodge.liveRun = none →
      exec .quiescePoint s = .next (s.remapTile u v))

/-- R423 to R431, R441, R444 and R462 (LINK_ENABLE, LINK_DETECT_DONE, LINK_LOCK_DONE, NEG_FLIT_RX, LINK_TRAIN_TIMEOUT, LINK_RETRAIN, SPARE_NOW,
LANE_RETIRE, SPARE_LANE_LOSES_LOCK): a link trains through its states, fails with the code of what went wrong, and swaps a lane for its spare. -/
def Obligations.LinksTrainAndSpareLanes : Prop :=
  ∀ (s : State) (n : Fin 24),
    let x := s.link n.val
    let now := s.time.toNat
    let training (y : Link) : Link := { y.down 1 1 0 now with ssc := s.power.lnkSsc }
    (x.state = 0 → s.linkUp n.val = true → exec (.linkEnable n) s = .next (s.setLink n.val (training { x with en := true }))) ∧
    (∀ signal, x.state = 1 → x.phase = 1 → x.trainFrom + 100000 ≤ now →
      exec (.linkDetectDone n signal) s = .next (s.setLink n.val { x with state := 2, phase := 2, signalSeen := signal })) ∧
    (∀ lanes, x.state = 2 → x.phase = 2 →
      let y := x.map lanes now
      let g := (goodLanes x.signalSeen lanes).length
      exec (.linkLockDone n lanes) s = .next (s.setLink n.val y) ∧
      (4 ≤ g → y.state = 4 ∧ y.phase = 4 ∧ y.width = 2) ∧ (2 ≤ g → g < 4 → y.state = 4 ∧ y.phase = 4 ∧ y.width = 1 ∧ y.spare = 7) ∧
      (g < 2 → y.state = 7 ∧ y.fail = 1 ∧ y.width = 0)) ∧
    (∀ (bits : BitVec 2048) (fec : Nat), x.state = 4 → x.phase = 4 →
      let f := parseFlit bits
      let g := parseNeg f
      let c : Link := { x with fecCorr := satAdd x.fecCorr fec }
      let y : Link := { c with negSeen := true, peerNeg := some g }
      let s1 := s.setLink n.val y
      (f.crcOk = false → exec (.negFlitRx n bits fec) s = .next (s.setLink n.val { c with crcErr := satInc x.crcErr })) ∧
      (f.crcOk = true → f.null = true → f.neg = true →
        ((g.seen = false ∨ x.negSent < 8) → exec (.negFlitRx n bits fec) s = .next s1) ∧
        (g.seen = true → 8 ≤ x.negSent →
          (g.supp.getLsbD 1 = false → exec (.negFlitRx n bits fec) s = .next (s1.setLink n.val { y.down 7 0 2 now with peer := g.node.toNat })) ∧
          (g.supp.getLsbD 1 = true → g.node = s.lnk.node →
            exec (.negFlitRx n bits fec) s = .next (s1.setLink n.val { y.down 7 0 3 now with peer := g.node.toNat })) ∧
          (g.supp.getLsbD 1 = true → g.node ≠ s.lnk.node → exec (.negFlitRx n bits fec) s = .next (s1.linkActive n.val g))))) ∧
    (1 ≤ x.phase → x.state ≠ 5 → x.trainFrom + 2000000 ≤ now → exec (.linkTrainTimeout n) s = .next (s.setLink n.val (x.down 7 0 4 now))) ∧
    (s.linkUp n.val = true → x.en = true →
      (x.state = 5 → exec (.linkRetrain n) s = .next (s.toRetrain n.val)) ∧
      (x.state = 7 → exec (.linkRetrain n) s = .next (s.setLink n.val (training x)))) ∧
    (∀ lane : Fin 5, x.state = 5 → x.lanes.getLsbD lane.val = true →
      (x.spare < 5 →
        let swap (l : BitVec 3) : State := (s.setLink n.val { x with
          lane := l, lanes := setBit (setBit x.lanes lane.val false) x.spare true, spare := 7, swaps := satInc x.swaps }).sendFlits n.val [(x.txSeq,
            Flit.encode { Flit.plain x.txSeq (x.rxSeq - 1) with null := true, swLane := BitVec.ofNat 3 lane.val, swap := true })]
        exec (.laneRetire n lane) s = .next (swap x.lane) ∧
        exec (.spareNow n (BitVec.ofNat 3 lane.val)) s = .next (swap (BitVec.ofNat 3 lane.val))) ∧
      (5 ≤ x.spare → exec (.laneRetire n lane) s = .next (s.toRetrain n.val))) ∧
    (x.state = 5 → exec (.spareLaneLosesLock n) s = .next (s.setLink n.val { x with spare := 7 }))

/-- R428, R430 and R436 to R443 (FLIT_RX, NULL_FLIT_TX, LINK_LEAVE_ACTIVE, HELD_PACKET_TIMEOUT, RESENT_WINDOW_EXPIRE): a good flit in sequence is
accepted, a bad one or one out of sequence asks for a replay, and a link that leaves ACTIVE keeps what is not acknowledged. -/
def Obligations.LinksCarryFlitsAndLeaveActive : Prop :=
  ∀ (s : State) (n : Fin 24),
    let x := s.link n.val
    let now := s.time.toNat
    (∀ (bits : BitVec 2048) (fec : Nat), x.state = 5 → x.pert = 0 →
      let f := parseFlit bits
      let y : Link := { x with pertCount := if f.null then x.pertCount else x.pertCount + 1, fecCorr := satAdd x.fecCorr fec }
      let z : Link := (y.acked f.ack).credit f.cvc f.cred.toNat
      (f.crcOk = false → exec (.flitRx n ⟨bits, fec⟩) s = .next ((s.setLink n.val { y with crcErr := satInc y.crcErr }).nakOnce n.val true)) ∧
      (f.crcOk = true → f.null = false → f.nak = false → f.swap = false → x.txq = [] → s.lnk.wait = [] →
        (f.seq = x.rxSeq → exec (.flitRx n ⟨bits, fec⟩) s = .next (s.setLink n.val { z with rxSeq := x.rxSeq + 1, nakSent := false })) ∧
        (f.seq ≠ x.rxSeq → exec (.flitRx n ⟨bits, fec⟩) s = .next ((s.setLink n.val z).nakOnce n.val true)))) ∧
    (∀ a b c, x.state = 5 → x.freed = [a, b, c] → 0 < a → a ≤ 4095 → x.txq = [] → s.lnk.wait = [] →
      let f : Flit := { Flit.plain x.txSeq (x.rxSeq - 1) with null := true, cred := BitVec.ofNat 12 a }
      exec (.nullFlitTx n) s =
        .next ((s.setLink n.val { x with nullGap := 0, freed := [0, b, c] }).sendFlits n.val [(x.txSeq, Flit.encode f)])) ∧
    (let sent := if x.negSeen then x.negSent + 1 else x.negSent
     let f : Flit := { Flit.plain 0 0xFFF with null := true, neg := true, slots := negBytes (s.ownNeg n.val) }
     x.state = 4 → x.phase = 4 → (∀ g, x.peerNeg = some g → g.seen = false ∨ sent < 8) →
      exec (.nullFlitTx n) s = .next ((s.setLink n.val { x with negSent := sent }).sendFlits n.val [(0, Flit.encode f)])) ∧
    (x.state = 5 →
      exec (.linkLeaveActive n .retrain) s = .next (s.toRetrain n.val) ∧
      exec (.linkLeaveActive n .fenced) s = .next (s.fence (unitId 5 n.val) false) ∧
      exec (.linkLeaveActive n .disabled) s = .next (s.disableLink n.val) ∧
      (s.otherLink n.val x.peer = none → x.txq = [] → s.lnk.wait = [] →
        exec (.linkLeaveActive n .failed) s = .next (s.setLink n.val { x.down 7 0 0 now with
          leftSeq := some (x.rxSeq - 1), leftAt := now, held := x.buffer.map fun e => Packet.again e.2.1 n.val e.1, heldAt := now }))) ∧
    (x.held ≠ [] → x.heldAt + 10000000 ≤ now →
      exec (.heldPacketTimeout n) s = .next ((s.setLink n.val { x with held := [], fail := 5 }).lostPackets x.held)) ∧
    (∀ k, x.leftSeq = some k → x.leftAt + 100000 ≤ now → exec (.resentWindowExpire n) s = .next (s.setLink n.val { x with leftSeq := none }))

/-- R432, R439, R440, R442 and R445 to R449 (WRITE_PKT_RX, SIGNAL_PKT_RX, ACK_PKT_RX, REFUSE_PKT_RX, COLL_PKT_RX): a packet that arrives on an
ACTIVE link frees its slots; one that was accepted before is dropped, one for another node goes on, one for this module is performed or refused. -/
def Obligations.PacketsThatArriveArePerformed : Prop :=
  ∀ (s : State) (n : Fin 24) (p : Packet),
    let s1 := s.freeSlots n.val (Packet.vc p) (Packet.slots p)
    (s.link n.val).state = 5 →
    (s1.accepted p = true →
      (p.type = 1 → exec (.writePktRx n p) s = .next s1) ∧ (p.type = 2 → exec (.signalPktRx n p) s = .next s1) ∧
      (p.type = 3 → exec (.ackPktRx n p) s = .next s1) ∧ (p.type = 4 → exec (.refusePktRx n p) s = .next s1)) ∧
    (s1.accepted p = false → p.dst ≠ s.lnk.node → p.hops.toNat + 1 ≠ 7 →
      let t := s1.sendPacket { p with hops := p.hops + 1, resent := false }
      (p.type = 1 → exec (.writePktRx n p) s = .next t) ∧ (p.type = 2 → exec (.signalPktRx n p) s = .next t) ∧
      (p.type = 3 → exec (.ackPktRx n p) s = .next t) ∧ (p.type = 4 → exec (.refusePktRx n p) s = .next t)) ∧
    (s1.accepted p = false → p.dst = s.lnk.node →
      (p.type = 1 →
        let place := decodeAddr p.addr.toNat
        (∀ r o, s1.writeOk p = true → place = some (.region r o) → exec (.writePktRx n p) s = .next
          (let t := s1.performPieces [(p.addr.toNat, p.data, 0xFF)] fun _ => false
           t.sendPacket (t.reply 3 p.src.toNat p.tag.toNat 0))) ∧
        (∀ t o, s1.writeOk p = true → place = some (.spad t o) →
          let x := s1.tile t
          let msgs := (granulePieces p.addr.toNat p.data).map fun g =>
            ({ addr := g.1 % 2 ^ 23, bs := g.2, mask := 0xFF, poison := false, acid := if p.ac then some p.acid.toNat else none
               tile := peerSender, effId := p.src.toNat * 2 ^ 20 + p.tag.toNat } : InMsg)
          exec (.writePktRx n p) s = .next ((s1.setTile t { x with inbox := x.inbox ++ msgs }).wakeTile t)) ∧
        (∀ a, s1.writeOk p = true → place = some (.stack a) → exec (.writePktRx n p) s =
          .next ((granulePieces p.addr.toNat p.data).foldl (fun acc g =>
            match acc.resolve (g.1 % 2 ^ 52) with
            | some q => acc.sendAccess q (.write g.2 0xFF false) (.peer p.src.toNat p.tag.toNat)
            | none => acc) s1)) ∧
        (s1.writeOk p = false → exec (.writePktRx n p) s = .next (s1.refuseInbound p))) ∧
      (p.type = 2 → s1.allowed p.src.toNat = true → p.ac = false → exec (.signalPktRx n p) s = .next
        (s1.sendSignal (.peer p.src.toNat p.tag) (partyId 5 p.src.toNat) (fld (byteField p.data 10 1) 0 2) (byteField p.data 8 2)
          (sext 64 (byteField p.data 0 8)) 0)) ∧
      (p.type = 2 → s1.allowed p.src.toNat = false → exec (.signalPktRx n p) s = .next (s1.refuseInbound p)) ∧
      (p.type = 3 → exec (.ackPktRx n p) s = .next (s1.remoteDone p.tag.toNat)) ∧
      (∀ r, p.type = 4 → 2 ≤ p.code.toNat → p.code.toNat ≤ 4 → oget s.lnk.remote p.tag.toNat = some r →
        let s2 := { s1 with lnk := { s1.lnk with outbound := satInc s1.lnk.outbound } }
        let t := s2.tile r.1
        exec (.refusePktRx n p) s = .next ((s2.setTile r.1
          (t.refuse (0x50 + p.code.toNat - 2) (t.originOf r.2.1) r.2.2)).remoteDone p.tag.toNat))) ∧
    (p.type = 5 → s.accepted p = false → p.dst = s.lnk.node → exec (.collPktRx n p) s = .next (s.takeColl n.val p))

/-- R451, R452, R454, R456 and R457 (ALLREDUCE, REDUCESCATTER, ALLGATHER, BROADCAST, BND_CMD_COMPLETE): an idle bandstand takes its next command;
one that fails a check is refused with its code; in a group of one member the result is the member's own data, and the completion writes it. -/
def Obligations.CollectivesStartAndComplete : Prop :=
  ∀ (s : State) (d : Fin 2) (tile : Nat) (item : BitVec 2048) (rest : List (Nat × BitVec 2048)),
    let b := s.band d.val
    let c := bndCmd item
    let row : Nat → Instr := fun op => if op = 1 then .allreduce d else if op = 2 then .reducescatter d else if op = 3 then .allgather d else .broadcast d
    b.q = (tile, item) :: rest → b.running = none → s.unitUp (unitId 7 d.val) = true →
    (∀ op code, 1 ≤ op → op ≤ 4 → s.bndError d.val c = some code → exec (row op) s = .next (s.bndFail d.val c.tag code)) ∧
    (s.bndError d.val c = none → b.members c.group = 1 → b.rank c.group = 0 →
      let src := s.fetchBytes c.src c.srcBytes
      let run : BndRun := { tile := tile, item := item, two := src.1.twoRings d.val c, own := src.2.1, result := src.2.1, fwd := 0, rev := 0
                            sentFirst := false, poison := src.2.2 }
      let t := (src.1.setBand d.val { src.1.band d.val with q := rest, running := some run, tag := c.tag }).cmdStart (unitId 7 d.val) c.tag.toNat
      exec (row c.op) s = .next t ∧
      (∀ t', (t'.band d.val).running = some run → (t'.band d.val).grp = b.grp → t'.unitUp (unitId 7 d.val) = true →
        c.sig = false → c.ac = false →
        let p := t'.performPieces [(c.dst, run.result, 0xFF)] fun _ => run.poison
        exec (.bndCmdComplete d) t' = .next ((p.setBand d.val { p.band d.val with
          running := none, commands := satInc (t'.band d.val).commands }).cmdEnd (unitId 7 d.val) c.tag.toNat)))

/-- R454: in each step of a ring a member receives the chunk that its neighbour has just formed or received, so that every chunk travels round
the ring, and it receives no chunk twice in the steps of one phase. -/
def Obligations.RingStepsHandEveryChunkOn : Prop :=
  ∀ (k : Ring), 2 ≤ k.p → k.r < k.p → 1 ≤ k.c.op → k.c.op ≤ 3 →
    let succ : Ring := { k with r := (k.r + 1) % k.p }
    let pred : Ring := { k with r := (k.r + k.p - 1) % k.p }
    succ.chunkIn true 0 = k.chunkFirst true ∧ pred.chunkIn false 0 = k.chunkFirst false ∧
    (∀ step, step + 1 < k.steps → succ.chunkIn true (step + 1) = k.chunkIn true step ∧ pred.chunkIn false (step + 1) = k.chunkIn false step) ∧
    (∀ step, step < k.steps → k.chunkIn true step < k.p ∧ k.chunkIn false step < k.p) ∧
    (∀ i j, i < k.p - 1 → j < k.p - 1 → k.chunkIn true i = k.chunkIn true j → i = j)

/-- R471 to R476, R484 and R488 (APERTURE_READ, APERTURE_WRITE, ATS_INVALIDATE, ATS_TRANSLATION_COMPLETION, HOST_READ_COMPLETION,
HOST_READ_TIMEOUT): an access to a populated place of the aperture becomes stack traffic, one elsewhere is recorded; translations and host reads
complete what waits for them. -/
def Obligations.ApertureTranslationsAndHostReads : Prop :=
  ∀ (s : State) (f : Nat),
    (∀ off n a, (s.fn f).enabled = true → 1 ≤ n → off % 64 + n ≤ 64 →
      let zeros : List Byte := List.replicate n 0
      (s.sapByte f off = some a → exec (.apertureRead f off n) s = .next (s.sendAccess a (.read n) (.host f))) ∧
      (s.sapByte f off = none → exec (.apertureRead f off n) s = .next ((s.send (.aperture f zeros [])).hostError f 1 0 (detailAddr off) false)) ∧
      (∀ bs : List Byte, bs.length = n →
        ((s.fn f).sapRonly = false → s.sapByte f off = some a →
          exec (.apertureWrite f off bs false) s = .next (s.sendAccess a (.write bs 0xFF false) (.host f))) ∧
        ((s.fn f).sapRonly = true → exec (.apertureWrite f off bs false) s = .next (s.hostError f 1 0 (detailAddr off) false)) ∧
        ((s.fn f).sapRonly = false → s.sapByte f off = none →
          exec (.apertureWrite f off bs false) s = .next (s.hostError f 1 0 (detailAddr off) false)))) ∧
    (∀ (addr : BitVec 64) size, s.hostReqs = [] → s.atsInval = [] →
      exec (.atsInvalidate f addr size) s = .next (({ s with atsCache := s.atsCache.filter fun e =>
        !(decide (e.1 = f) && decide (e.2.1 < addr.toNat + size) && decide (addr.toNat < e.2.1 + e.2.2.1)) }).send (.atsDone f addr))) ∧
    (∀ (addr g : BitVec 64) w r tl id a b, s.atsWaits = [w] → w.fn = f → w.addr / 4096 = addr.toNat / 4096 → w.write = false → w.req = some r →
      r.src = .load tl id a b → s.atsCache = [] →
      exec (.atsTranslationCompletion f addr (some g) false) s = .next { s with
        atsCache := [(f, addr.toNat / 4096 * 4096, 4096, false)], atsWaits := [], hostReqs := s.hostReqs ++ [r] } ∧
      exec (.atsTranslationCompletion f addr none false) s = .next (let u : State := { s with atsWaits := [] }
        if u.forgotten r.src then u else u.refuseHost f w.addr 4 (u.asker r.src))) ∧
    (∀ r bs, s.hostReqs = [r] → s.atsInval = [] → bs.length = r.len →
      let t : State := { s with hostReqs := [] }
      let refused (code : Nat) : State := if t.forgotten r.src then t else t.refuseHost r.fn r.addr code (t.asker r.src)
      exec (.hostReadCompletion r.id .success bs false) s = .next (t.deliverHost r bs false).answerInval ∧
      exec (.hostReadCompletion r.id .unsupported [] false) s = .next (refused 1).answerInval ∧
      exec (.hostReadCompletion r.id .abort [] false) s = .next (refused 2).answerInval ∧
      exec (.hostReadTimeout r.id) s = .next (refused 3).answerInval)

/-- R475, R477 to R479 and R492 (HDMA_CMD_ACCEPT, HDMA_CMD_COMPLETE): a host-DMA command is accepted, asks the stack controllers for its
accesses, transfers its bytes, and completes or stops at a refused host address, with the bytes before it transferred. R360, R361, R481 to R483
(VF_FLR, FUNCTION_ENABLE, PF_FLR): a virtual function is reset to its reset values but for what the physical function holds, and enabled again by
its own command; a reset of the physical function ends the job and resets window 0. -/
def Obligations.HostDmaAndFunctionResets : Prop :=
  (∀ (s : State) (n : Fin 8),
      let r := s.region n.val
      (∀ c rest, r.hdmaPort = c :: rest → r.hdmaQ.length < 32 → exec (.hdmaCmdAccept n) s =
        .next ((s.hdmaTurn n.val { r with hdmaPort := rest, hdmaQ := r.hdmaQ ++ [c], hdmaSleep := wakeOf r.hdmaSleep }).landed c.tile c.effId)) ∧
      (∀ c rest data ep, r.hdmaQ = c :: rest → r.hdmaSleep = .awake → s.unitUp (unitId 3 n.val) = true →
        let it := toBytes 256 c.item.toNat
        let haddr := byteField it 0 8
        let laddr := byteField it 8 7
        let len := byteField it 0x10 4
        let out := (byteField it 0x14 1).testBit 0
        let f := s.job.owner
        (len = 0 → exec (.hdmaCmdComplete n data ep) s = .next (s.hdmaDone n.val c [])) ∧
        let gs := granulesOf laddr len
        let pages := pagePieces haddr (List.replicate len 0)
        (len ≠ 0 → r.hdmaAsked = false → spaceOf laddr = 0 →
          exec (.hdmaCmdComplete n data ep) s = .next ((s.setRegion n.val { r with hdmaAsked := true }).askStacks (unitId 3 n.val) gs)) ∧
        (len ≠ 0 → (r.hdmaAsked = true ∨ spaceOf laddr ≠ 0) → s.stacksAnswered (unitId 3 n.val) = true → s.stacksOpen gs = true →
          (s.fnActive f = false → exec (.hdmaCmdComplete n data ep) s = .next (s.hdmaStop n.val haddr)) ∧
          (s.fnActive f = true → r.hdmaDenied = none → (∀ p ∈ pages, (s.fn f).ats = true → s.translated f p.1 out = true) →
            (out = false → s.portOpen laddr = true →
              let bs := data.take len
              let s1 := s.performPieces [(laddr, bs, 0xFF)] fun _ => false
              (len ≤ data.length → exec (.hdmaCmdComplete n data false) s = .next (s1.hdmaDone n.val c [(laddr, bs, 0xFF)])) ∧
              (data.length < len → exec (.hdmaCmdComplete n data false) s = .next (s1.hdmaStop n.val (haddr + data.length)))) ∧
            (out = true →
              let g := s.fetchGranules gs
              exec (.hdmaCmdComplete n data ep) s = .next (((granulePieces laddr (memRead g.2.1 laddr len)).foldl (fun acc p =>
                acc.hostWrite f (haddr + (p.1 - laddr)) p.2 (g.2.2.contains (p.1 / 64)) none) g.1).hdmaDone n.val c []))) ∧
          (∀ a, s.fnActive f = true → r.hdmaDenied = some a → haddr ≤ a → a < haddr + len → out = false → s.portOpen laddr = true →
            (∀ p ∈ pages, p.1 < a → (s.fn f).ats = true → s.translated f p.1 out = true) → a - haddr ≤ data.length →
            let bs := data.take (a - haddr)
            exec (.hdmaCmdComplete n data false) s = .next ((s.performPieces [(laddr, bs, 0xFF)] fun _ => false).hdmaStop n.val a))))) ∧
  (∀ (s : State) (f : Nat), 1 ≤ f → f ≤ 4096 →
      let x := s.fn f
      (x.ntfCount ≠ 0 → exec (.functionEnable f) s = .next (s.setFn f { x with enabled := true })) ∧
      (s.jobLive = false →
        let s1 := s.stopFunction f
        let y := s1.fn f
        let z : Fn := { Fn.zero f with
          busMaster := y.busMaster, ats := y.ats, disabledPending := y.disabledPending, quotaA := y.quotaA, quotaB := y.quotaB
          quotaPendA := y.quotaPendA, quotaPendB := y.quotaPendB, sapValid := y.sapValid, sapRonly := y.sapRonly, sapLog2 := y.sapLog2
          sapBase := y.sapBase }
        exec (.vfFlr f) s = .next (s1.setFn f z)) ∧
      (s.jobLive = true → s.job.owner = f → s.servingRuns = false → s.job.tearing = none →
        ∃ t, exec (.vfFlr f) s = .next t ∧ t.job.tearing = some 3) ∧
      (∃ t, exec .pfFlr s = .next t ∧ (s.job.tearing = none → s.jobLive = true → t.job.state = 5 ∧ t.job.cause = 3) ∧ t.job.imgAddr = 0 ∧ t.job.jobVec = 0 ∧
        t.power.cap = 0 ∧ t.power.capWin = 0x64 ∧ t.lodge.hostevt = 0 ∧ t.lodge.traceBase = 0 ∧ t.serving.orgBase = 0))

/-- R497 to R500 (HEARTBEAT, HEARTBEAT_TIMEOUT, FAILOVER_CLAIM, STEWARD_SELFTEST_DONE): a steward whose heartbeat has not advanced for 3 ms is
claimed, fenced and tested; its claimant takes over, and it returns without a duty or is retired. -/
def Obligations.StewardsBeatFailOverAndReturn : Prop :=
  ∀ (s : State) (k v : Fin 4),
    let x := s.steward k.val
    let granted (t : State) : Prop := t.lodge.rr = true ∧ t.lodge.claimVictim.toNat = v.val ∧ t.lodge.claimant.toNat = k.val ∧
      t.lodge.activatedAt = none ∧ t.lodge.stwEn.getLsbD v.val = false
    (∀ count lost, s.stwOn k.val = true → s.lodge.rr = false → exec (.heartbeat k ⟨count, lost⟩) s =
      .next (s.setSteward k.val { x with hb := count, lastTime := if count = x.hb then x.lastTime else s.time.truncate 32 })) ∧
    (∀ count lost, s.stwOn k.val = true → s.lodge.rr = true → s.lodge.claimant.toNat = k.val → s.stwOn s.lodge.claimVictim.toNat = false →
      ∃ t, exec (.heartbeat k ⟨count, lost⟩) s = .next t ∧ t.lodge.rr = false) ∧
    (s.stwOn k.val = true → s.stwOn v.val = true →
      (∃ t, exec (.failoverClaim k v) s = .next t ∧ granted t) ∧
      (300000 ≤ (s.time.truncate 32 - (s.steward v.val).lastTime : BitVec 32).toNat → ∃ t, exec (.heartbeatTimeout k v) s = .next t ∧ granted t)) ∧
    (x.inReset = true → (s.unit (unitId 8 k.val)).allowed = 4 →
      (x.twice = false → ∃ t, exec (.stewardSelftestDone k true) s = .next t ∧ t.lodge.stwEn.getLsbD k.val = true ∧
        (t.unit (unitId 8 k.val)).allowed = 2) ∧
      (∃ t, exec (.stewardSelftestDone k false) s = .next t ∧ (t.unit (unitId 8 k.val)).allowed = 5 ∧ t.lodge.activatedAt = none))

/-- R501 to R506, R518 to R521 and R25 to R29 (INT_FIRE, INT_OFFER, INT_CLAIM, INT_EOI, STATUS_EVENT, EVQ_POP, FENCE_READBACK): a source that
fires is counted, offered to a steward, claimed in the order of priority and ended; a status event enters the queue and is read from it; a fenced
unit comes back. -/
def Obligations.InterruptsStatusEventsAndReadBack : Prop :=
  ∀ (s : State),
    (∀ (n : BitVec 11),
      let x := s.intSrc n.toNat
      exec (.intFire n .lodge) s = .next (s.fireInt n.toNat) ∧
      (x.count ≠ 255 → (s.fireInt n.toNat).intSrc n.toNat = { x with count := x.count + 1 }) ∧
      (x.count = 255 → (s.fireInt n.toNat).intSrc n.toNat = { x with sat := true }) ∧
      exec (.intFire n .tile) s = .next (if x.tileOk then s.fireInt n.toNat else s.dropBell) ∧
      exec (.intFire n .host) s = .next (if x.hostOk then s.fireInt n.toNat else s.dropBell) ∧
      (∀ dt, x.offerable = true → 2 ≤ dt → s.lodge.rr = false → s.stwOn x.target.toNat = true →
        let s1 := s.setIntSrc n.toNat { x with offered := true, owner := BitVec.ofNat 2 x.target.toNat }
        exec (.intOffer n dt) s = .next { s1 with lodge := { s1.lodge with rrLast := x.target.toNat } }) ∧
      (∀ k : Fin 4, s.stwOn k.val = true → x.inSvc = true → x.owner.toNat = k.val →
        ∀ p rest, (s.steward k.val).stack = p :: rest → exec (.intEoi k n) s =
          .next ((s.setSteward k.val { s.steward k.val with running := p.1, stack := rest }).setIntSrc n.toNat { x with inSvc := false })) ∧
      (∀ k : Fin 4, s.stwOn k.val = true → x.inSvc = false → exec (.intEoi k n) s =
        .next (s.setSteward k.val { s.steward k.val with eoiErr := satInc (s.steward k.val).eoiErr }))) ∧
    (∀ k : Fin 4, s.stwOn k.val = true →
      (s.claimable k.val = none → exec (.intClaim k) s = .next (s.send (.claim k.val 0))) ∧
      (∀ n x, s.claimable k.val = some (n, x) →
        (n, x) ∈ s.lodge.ints ∧ x.prio.toNat < (s.steward k.val).running ∧
        (∀ e ∈ s.lodge.ints, e.2.offered = true → e.2.en = true → e.2.inSvc = false → e.2.owner.toNat = k.val → e.2.count ≠ 0 →
          e.2.prio.toNat < (s.steward k.val).running → x.prio.toNat ≤ e.2.prio.toNat) ∧
        (let w := s.steward k.val
         let s1 := s.setSteward k.val { w with running := x.prio.toNat, stack := (w.running, n) :: w.stack }
         exec (.intClaim k) s = .next ((s1.setIntSrc n { x with count := 0, inSvc := true, offered := false }).send
           (.claim k.val (BitVec.ofNat 64 (n + x.prio.toNat * 2 ^ 11 + 2 ^ 15 + x.count.toNat * 2 ^ 16)))))) ∧
      (∀ e rest, s.lodge.evq = e :: rest → exec (.evqPop k) s = .next (({ s with lodge := { s.lodge with evq := rest } }).send
        (.evq (BitVec.ofNat 64 (e.1.toNat + e.2.1.toNat * 2 ^ 16 + 2 ^ 20 + e.2.2.toNat * 2 ^ 32))))) ∧
      (s.lodge.evq = [] → exec (.evqPop k) s = .next (s.send (.evq 0)))) ∧
    (∀ (u : BitVec 16), isUnit u.toNat = true →
      (∀ rep kind, let t := s.report u.toNat rep.toNat kind.toNat
        (t.isMismatch u.toNat = false → exec (.statusEvent u rep kind) s = .next t) ∧
        (t.isMismatch u.toNat = true → exec (.statusEvent u rep kind) s = .next (t.fence u.toNat true)) ∧
        (s.lodge.evq.length < 1024 → t.lodge.evq = s.lodge.evq ++ [(BitVec.ofNat 16 u.toNat, BitVec.ofNat 4 kind.toNat, s.time.truncate 32)]) ∧
        (1024 ≤ s.lodge.evq.length → t.lodge.evq = s.lodge.evq ∧ t.lodge.evLost = satInc s.lodge.evLost)) ∧
      ((s.unit u.toNat).allowed = 4 →
        let i := u.toNat % 4096
        let cls := u.toNat / 4096
        let d := (if cls = 2 then s.stopCopy i else if cls = 3 then s.stopHdma i else s).dutyBoundary 3
        let on := d.allow u.toNat 2
        let gone := d.allow u.toNat 5
        (cls ≠ 3 → cls ≠ 5 → cls ≠ 8 → exec (.fenceReadback u true) s = .next on) ∧
        (cls = 3 → exec (.fenceReadback u true) s = .next (on.hdmaTurn i (on.region i))) ∧
        (cls = 5 → exec (.fenceReadback u true) s = .next (on.retrainLink i)) ∧
        (cls ≠ 0 → cls ≠ 4 → cls ≠ 8 → exec (.fenceReadback u false) s = .next gone) ∧
        (cls = 4 → exec (.fenceReadback u false) s = .next (gone.unitLost u.toNat)) ∧
        (cls = 0 → (gone.unit u.toNat).logical < 96 →
          (((gone.spareOf (i / 13)).isNone = true ∨ gone.spareClaimed u.toNat = true) →
            exec (.fenceReadback u false) s = .next (gone.unitLost u.toNat)) ∧
          ((gone.spareOf (i / 13)).isSome = true → gone.spareClaimed u.toNat = false → exec (.fenceReadback u false) s = .next gone)) ∧
        (∀ k : Fin 4, cls = 8 → i = k.val → ∀ passed, exec (.fenceReadback u passed) s = exec (.stewardSelftestDone k passed) s)))

/-- R507 to R511 and R533 (SET_ENDPOINT_ID, PROFILE_OFFER, LIVE_DATA, LIVE_STATUS, PLDM_UNSUPPORTED_CMD, GET_SENSOR_READING,
SET_POWER_CAP_EFFECTER): the management endpoints answer as the profile says. -/
def Obligations.ManagementEndpointsAnswer : Prop :=
  ∀ (s : State), s.answers = true →
    (∀ eid,
      (let h := s.heard .smbus
       exec (.setEndpointId .smbus eid) s = .next { h with lodge := { h.lodge with eidSmbus := eid } }) ∧
      (let h := s.heard .vdm
       exec (.setEndpointId .vdm eid) s = .next { h with lodge := { h.lodge with eidVdm := eid } })) ∧
    (∀ m inst,
      let h := s.heard (managerPath m)
      (∀ offer : BitVec 16, offer.getLsbD 1 = true →
        let s1 := h.setManager m { s.manager m with version := 1 }
        exec (.profileOffer m inst offer) s = .next (({ s1 with lodge := { s1.lodge with ifActive2 := 1 } }).send (.mgmt m [0x81, inst, 0, 1]))) ∧
      (∀ offer : BitVec 16, offer.getLsbD 1 = false → exec (.profileOffer m inst offer) s =
        .next ((h.setManager m { s.manager m with version := 0 }).send (.mgmt m [0x81, inst, 0, 0]))) ∧
      ((s.manager m).version = 0 → (∀ off data, exec (.liveData m inst off data) s = .next (h.send (.mgmt m [0x82, inst, 3]))) ∧
        exec (.liveStatus m inst) s = .next (h.send (.mgmt m [0x84, inst, 3]))) ∧
      ((s.manager m).version ≠ 0 →
        (∀ (off : BitVec 32) (data : List Byte), 1 ≤ data.length → data.length ≤ 1024 → off.toNat + data.length ≤ 65536 →
          exec (.liveData m inst off data) s = .next ((h.setManager m { s.manager m with
            buffer := memWrite (s.manager m).buffer off.toNat data }).send (.mgmt m [0x82, inst, 0]))) ∧
        (∀ (off : BitVec 32) (data : List Byte), 65536 < off.toNat + data.length →
          exec (.liveData m inst off data) s = .next (h.send (.mgmt m [0x82, inst, 1]))) ∧
        exec (.liveStatus m inst) s =
          .next (h.send (.mgmt m [0x84, inst, 0, s.lodge.liveResult, if s.lodge.liveRun.isSome then 1 else 0])))) ∧
    (∀ b, b ≠ Transport.doe →
      (∀ type cmd, exec (.pldmUnsupportedCmd b type cmd) s = .next ((s.heard b).send (.pldm b [type, cmd, 5]))) ∧
      (∀ id : BitVec 16, 1 ≤ id.toNat → id.toNat ≤ 15 → exec (.getSensorReading b id) s =
        .next ((s.heard b).send (.pldm b ([2, 0x11, 0] ++ toBytes 4 (ucode 32 (mget 0 s.lodge.sensors id.toNat)))))) ∧
      (∀ id : BitVec 16, (id.toNat = 0 ∨ 15 < id.toNat) → exec (.getSensorReading b id) s = .next ((s.heard b).send (.pldm b [2, 0x11, 0x80])))) ∧
    (∀ value : BitVec 16,
      exec (.setPowerCapEffecter value) s = .next { s with power := { s.power with cap := BitVec.ofNat 12 (min value.toNat 4095) } })

/-- R510, R512 to R514, R523 and R595 (LIVE_CURVE, LIVE_TIMING, LIVE_THERMCOEF, LIVE_RETIRE, LIVE_PERTURB): a live-service command of the host is
not accepted while another runs; else it is checked, and carried out at once, at its quiesce point, at the refresh boundaries or at the next
round. -/
def Obligations.LiveServiceCommandsRun : Prop :=
  ∀ (s : State) (payload : List Byte),
    (s.lodge.liveRun.isSome = true →
      let busy : State := { s with lodge := { s.lodge with liveResult := 1 } }
      exec (.liveCurve .host payload true) s = .next busy ∧ exec (.liveTiming .host payload true) s = .next busy ∧
      exec (.liveThermcoef .host payload true) s = .next busy ∧ exec (.livePerturb .host payload true) s = .next busy ∧
      (∀ u, exec (.liveRetire .host u) s = .next busy)) ∧
    (s.lodge.liveRun = none →
      let begun : Nat → State := fun op => (s.fireInt 0x33).liveBegin op 0 payload
      (exec (.liveCurve .host payload false) s = .next (((begun 1).readRefused 0).liveEnd 3)) ∧
      (curvesOk payload = true → s.jobLive = true → exec (.liveCurve .host payload true) s = .next (begun 1)) ∧
      (curvesOk payload = true → s.jobLive = false → exec (.liveCurve .host payload true) s = .next ((begun 1).liveEnd 5)) ∧
      (curvesOk payload = false → exec (.liveCurve .host payload true) s = .next ((begun 1).liveEnd 2)) ∧
      (timingOk payload = false → exec (.liveTiming .host payload true) s = .next ((begun 2).liveEnd 2)) ∧
      (timingOk payload = true → ∃ t, exec (.liveTiming .host payload true) s = .next t ∧ t.lodge.liveRun.isSome = true ∧
        (mwf Stack.zero s.stk = true → ∀ n, n < 8 → (t.stack n).swap = setBit (s.stack n).swap (byteField payload 0 1) true)) ∧
      (coefficientsOk payload = true → exec (.liveThermcoef .host payload true) s =
        .next { begun 3 with power := { s.power with thermal := { s.power.thermal with pending := some payload } } }) ∧
      (coefficientsOk payload = false → exec (.liveThermcoef .host payload true) s = .next ((begun 3).liveEnd 2)) ∧
      (s.lodge.testEn = false → exec (.livePerturb .host payload true) s = .next ((begun 5).liveEnd 2)) ∧
      (∀ t, s.lodge.testEn = true → payload.length % 16 = 0 → 16 ≤ payload.length → payload.length ≤ 4096 →
        (pertRecords payload).foldl (fun (acc : Option State) r => acc.bind fun t => t.pertWrite r.1 r.2) (some (begun 5)) = some t →
        exec (.livePerturb .host payload true) s = .next (t.liveEnd 0)) ∧
      (∀ u : BitVec 16,
        let b := (s.fireInt 0x33).liveBegin 4 u []
        (isUnit u.toNat = false → exec (.liveRetire .host u) s = .next (b.liveEnd 6)) ∧
        (isUnit u.toNat = true → (s.unit u.toNat).allowed ≠ 5 → u.toNat / 4096 = 5 →
          exec (.liveRetire .host u) s = .next (((b.disableLink (u.toNat % 4096)).allow u.toNat 5).liveEnd 0)) ∧
        (isUnit u.toNat = true → (s.unit u.toNat).allowed ≠ 5 → u.toNat / 4096 = 1 → s.servingRuns = false →
          exec (.liveRetire .host u) s = .next ((b.allow u.toNat 3).retireEngine u.toNat)) ∧
        (isUnit u.toNat = true → (s.unit u.toNat).allowed = 5 → (u.toNat / 4096 = 0 ∨ u.toNat / 4096 = 1) →
          exec (.liveRetire .host u) s = .next (b.liveEnd 0))))

/-- R508, R515, R563 to R571 (PLDM_FW_UPDATE, ACTIVATE_FIRMWARE, FW_COMMIT, CHALLENGE, GET_MEASUREMENTS, RESPOND_IF_READY, SPDM_SIGNATURE_DONE,
SET_CERTIFICATE, GET_CERTIFICATE): the images of a manager with a version of the profile are verified and written to the slot not in use,
activated, and committed once they have proved themselves; one signature at a time is made and fetched. -/
def Obligations.FirmwareIsUpdatedAndAttested : Prop :=
  ∀ (s : State),
    (∀ (m : Nat) (i : FwImage),
      let path := managerPath m
      let h := s.heard path
      let comp := i.component.toNat
      let stored := (h.storeImage comp (1 - s.slotInUse comp) i).verifyComplete path 0
      s.answers = true → s.lodge.phase ≠ 8 →
        ((s.manager m).version = 0 → exec (.pldmFwUpdate ⟨m, i⟩ true) s = .next (h.pldmAnswer path 5 0x10 1 [])) ∧
        ((s.manager m).version ≠ 0 →
          (1 ≤ comp → comp ≤ 3 → s.fwOk comp i = false → exec (.pldmFwUpdate ⟨m, i⟩ true) s = .next ((h.verifyComplete path 1).hostEvent 5)) ∧
          (comp = 1 → s.fwOk 1 i = true → exec (.pldmFwUpdate ⟨m, i⟩ true) s = .next stored) ∧
          ((comp = 2 ∨ comp = 3) → s.fwOk comp i = true → exec (.pldmFwUpdate ⟨m, i⟩ true) s =
            .next ((stored.preferSlot comp (1 - s.slotInUse comp)).hostEvent 5)))) ∧
    (∀ m i, s.answers = true → (s.manager m).version ≠ 0 → s.fwImage 1 (1 - s.slotInUse 1) = some i → s.lodge.stwEn ≠ 0 →
      s.dutyVerOf (1 - s.slotInUse 1) = s.dutyVerOf (s.slotInUse 1) →
      (∃ t, exec (.activateFirmware ⟨m, [true, true, true, true]⟩) s = .next t ∧ t.lodge.slotFw = (1 - s.slotInUse 1 == 1) ∧
        t.lodge.activatedAt = some s.time.toNat) ∧
      (∃ t, exec (.activateFirmware ⟨m, []⟩) s = .next t ∧ t.lodge.slotFw = s.lodge.slotFw)) ∧
    (∀ (c : BitVec 16) i, s.fwImage c.toNat (s.slotInUse c.toNat) = some i →
      (mwf 0 s.lodge.fuses = true → 1 ≤ c.toNat → c.toNat ≤ 3 → i.commit = true → s.proved c.toNat = true → ∃ t, exec (.fwCommit c) s = .next t ∧
        t.fuse c.toNat = max (s.fuse c.toNat) i.svn.toNat ∧ t.lodge.revoked = s.lodge.revoked ||| i.revoke) ∧
      ((i.commit = false ∨ s.proved c.toNat = false) → exec (.fwCommit c) s = .next s)) ∧
    (∀ tr, s.spdmOn tr = true →
      let h := s.heard tr
      (s.lodge.signing = none → ∃ t, exec (.challenge tr) s = .next t ∧
        t.lodge.signing = some (tr, [0x14, 0x03, 0, 1] ++ Config.sha3 Config.certChain) ∧ t.out = .spdm tr [0x14, 0x7F, 0x42, 0, 22, 0x83, 0, 1] :: h.out) ∧
      (s.lodge.signing.isSome = true → exec (.challenge tr) s = .next (h.send (.spdm tr [0x14, 0x7F, 3, 0]))) ∧
      exec (.getMeasurements tr 0 false) s = .next (h.send (.spdm tr [0x14, 0x60, 0, 7])) ∧
      (∀ i : Byte, 1 ≤ i.toNat → i.toNat ≤ 7 → exec (.getMeasurements tr i false) s = .next (h.send (.spdm tr
        ([0x14, 0x60, i] ++ BitVec.ofNat 8 i.toNat :: (toBytes 2 (s.measurement i.toNat).length ++ s.measurement i.toNat))))) ∧
      (∀ bs, s.lodge.signed = [(tr, bs)] → exec (.respondIfReady tr) s = .next (({ h with lodge := { h.lodge with signed := [] } }).send (.spdm tr bs))) ∧
      exec (.setCertificate tr) s = .next (h.send (.spdm tr [0x14, 0x7F, 7, 0])) ∧
      (∀ off len : BitVec 16,
        let part := (Config.certChain.drop off.toNat).take len.toNat
        exec (.getCertificate tr 0 off len) s = .next (h.send (.spdm tr ([0x14, 0x02, 0, 0] ++ toBytes 2 part.length ++
          toBytes 2 (Config.certChain.length - off.toNat - part.length) ++ part))))) ∧
    (∀ tr bs dt, s.lodge.signing = some (tr, bs) → dt ≤ 300000000 → exec (.spdmSignatureDone dt) s = .next { s with lodge := { s.lodge with
      signing := none, signed := s.lodge.signed ++ [(tr, bs ++ Config.signature bs)] } })

/-- R526, R529, R531, R532 and R544 to R546 (GUARD_SAMPLE, LEVEL_CHANGE_DONE, RAIL_FAULT, ORDERLY_SHUTDOWN, SHUTDOWN_RAILS_OFF, HARDWARE_TRIP,
FLOW_LOST, FLOW_RESTORED, FLOW_LOST_LIMIT, FEED_LOSS): the guard raises its demand, faults begin the shutdown, and the rails go off. -/
def Obligations.PowerGuardFlowAndShutdowns : Prop :=
  ∀ (s : State),
    let p := s.power
    let sound : Prop := p.chFail.contains 0 = false ∧ p.chFail.contains 1 = false
    let begun (t : State) (c : ShutdownCause) : Prop := t.power.shutdown = true ∧ t.power.thermTrip = true ∧
      t.power.sdCause = BitVec.ofNat 8 (causeCode c) ∧ t.lodge.nvSdCause = BitVec.ofNat 8 (causeCode c) ∧ t.power.ctherm = 3 ∧
      (1 ≤ s.job.state → s.job.state ≤ 4 → s.job.tearing = none → t.job.tearing = some 7)
    let off (t : State) : Prop := t.power.railsOn = false ∧ t.power.pwrgd = false ∧ t.tiles = [] ∧ t.regions = [] ∧ t.stk = [] ∧ t.links = [] ∧ t.fns = []
    (∀ mw, p.railsOn = true → sound → 2300000 < mw → p.cguard < 3 → ∃ t, exec (.guardSample mw) s = .next t ∧ t.power.cguard = p.cguard + 1 ∧
      t.power.guardHold = 1000 ∧ t.power.guardCnt = satInc p.guardCnt ∧ t.power.target = max p.ctherm (max p.ccap (p.cguard + 1))) ∧
    (∀ mw, p.railsOn = true → sound → mw ≤ 2300000 → p.cguard = 0 →
      let l := (mw :: p.guardSamples).take 1000
      let avg := l.foldl (· + ·) 0 / l.length
      avg ≤ 2000000 → exec (.guardSample mw) s = .next { s with power := { p with
        guardSamples := l, guardOver := 0, guardLow := if avg < 1900000 then p.guardLow + 1 else 0, guardHold := p.guardHold - 1 } }) ∧
    exec .levelChangeDone s = .next { s with power := { p with clevel := p.target } } ∧
    (p.railsOn = true → p.shutdown = false →
      (∀ c, ∃ t, exec (.orderlyShutdown c) s = .next t ∧ begun t c) ∧
      (∃ t, exec (.railFault .inputLow) s = .next t ∧ begun t .inputVoltage) ∧ (∃ t, exec (.railFault .inputHigh) s = .next t ∧ begun t .inputVoltage) ∧
      (∃ t, exec (.railFault .guardExhausted) s = .next t ∧ begun t .guardExhausted) ∧
      (∀ n, ∃ t, exec (.railFault (.regulator n)) s = .next t ∧ begun t .railFault) ∧
      (p.flowLost = true → ∃ t, exec .flowLostLimit s = .next t ∧ begun t .coolantFlow) ∧
      (∀ feedB good, (good = false ∨ p.feedLost.getLsbD (if feedB then 0 else 1) = true) →
        ∃ t, exec (.feedLoss feedB good) s = .next t ∧ begun t .inputVoltage)) ∧
    (∀ feedB, p.feedLost.getLsbD (if feedB then 0 else 1) = false → exec (.feedLoss feedB true) s =
      .next { s with power := { p with feedLost := setBit p.feedLost (if feedB then 1 else 0) true } }) ∧
    (p.shutdown = true → p.railsOn = true → (s.jobLive = false ∨ p.shutAt + 500000 ≤ s.time.toNat) → ∃ t, exec .shutdownRailsOff s = .next t ∧ off t ∧
      (s.jobLive = true → t.job.state = 5 ∧ t.job.cause = 7)) ∧
    (p.railsOn = true → ∃ t, exec .hardwareTrip s = .next t ∧ off t ∧ t.power.sdCause = 2 ∧ t.lodge.nvSdCause = 2 ∧ t.power.thermTrip = true) ∧
    (p.flowLost = false → ∃ t, exec .flowLost s = .next t ∧ t.power.flowLost = true ∧ 1 ≤ t.power.ctherm ∧
      ∀ k, k < 8 → 1 ≤ mget 0 t.power.slevel k) ∧
    (p.flowLost = true → exec .flowRestored s = .next ({ s with power := { p with flowLost := false } }).throttle)

/-- R494, R496, R516, R534 to R543 (HOUSEKEEPING_ROUND, THERMAL_CALIBRATE): a round takes the samples, runs thermal control while the rails are
on, and beats for the owner of duty 1; it ends with the sensors of the round and with the boundaries of its duties; a calibration corrects only
dies with a healthy diode whose mean error exceeds half a degree. -/
def Obligations.HousekeepingRoundsAndCalibration : Prop :=
  ∀ (s0 : State) (dt : Nat) (samples : List Lane),
    let s := s0.fireInt 0
    let k := s.dutyOwner 1
    (s.stwOn k = false → exec (.housekeepingRound samples dt) s0 = .next s) ∧
    (s.stwOn k = true → s.stwOn (s.dutyOwner 2) = true → s.lodge.liveRun = none →
      let p := { s.power with thermal := s.power.thermal.enforce }
      let p1 := (List.range 96).foldl (fun acc c => acc.sample (decide (s.lodge.rounds = 0)) (s.lodge.rounds + 1) c (samples.getD c 0)) p
      let s1 : State := { s with power := p1, lodge := { s.lodge with rounds := s.lodge.rounds + 1 } }
      let s3 := if p1.railsOn then s1.thermalRound else s1
      (∀ u ∈ allUnits, s3.isMismatch u = false) →
        exec (.housekeepingRound samples dt) s0 = .next ((s3.setSteward k { s3.steward k with
          hb := (s3.steward k).hb + 1, lastTime := s3.time.truncate 32 }).updateBoard.updateSensors.dutyBoundary 1 |>.dutyBoundary 2 |>.dutyBoundary 7)) ∧
    (∀ j : Fin 4, s0.lodge.rounds = 0 ∨ s0.lodge.rounds % 10000 ≠ 0 ∨ s0.dutyOwner 2 ≠ j.val ∨ s0.stwOn j.val = false →
      exec (.thermalCalibrate j) s0 = .next s0) ∧
    (∀ j : Fin 4, s0.lodge.rounds ≠ 0 → s0.lodge.rounds % 10000 = 0 → s0.dutyOwner 2 = j.val → s0.stwOn j.val = true →
      let kept (i : Nat) : BitVec 16 := s0.power.thermal.off.getD i 0
      ∃ l, exec (.thermalCalibrate j) s0 = .next { s0 with power :=
          { s0.power with thermal := { s0.power.thermal with pendOff := some l }, errSum := [], errCount := [] } } ∧
        l.length = 136 ∧ (∀ i, i < 136 → s0.power.meanError (spotDie i) = none → l[i]? = some (kept i)) ∧
        (∀ i e, i < 136 → s0.power.meanError (spotDie i) = some e → 2 * e.natAbs ≤ 2 ^ 30 → l[i]? = some (kept i)))

/-- R554 to R559 and R563 to R566 (POWER_ON, MRST, PERST_ASSERT, PERST_DEASSERT, HOLD_RELEASE, DL_ACTIVE, LODGE_WATCHDOG, BSCAN_EXIT_RESET): a
module reset with its cause runs the start-up to phase 6, or stops it in HOLD or RECOVERY; the link then brings READY. -/
def Obligations.ModuleResetsAndStartUp : Prop :=
  ∀ (s : State) (o : StartupObs),
    exec (.powerOn o) s = .next (s.moduleReset 0 o) ∧
    (∀ ns, 10000 ≤ ns → exec (.mrst ns o) s = .next (s.moduleReset 1 o)) ∧ (∀ ns, ns < 10000 → exec (.mrst ns o) s = .next s) ∧
    (let s1 : State := { s with lodge := { s.lodge with perst := true } }
     (s.lodge.dlSeen = true → exec (.perstAssert o) s = .next (s1.moduleReset 2 o)) ∧ (s.lodge.dlSeen = false → exec (.perstAssert o) s = .next s1)) ∧
    (s.lodge.stwEn = 0 → exec (.lodgeWatchdog o) s = .next (s.moduleReset 3 o)) ∧
    (∀ k : Fin 4, s.stwOn k.val = true → (s.time.truncate 32 - (s.steward k.val).lastTime : BitVec 32).toNat < 1000000 →
      exec (.lodgeWatchdog o) s = .next s) ∧
    (s.lodge.testInForce = true → exec (.bscanExitReset o) s = .next (s.moduleReset 5 o)) ∧
    (s.lodge.testInForce = false → exec (.bscanExitReset o) s = .next { s with lodge := { s.lodge with tap := 1 } }) ∧
    exec .perstDeassert s = .next { s with lodge := { s.lodge with perst := false } } ∧
    (∀ cause,
      let r := s.afterReset cause o
      let t := s.moduleReset cause o
      r.lodge.bootCause = BitVec.ofNat 4 cause ∧ r.lodge.fuses = s.lodge.fuses ∧ r.lodge.fwSlots = s.lodge.fwSlots ∧ r.lodge.nvRetired = s.lodge.nvRetired ∧
      r.tiles = [] ∧ r.job = State.reset.job ∧ r.lodge.phase = State.reset.lodge.phase ∧
      (r.pickSlot 2 o.fslGood = none → t.lodge.phase = 8 ∧ t.lodge.recoveryFsl = true ∧ t.power.railsOn = false) ∧
      (∀ a, r.pickSlot 2 o.fslGood = some a → r.pickSlot 1 o.fwGood = none → t.lodge.phase = 8 ∧ t.lodge.recoveryFsl = false ∧ t.power.railsOn = false) ∧
      (∀ a b c, r.pickSlot 2 o.fslGood = some a → r.pickSlot 1 o.fwGood = some b → r.pickSlot 3 o.cfgGood = some c →
        (mayStart o = true → t.lodge.phase = 6 ∧ t.power.pwrgd = true) ∧ (mayStart o = false → t.lodge.phase = 9 ∧ t.power.railsOn = false))) ∧
    (s.lodge.phase = 9 → mayStart o = true → ∃ t, exec (.holdRelease o) s = .next t ∧ t.lodge.phase = 6 ∧ t.power.pwrgd = true) ∧
    (∀ (speed : BitVec 4) (width : BitVec 5) flit (ms : BitVec 16), s.lodge.phase = 6 → s.lodge.perst = false → s.lostUnits = [] →
      exec (.dlActive speed width flit ms) s = .next { s with
        hstLink := BitVec.ofNat 10 (speed.toNat + width.toNat * 2 ^ 4 + bitAt flit 9)
        lodge := { s.lodge with phase := 7, rr := false, readyMs := ms, readyAt := s.time.toNat, dlSeen := true
                                activatedAt := some s.time.toNat } })

/-- R604 to R609 (SPARE_QUERY, SOFT_REPAIR, ODECC_READ, BU1500_SHIFT, IDCODE, SAMPLE_PRELOAD, EXTEST, EXTEST_PULSE, EXTEST_TRAIN, CLAMP, HIGHZ,
BYPASS, TRACE_MARKER): bring-up commands run only with the test enable and no job; test instructions only in RECOVERY or HOLD; a marker is
counted. -/
def Obligations.BringUpBoundaryScanAndMarkers : Prop :=
  ∀ (s : State),
    let note (t : State) (w : Nat) (err : Bool) (data : Reg64) : State :=
      { t with lodge := { t.lodge with buCmd := BitVec.ofNat 64 (buFields w + bitAt err 62), buData := data } }
    (∀ (n : Fin 8) (die : BitVec 5) (arg : BitVec 64) (count : BitVec 32) (cmd cap : BitVec 64),
      let bank := fld arg.toNat 0 6 * 32 + fld arg.toNat 6 5
      let k := s.stack n.val
      (s.buRefused = true →
        exec (.spareQuery n die arg) s = .next (note s (buWord n.val die.toNat 0xC0 63 false) true arg) ∧
        exec (.softRepair n die arg) s = .next (note s (buWord n.val die.toNat 0xC1 63 true) true arg) ∧
        exec (.odeccRead n die count) s = .next (note s (buWord n.val die.toNat 0xC2 31 false) true s.lodge.buData) ∧
        exec (.bu1500Shift cmd cap) s = .next (note s cmd.toNat true s.lodge.buData)) ∧
      (s.buRefused = false →
        (let d := BitVec.ofNat 64 (4 - mget 0 k.spareUsed bank + 2 * 2 ^ 3)
         exec (.spareQuery n die arg) s = .next ((note s (buWord n.val die.toNat 0xC0 63 false) false d).send (.wrapper d))) ∧
        (4 ≤ mget 0 k.spareUsed bank → exec (.softRepair n die arg) s =
          .next ((note s (buWord n.val die.toNat 0xC1 63 true) false arg).send (.wrapper arg))) ∧
        (mget 0 k.spareUsed bank < 4 →
          let page := fld arg.toNat 0 6 * 524288 + (fld arg.toNat 11 14 * 32 + fld arg.toNat 6 5)
          ∃ t, exec (.softRepair n die arg) s = .next t ∧
            t.lodge.nvRepairs = (s.migratePage n.val page).lodge.nvRepairs ++ [(n.val * 2, page)] ∧ t.lodge.buData = arg) ∧
        exec (.odeccRead n die count) s = .next ((note (s.setStack n.val { k with odecc := satAdd k.odecc count.toNat })
          (buWord n.val die.toNat 0xC2 31 false) false (count.zeroExtend 64)).send (.wrapper (count.zeroExtend 64))) ∧
        (cmd.getLsbD 22 = true → exec (.bu1500Shift cmd cap) s = .next ((note s cmd.toNat false s.lodge.buData).send (.wrapper s.lodge.buData))) ∧
        (cmd.getLsbD 22 = false →
          let d := BitVec.ofNat 64 (cap.toNat % 2 ^ (fld cmd.toNat 16 6 + 1))
          exec (.bu1500Shift cmd cap) s = .next ((note s cmd.toNat false d).send (.wrapper d))))) ∧
    (exec .idcode s = .next (({ s with lodge := { s.lodge with tap := 1 } }).send (.tdo idcodeValue)) ∧
     exec .samplePreload s = .next { s with lodge := { s.lodge with tap := 2 } } ∧
     (∀ c : Byte, (c = 0xFF ∨ c = 0 ∨ 8 ≤ c.toNat) → exec (.bypass c) s = .next { s with lodge := { s.lodge with tap := 0xFF } })) ∧
    (∀ c : Nat, 3 ≤ c → c ≤ 7 →
      let row : Instr := if c = 3 then .extest else if c = 4 then .extestPulse else if c = 5 then .extestTrain else if c = 6 then .clamp else .highz
      ((s.lodge.phase = 8 ∨ s.lodge.phase = 9) → exec row s = .next { s with lodge := { s.lodge with tap := BitVec.ofNat 8 c, testInForce := true } }) ∧
      (s.lodge.phase ≠ 8 → s.lodge.phase ≠ 9 → exec row s = .next { s with lodge := { s.lodge with tap := 0xFF, jtagRef := true } })) ∧
    (s.lodge.traceCtl.getLsbD 9 = false → exec .traceMarker s = .next s) ∧
    (s.lodge.traceCtl.getLsbD 9 = true → (∀ c, c < 9 → s.lodge.traceCtl.getLsbD c = false) →
      exec .traceMarker s = .next { s with lodge := { s.lodge with markers := s.lodge.markers + 1 } })

/-- R7, R8, R9, R35, R416, R417, R466 to R468, R490, R498, R518 and R533 (REGISTER_WRITE): a write of the wrong width or to no register is
dropped and recorded (of one wider than its register that is the model's choice, log entry 88), a function's register takes the fields that its
access codes let it write, and a fenced steward's write is dropped. A function's read (log entry 64) answers the identity word and the time, and
zero with an error where no register stands. -/
def Obligations.RegisterWritesFollowTheirAccessCodes : Prop :=
  ∀ (s : State) (f off width : Nat) (v : BitVec 64),
    let x := s.fn f
    (x.enabled = false → exec (.registerWrite (.host f 0) off width v) s = .next s) ∧
    (x.enabled = true →
      ((off < 0x4000 ∨ 0x10000 ≤ off) → (f = 0 ∨ off < 0x10000) → window0Width f off = none →
        exec (.registerWrite (.host f 0) off width v) s = .next (s.hostError f 0 0 (detailAddr off) false)) ∧
      (∀ w, (off < 0x4000 ∨ 0x10000 ≤ off) → (f = 0 ∨ off < 0x10000) → window0Width f off = some w → w ≠ width →
        exec (.registerWrite (.host f 0) off width v) s = .next (s.hostError f 0 0 (detailAddr off) false)) ∧
      (f ≠ 0 → 0x10000 ≤ off → exec (.registerWrite (.host f 0) off width v) s = .next s) ∧
      exec (.registerWrite (.host f 0) 0x820 8 v) s = .next (s.setFn f { x with errStat := x.errStat &&& ~~~ (v.truncate 6) }) ∧
      exec (.registerWrite (.host f 0) 0x828 8 v) s = .next (s.setFn f { x with errVec := v.truncate 11, errMask := (v >>> 16).truncate 6 }) ∧
      exec (.registerWrite (.host f 0) 0x200 8 v) s = .next (s.setFn f { x with rqBase := v &&& 0xFFFFFFFFFFFFFFC0 }) ∧
      (f ≠ 0 → exec (.registerWrite (.host f 0) 0x400 8 v) s = .next s) ∧
      exec (.registerWrite (.hostRead f false) 0 4 v) s = .next (s.send (.regData (.hostRead f false) 0 0x0796B001)) ∧
      exec (.registerWrite (.hostRead f false) 0x100 8 v) s = .next (s.send (.regData (.hostRead f false) 0x100 s.time)) ∧
      (s.window0Read f off width = none → exec (.registerWrite (.hostRead f false) off width v) s =
        .next ((s.hostError f 0 0 (detailAddr off) false).send (.regData (.hostRead f false) off 0)))) ∧
    ((s.fn 0).enabled = true →
      (s.job.state ≠ 1 → exec (.registerWrite (.host 0 0) 0x400 8 v) s =
        .next { s with job := { s.job with imgAddr := v &&& 0xFFFFFFFFFFFFFFC0 } }) ∧
      exec (.registerWrite (.host 0 0) 0x300100 8 v) s =
        .next { s with power := { s.power with cap := v.truncate 12, capWin := (v >>> 16).truncate 10 } } ∧
      exec (.registerWrite (.host 0 0) 0x300008 8 v) s = .next { s with lodge := { s.lodge with liveAddr := v } }) ∧
    (∀ k : Fin 4,
      (s.stwOn k.val = false → exec (.registerWrite (.steward k) off width v) s = .next s) ∧
      (∀ n, s.stwOn k.val = true → n < 2048 →
        exec (.registerWrite (.steward k) (0x80000000 + 8 * n) 8 v) s = .next (s.setIntSrc n ((s.intSrc n).write v))) ∧
      (s.stwOn k.val = true → exec (.registerWrite (.steward k) 0x80005030 8 v) s =
        .next { s with lodge := { s.lodge with duty := v.truncate 16 } }))

/-- R314 (SEM_OBS_ARRIVE): an obs never changes the value; at a value of at least n it is released at once, else it joins the observers. -/
def Obligations.AnObserverIsReleasedAtItsValueOrJoins : Prop :=
  ∀ (s : State) (i t scope sem n : Nat) (st : Stream), s.netFirst i = some (.obs t st scope sem n) → n ≤ 16777215 →
    s.quotaOk (s.waitSrc t st) sem = true → mwf Sem.zero s.sem.sems = true →
    let s1 : State := { s with sem := { s.sem with net := listDrop s.sem.net i } }
    let x := s.sema sem
    let w : Waiter := { tile := t, stream := st, scope := scope, n := n }
    ∃ r, exec (.semObsArrive i) s = .next r ∧ (r.sema sem).value = x.value ∧ (r.sema sem).queue = x.queue ∧ (∀ m, m ≠ sem → r.sema m = s.sema m) ∧
      (n ≤ x.value → r = s1.releaseWaiter sem w (-1) ∧ (r.sema sem).observers = x.observers) ∧
      (x.value < n → (r.sema sem).observers = x.observers ++ [w] ∧ r.tiles = s.tiles)

/-- R28 (STATUS_EVENT): within 1 ms, 100,000 Lodge cycles, after a change of a unit's allowed state a report is a mismatch, and the unit fenced,
only if it is consistent neither with the new allowed state nor with the old one. -/
def Obligations.AReportAfterAChangeIsJudgedAgainstBothStates : Prop :=
  ∀ (s : State) (u : BitVec 16) (rep : BitVec 3) (kind : BitVec 4), isUnit u.toNat = true →
    let x := s.unit u.toNat
    let t := s.report u.toNat rep.toNat kind.toNat
    x.oldAllowed ≠ 0 → s.time.toNat ≤ x.changedAt + 100000 →
    ((reportConsistent x.allowed rep.toNat = true ∨ reportConsistent x.oldAllowed rep.toNat = true) →
      exec (.statusEvent u rep kind) s = .next t ∧ t.unit u.toNat = { x with reported := rep.toNat }) ∧
    (reportConsistent x.allowed rep.toNat = false → reportConsistent x.oldAllowed rep.toNat = false →
      exec (.statusEvent u rep kind) s = .next (t.fence u.toNat true))

/-- R101: a detected slip is counted in the first valid kernel range with START at most and END at least the address of its bundle, and in entry
15 if no range contains it; every other entry keeps its count. It is counted once by its kind, and the other kinds keep their counts. Counts
saturate. `Tile.countSlip` is the one operation through which a tile counts what it detects. -/
def Obligations.ASlipIsCountedByKernelAndByKind : Prop :=
  ∀ (t : Tile) (x : SlipRec), mwf SlipCnt.zero t.slips = true → 1 ≤ x.kind → x.kind ≤ 3 →
    let y := t.countSlip x
    let range (i : Nat) : Nat := (mget 0 t.krange i).toNat
    let holds (i : Nat) : Prop := i < 16 ∧ (range i).testBit 23 = true ∧ fld (range i) 0 23 ≤ x.pc ∧ x.pc ≤ fld (range i) 32 23
    let counted (i : Nat) : Prop := (mget SlipCnt.zero y.slips i).count = satInc (mget SlipCnt.zero t.slips i).count ∧
      ∀ j, j ≠ i → mget SlipCnt.zero y.slips j = mget SlipCnt.zero t.slips j
    (∀ i, holds i → (∀ j, j < i → ¬ holds j) → counted i) ∧
    ((∀ i, ¬ holds i) → counted 15) ∧
    (∀ k, k < 3 → fld y.slipKind.toNat (16 * k) 16 =
      if k + 1 = x.kind then min (fld t.slipKind.toNat (16 * k) 16 + 1) 65535 else fld t.slipKind.toNat (16 * k) 16)

/-- A step takes the command at the front of the queue and runs it on the rest; with an empty queue one Lodge cycle passes (the model's choice,
log entry 1): the time rises by one, and where no tile runs the tiles, the Lodge and the job stand. -/
def Obligations.AStepRunsTheFrontCommand : Prop :=
  (∀ (c : Instr) (rest : List Instr) (s : State), step { s with pending := c :: rest } = exec c { s with pending := rest }) ∧
  (∀ s : State, s.pending = [] → ∃ t, step s = .next t ∧ t.pending = [] ∧
    ((∀ n, n < 96 → (s.tile n).runs = false) → t.time = s.time + 1 ∧ t.tiles = s.tiles ∧ t.lodge = s.lodge ∧ t.job = s.job))

/-- The values after a module reset that the register tables give (R8, R25, R328, R415, R462, R494, R518, R519, R522, R555): every unit ONLINE
but the spare tiles, every semaphore 0, no job, every link DISABLED, all stewards enabled with their duties, every interrupt source disabled,
every stack page invalid, every tile asleep. -/
def Obligations.ResetLeavesTheValuesOfTheRegisterTables : Prop :=
  let r := State.reset
  (∀ i, i < 104 → (r.unit (unitId 0 i)).allowed = (if i % 13 = 12 then 1 else 2)) ∧
  (∀ c i, 1 ≤ c → c ≤ 8 → i < unitCount c → (r.unit (unitId c i)).allowed = 2 ∧ (r.unit (unitId c i)).reported = 0) ∧
  (∀ n, (r.sema n).value = 0 ∧ (r.sema n).lastScope = 3 ∧ r.quota n = (0, 0)) ∧
  (∀ n, (r.link n).state = 0 ∧ (r.link n).en = false ∧ (r.link n).serthr = 0x10 ∧ (r.link n).spare = 7) ∧
  (∀ n, (r.intSrc n).prio = 0xF ∧ (r.intSrc n).en = false ∧ (r.intSrc n).count = 0) ∧
  (∀ n page, (r.stack n).valid = [] ∧ (r.stack n).engAvail = BitVec.allOnes 64 ∧ (r.stack n).holdMax = 0x960 ∧ memGet (r.stack n).mem page = 0) ∧
  (∀ n, (r.tile n).active = false ∧ (r.tile n).sleep = .asleep ∧ (r.tile n).halt.reason = 0) ∧
  r.job.state = 0 ∧ r.lodge.stwEn = 0xF ∧ r.lodge.duty = 0xF0A9 ∧ r.lodge.evq = [] ∧ r.lodge.testEn = false ∧ r.power.capWin = 0x64 ∧ r.pending = []

/-- R474 and R505 at reset: the status-event queue and the translation cache are empty, so within their sizes. -/
def Obligations.ResetIsWithinItsBounds : Prop := Bounded State.reset ∧ FusesAtLeast (fun _ => 0) State.reset

/-- R474 and R505: no step of the module takes the status-event queue beyond 1,024 entries or the translation cache beyond 8,192. -/
def Obligations.EveryStepStaysWithinItsBounds : Prop := ∀ (s t : State), step s = .next t → Bounded s → Bounded t

/-- R564: the value of a component's anti-rollback counter never falls, whatever the module does: no command, and no module reset, lowers it. -/
def Obligations.AntiRollbackCountersNeverFall : Prop := ∀ (n : Nat → Nat) (s t : State), step s = .next t → FusesAtLeast n s → FusesAtLeast n t
end

