-- ==== Sys2Proof/Laws/Slot.lean ====
section
/-! SUPPORT. What a slot that takes its turn does: the one lemma that the statements about bundle slots go through. -/

namespace Sys2Proof

open Machine

/-- A slot that takes its turn runs its body in the state in which it is taken. -/
theorem slot_ok {s : State} {u : Issue} {bit : Nat} {i : SlotInfo} {b : BundleIP} (h : SlotOk s u bit i b)
    (info : Tile → BundleIP → SlotInfo) (body : State → BundleIP → SlotRes) (hi : info (slotTile s u bit) b = i) :
    s.slot u bit info body =
      match body (s.beginSlot u bit) ((b.count i).name i) with
      | .ok s3 b2 => s3.closeSlot u b2
      | .halt reason detail => (s.beginSlot u bit).closeSlot u (((b.count i).name i).stop reason detail) := by
  unfold slotTile at hi
  unfold State.slot
  simp only [h.turn, hi, h.goes, State.slotSlip, h.ready, h.clear]
  rfl

/-- A scalar slot that takes its turn leaves its result pending. -/
theorem scalar_ok {s : State} {u : Issue} {legal : Bool} {srcs : List Nat} {rd lat : Nat} {f : State → BundleIP → Reg64} {b : BundleIP}
    (h : SlotOk s u 0 (regSlot legal srcs [sKey u.stream rd]) b) :
    s.scalarOp u legal srcs rd lat f =
      scalarNext s u (regSlot legal srcs [sKey u.stream rd]) b rd lat
        (f (s.beginSlot u 0) ((b.count (regSlot legal srcs [sKey u.stream rd])).name (regSlot legal srcs [sKey u.stream rd]))) := by
  unfold State.scalarOp
  rw [slot_ok h _ _ rfl]
  simp only [State.putS, scalarNext, slotNext, slotTile]
  split <;> rfl

end Sys2Proof
end

