-- ==== Sys2Proof/Laws/State.lean ====
section
/-! SUPPORT. The laws of the maps and memories of the state, and of each update of the state: what it writes and what it leaves. -/

namespace Sys2Proof.Machine

/-! ### Sparse maps -/

section Maps

variable {α : Type} [DecidableEq α] {d : α}

/-- A key that a map lists nowhere at or below reads as the default. -/
theorem mget_below {lo : Nat} {m : SMap α} (h : mwfFrom d lo m = true) {i : Nat} (hi : i < lo) : mget d m i = d := by
  cases m with
  | nil => rfl
  | cons e m =>
    obtain ⟨k, v⟩ := e
    simp only [mwfFrom, Bool.and_eq_true, decide_eq_true_eq] at h
    have h1 : i ≠ k := by omega
    have h2 : i < k := by omega
    simp only [mget, h1, h2, if_false, if_true]

/-- A map that is canonical from one bound is so from a lower one. -/
theorem mwfFrom_mono {lo lo' : Nat} {m : SMap α} (h : mwfFrom d lo m = true) (hl : lo' ≤ lo) : mwfFrom d lo' m = true := by
  cases m with
  | nil => rfl
  | cons e m =>
    simp only [mwfFrom, Bool.and_eq_true, decide_eq_true_eq] at h ⊢
    exact ⟨⟨by omega, h.1.2⟩, h.2⟩

/-- Reading the key just written gives the value. -/
theorem mget_mput_self {lo : Nat} {m : SMap α} (h : mwfFrom d lo m = true) (i : Nat) (v : α) : mget d (mput d m i v) i = v := by
  induction m generalizing lo with
  | nil => by_cases hv : v = d <;> simp [mput, mget, hv]
  | cons e m ih =>
    obtain ⟨k, w⟩ := e
    simp only [mwfFrom, Bool.and_eq_true, decide_eq_true_eq] at h
    simp only [mput]
    split
    · rename_i hi
      split
      · rename_i hv; simp [mget, hi, Nat.ne_of_lt hi, hv]
      · simp [mget]
    · split
      · rename_i hi
        split
        · rename_i hv; rw [mget_below h.2 (by omega), hv]
        · simp [mget, hi]
      · rename_i h1 h2
        simp only [mget, h1, h2, if_false]
        exact ih h.2

/-- Reading another key gives what it gave. -/
theorem mget_mput_other {lo : Nat} {m : SMap α} (h : mwfFrom d lo m = true) {i j : Nat} (hij : j ≠ i) (v : α) :
    mget d (mput d m i v) j = mget d m j := by
  induction m generalizing lo with
  | nil =>
    by_cases hv : v = d
    · simp [mput, hv]
    · simp [mput, mget, hv, hij]
  | cons e m ih =>
    obtain ⟨k, w⟩ := e
    simp only [mwfFrom, Bool.and_eq_true, decide_eq_true_eq] at h
    simp only [mput]
    split
    · rename_i hi
      split
      · rfl
      · simp only [mget, hij, if_false]
        split
        · rename_i hj
          have h1 : j ≠ k := by omega
          have h2 : j < k := by omega
          simp [h1, h2]
        · rfl
    · split
      · rename_i hi
        subst hi
        split
        · simp only [mget, hij, if_false]
          split
          · rename_i hj; exact mget_below h.2 (by omega)
          · rfl
        · simp only [mget, hij, if_false]
      · simp only [mget]
        split
        · rfl
        · split
          · rfl
          · exact ih h.2

/-- Writing keeps a map canonical. -/
theorem mput_wfFrom {lo : Nat} {m : SMap α} (h : mwfFrom d lo m = true) {i : Nat} (hi : lo ≤ i) (v : α) :
    mwfFrom d lo (mput d m i v) = true := by
  induction m generalizing lo with
  | nil => by_cases hv : v = d <;> simp [mput, mwfFrom, hv, hi]
  | cons e m ih =>
    obtain ⟨k, w⟩ := e
    have h' := h
    simp only [mwfFrom, Bool.and_eq_true, decide_eq_true_eq] at h
    simp only [mput]
    split
    · rename_i hk
      split
      · exact h'
      · rename_i hv
        simp only [mwfFrom, Bool.and_eq_true, decide_eq_true_eq]
        exact ⟨⟨hi, hv⟩, ⟨by omega, h.1.2⟩, h.2⟩
    · split
      · rename_i hk
        split
        · exact mwfFrom_mono h.2 (by omega)
        · rename_i hv
          simp only [mwfFrom, Bool.and_eq_true, decide_eq_true_eq]
          exact ⟨⟨hi, hv⟩, hk ▸ h.2⟩
      · simp only [mwfFrom, Bool.and_eq_true, decide_eq_true_eq]
        exact ⟨h.1, ih h.2 (by omega)⟩

theorem mput_wf {m : SMap α} (h : mwf d m = true) (i : Nat) (v : α) : mwf d (mput d m i v) = true := mput_wfFrom h (Nat.zero_le i) v

/-- A value other than the default reads back whatever the map. -/
theorem mget_mput_ne {m : SMap α} {v : α} (hv : v ≠ d) (i : Nat) : mget d (mput d m i v) i = v := by
  induction m with
  | nil => simp [mput, mget, hv]
  | cons e m ih =>
    obtain ⟨k, w⟩ := e
    simp only [mput]
    split
    · simp [mget]
    · split
      · rename_i hi; simp [mget, hi]
      · rename_i h1 h2; simp only [mget, h1, h2, if_false]; exact ih

/-- Of two writes to one key, the first of a value other than the default, the second stands. -/
theorem mput_mput_ne {m : SMap α} {v : α} (hv : v ≠ d) (i : Nat) (w : α) : mput d (mput d m i v) i w = mput d m i w := by
  induction m with
  | nil => simp [mput, hv]
  | cons e m ih =>
    obtain ⟨k, x⟩ := e
    simp only [mput]
    split
    · simp [mput]
    · split
      · rename_i hi; simp [mput, hi]
      · rename_i h1 h2; simp only [mput, h1, h2, if_false, ih]

end Maps

/-! ### Memories -/

/-- Reading the byte just written. -/
theorem memGet_memPut_self {m : Memory} (h : m.wf = true) (a : Nat) (b : Byte) : memGet (memPut m a b) a = b := mget_mput_self h a b

/-- Reading another byte. -/
theorem memGet_memPut_other {m : Memory} (h : m.wf = true) {a c : Nat} (hc : c ≠ a) (b : Byte) :
    memGet (memPut m a b) c = memGet m c := mget_mput_other h hc b

/-- A write of one byte keeps a memory canonical. -/
theorem memPut_wf {m : Memory} (h : m.wf = true) (a : Nat) (b : Byte) : (memPut m a b).wf = true := mput_wf h a b

/-- A write of bytes keeps a memory canonical. -/
theorem memWrite_wf {m : Memory} (h : m.wf = true) (a : Nat) (bs : List Byte) : (memWrite m a bs).wf = true := by
  induction bs generalizing m a with
  | nil => exact h
  | cons b bs ih => exact ih (memPut_wf h a b) (a + 1)

/-- A write of bytes leaves every byte outside them. -/
theorem memGet_memWrite_other {m : Memory} (h : m.wf = true) (a : Nat) (bs : List Byte) {c : Nat} (hc : c < a ∨ a + bs.length ≤ c) :
    memGet (memWrite m a bs) c = memGet m c := by
  induction bs generalizing m a with
  | nil => rfl
  | cons b bs ih =>
    simp only [List.length_cons] at hc
    simp only [memWrite]
    rw [ih (memPut_wf h a b) (a + 1) (by omega), memGet_memPut_other h (by omega)]

/-- Reading a byte that was written. -/
theorem memGet_memWrite_self {m : Memory} (h : m.wf = true) (a : Nat) (bs : List Byte) {i : Nat} (hi : i < bs.length) :
    memGet (memWrite m a bs) (a + i) = bs[i] := by
  induction bs generalizing m a i with
  | nil => cases hi
  | cons b bs ih =>
    simp only [memWrite]
    cases i with
    | zero =>
      rw [memGet_memWrite_other (memPut_wf h a b) (a + 1) bs (Or.inl (by omega)), Nat.add_zero, memGet_memPut_self h]
      rfl
    | succ i =>
      have := ih (memPut_wf h a b) (a + 1) (i := i) (by simpa using hi)
      rw [show a + (i + 1) = a + 1 + i by omega, this]
      rfl

/-- Dropping the entries of a range keeps a memory canonical. -/
theorem filter_wfFrom {lo : Nat} {m : Memory} (p : Host.Cell → Bool) (h : mwfFrom (0 : Byte) lo m = true) :
    mwfFrom (0 : Byte) lo (m.filter p) = true := by
  induction m generalizing lo with
  | nil => rfl
  | cons e m ih =>
    obtain ⟨k, v⟩ := e
    simp only [mwfFrom, Bool.and_eq_true, decide_eq_true_eq] at h
    simp only [List.filter]
    split
    · simp only [mwfFrom, Bool.and_eq_true, decide_eq_true_eq]
      exact ⟨h.1, ih h.2⟩
    · exact ih (mwfFrom_mono h.2 (by omega))

theorem memClear_wf {m : Memory} (h : m.wf = true) (a n : Nat) : (memClear m a n).wf = true := filter_wfFrom _ h

/-! ### Units of the state -/

theorem State.tile_setTile {s : State} {n : Nat} {x : Tile} (hx : x ≠ Tile.zero) : (s.setTile n x).tile n = x := mget_mput_ne hx n

theorem State.setTile_setTile {s : State} {n : Nat} {x y : Tile} (hx : x ≠ Tile.zero) : (s.setTile n x).setTile n y = s.setTile n y := by
  simp only [State.setTile, mput_mput_ne hx]

theorem State.tile_setTile_same {s : State} {n : Nat} {x : Tile} (h : mwf Tile.zero s.tiles = true) : (s.setTile n x).tile n = x := mget_mput_self h n x
theorem State.tile_setTile_other {s : State} {n m : Nat} {x : Tile} (h : mwf Tile.zero s.tiles = true) (hm : m ≠ n) : (s.setTile n x).tile m = s.tile m :=
  mget_mput_other h hm x
theorem State.region_setRegion_same {s : State} {n : Nat} {x : Region} (h : mwf Region.zero s.regions = true) : (s.setRegion n x).region n = x := mget_mput_self h n x
theorem State.region_setRegion_other {s : State} {n m : Nat} {x : Region} (h : mwf Region.zero s.regions = true) (hm : m ≠ n) : (s.setRegion n x).region m = s.region m :=
  mget_mput_other h hm x
theorem State.stack_setStack_same {s : State} {n : Nat} {x : Stack} (h : mwf Stack.zero s.stk = true) : (s.setStack n x).stack n = x := mget_mput_self h n x
theorem State.stack_setStack_other {s : State} {n m : Nat} {x : Stack} (h : mwf Stack.zero s.stk = true) (hm : m ≠ n) : (s.setStack n x).stack m = s.stack m :=
  mget_mput_other h hm x
theorem State.tombola_setTombola_same {s : State} {n : Nat} {x : Tombola} (h : mwf Tombola.zero s.tomb = true) : (s.setTombola n x).tombola n = x := mget_mput_self h n x
theorem State.tombola_setTombola_other {s : State} {n m : Nat} {x : Tombola} (h : mwf Tombola.zero s.tomb = true) (hm : m ≠ n) : (s.setTombola n x).tombola m = s.tombola m :=
  mget_mput_other h hm x
theorem State.link_setLink_same {s : State} {n : Nat} {x : Link} (h : mwf Link.zero s.links = true) : (s.setLink n x).link n = x := mget_mput_self h n x
theorem State.link_setLink_other {s : State} {n m : Nat} {x : Link} (h : mwf Link.zero s.links = true) (hm : m ≠ n) : (s.setLink n x).link m = s.link m :=
  mget_mput_other h hm x
theorem State.band_setBand_same {s : State} {n : Nat} {x : Bandstand} (h : mwf Bandstand.zero s.bands = true) : (s.setBand n x).band n = x := mget_mput_self h n x
theorem State.band_setBand_other {s : State} {n m : Nat} {x : Bandstand} (h : mwf Bandstand.zero s.bands = true) (hm : m ≠ n) : (s.setBand n x).band m = s.band m :=
  mget_mput_other h hm x
theorem State.sema_setSema_same {s : State} {n : Nat} {x : Sem} (h : mwf Sem.zero s.sem.sems = true) : (s.setSema n x).sema n = x := mget_mput_self h n x
theorem State.sema_setSema_other {s : State} {n m : Nat} {x : Sem} (h : mwf Sem.zero s.sem.sems = true) (hm : m ≠ n) : (s.setSema n x).sema m = s.sema m :=
  mget_mput_other h hm x
theorem State.steward_setSteward_same {s : State} {n : Nat} {x : Steward} (h : mwf Steward.zero s.lodge.stewards = true) : (s.setSteward n x).steward n = x := mget_mput_self h n x
theorem State.steward_setSteward_other {s : State} {n m : Nat} {x : Steward} (h : mwf Steward.zero s.lodge.stewards = true) (hm : m ≠ n) : (s.setSteward n x).steward m = s.steward m :=
  mget_mput_other h hm x
theorem State.intSrc_setIntSrc_same {s : State} {n : Nat} {x : IntSrc} (h : mwf IntSrc.zero s.lodge.ints = true) : (s.setIntSrc n x).intSrc n = x := mget_mput_self h n x
theorem State.intSrc_setIntSrc_other {s : State} {n m : Nat} {x : IntSrc} (h : mwf IntSrc.zero s.lodge.ints = true) (hm : m ≠ n) : (s.setIntSrc n x).intSrc m = s.intSrc m :=
  mget_mput_other h hm x

/-! ### One lemma per field per update -/

@[simp] theorem State.setTile_pending (s : State) (n : Nat) (x : Tile) : (s.setTile n x).pending = s.pending := rfl
@[simp] theorem State.setTile_time (s : State) (n : Nat) (x : Tile) : (s.setTile n x).time = s.time := rfl
@[simp] theorem State.setTile_frees (s : State) (n : Nat) (x : Tile) : (s.setTile n x).frees = s.frees := rfl
@[simp] theorem State.setTile_regions (s : State) (n : Nat) (x : Tile) : (s.setTile n x).regions = s.regions := rfl
@[simp] theorem State.setTile_stk (s : State) (n : Nat) (x : Tile) : (s.setTile n x).stk = s.stk := rfl
@[simp] theorem State.setTile_engines (s : State) (n : Nat) (x : Tile) : (s.setTile n x).engines = s.engines := rfl
@[simp] theorem State.setTile_sem (s : State) (n : Nat) (x : Tile) : (s.setTile n x).sem = s.sem := rfl
@[simp] theorem State.setTile_fns (s : State) (n : Nat) (x : Tile) : (s.setTile n x).fns = s.fns := rfl
@[simp] theorem State.setTile_serving (s : State) (n : Nat) (x : Tile) : (s.setTile n x).serving = s.serving := rfl
@[simp] theorem State.setTile_tomb (s : State) (n : Nat) (x : Tile) : (s.setTile n x).tomb = s.tomb := rfl
@[simp] theorem State.setTile_job (s : State) (n : Nat) (x : Tile) : (s.setTile n x).job = s.job := rfl
@[simp] theorem State.setTile_links (s : State) (n : Nat) (x : Tile) : (s.setTile n x).links = s.links := rfl
@[simp] theorem State.setTile_lnk (s : State) (n : Nat) (x : Tile) : (s.setTile n x).lnk = s.lnk := rfl
@[simp] theorem State.setTile_bands (s : State) (n : Nat) (x : Tile) : (s.setTile n x).bands = s.bands := rfl
@[simp] theorem State.setTile_lodge (s : State) (n : Nat) (x : Tile) : (s.setTile n x).lodge = s.lodge := rfl
@[simp] theorem State.setTile_ust (s : State) (n : Nat) (x : Tile) : (s.setTile n x).ust = s.ust := rfl
@[simp] theorem State.setTile_power (s : State) (n : Nat) (x : Tile) : (s.setTile n x).power = s.power := rfl
@[simp] theorem State.setTile_hostReqs (s : State) (n : Nat) (x : Tile) : (s.setTile n x).hostReqs = s.hostReqs := rfl
@[simp] theorem State.setTile_atsCache (s : State) (n : Nat) (x : Tile) : (s.setTile n x).atsCache = s.atsCache := rfl
@[simp] theorem State.setTile_atsWaits (s : State) (n : Nat) (x : Tile) : (s.setTile n x).atsWaits = s.atsWaits := rfl
@[simp] theorem State.setTile_atsInval (s : State) (n : Nat) (x : Tile) : (s.setTile n x).atsInval = s.atsInval := rfl
@[simp] theorem State.setTile_nextReq (s : State) (n : Nat) (x : Tile) : (s.setTile n x).nextReq = s.nextReq := rfl
@[simp] theorem State.setTile_hstLink (s : State) (n : Nat) (x : Tile) : (s.setTile n x).hstLink = s.hstLink := rfl
@[simp] theorem State.setTile_out (s : State) (n : Nat) (x : Tile) : (s.setTile n x).out = s.out := rfl

@[simp] theorem State.setRegion_pending (s : State) (n : Nat) (x : Region) : (s.setRegion n x).pending = s.pending := rfl
@[simp] theorem State.setRegion_time (s : State) (n : Nat) (x : Region) : (s.setRegion n x).time = s.time := rfl
@[simp] theorem State.setRegion_frees (s : State) (n : Nat) (x : Region) : (s.setRegion n x).frees = s.frees := rfl
@[simp] theorem State.setRegion_tiles (s : State) (n : Nat) (x : Region) : (s.setRegion n x).tiles = s.tiles := rfl
@[simp] theorem State.setRegion_stk (s : State) (n : Nat) (x : Region) : (s.setRegion n x).stk = s.stk := rfl
@[simp] theorem State.setRegion_engines (s : State) (n : Nat) (x : Region) : (s.setRegion n x).engines = s.engines := rfl
@[simp] theorem State.setRegion_sem (s : State) (n : Nat) (x : Region) : (s.setRegion n x).sem = s.sem := rfl
@[simp] theorem State.setRegion_fns (s : State) (n : Nat) (x : Region) : (s.setRegion n x).fns = s.fns := rfl
@[simp] theorem State.setRegion_serving (s : State) (n : Nat) (x : Region) : (s.setRegion n x).serving = s.serving := rfl
@[simp] theorem State.setRegion_tomb (s : State) (n : Nat) (x : Region) : (s.setRegion n x).tomb = s.tomb := rfl
@[simp] theorem State.setRegion_job (s : State) (n : Nat) (x : Region) : (s.setRegion n x).job = s.job := rfl
@[simp] theorem State.setRegion_links (s : State) (n : Nat) (x : Region) : (s.setRegion n x).links = s.links := rfl
@[simp] theorem State.setRegion_lnk (s : State) (n : Nat) (x : Region) : (s.setRegion n x).lnk = s.lnk := rfl
@[simp] theorem State.setRegion_bands (s : State) (n : Nat) (x : Region) : (s.setRegion n x).bands = s.bands := rfl
@[simp] theorem State.setRegion_lodge (s : State) (n : Nat) (x : Region) : (s.setRegion n x).lodge = s.lodge := rfl
@[simp] theorem State.setRegion_ust (s : State) (n : Nat) (x : Region) : (s.setRegion n x).ust = s.ust := rfl
@[simp] theorem State.setRegion_power (s : State) (n : Nat) (x : Region) : (s.setRegion n x).power = s.power := rfl
@[simp] theorem State.setRegion_hostReqs (s : State) (n : Nat) (x : Region) : (s.setRegion n x).hostReqs = s.hostReqs := rfl
@[simp] theorem State.setRegion_atsCache (s : State) (n : Nat) (x : Region) : (s.setRegion n x).atsCache = s.atsCache := rfl
@[simp] theorem State.setRegion_atsWaits (s : State) (n : Nat) (x : Region) : (s.setRegion n x).atsWaits = s.atsWaits := rfl
@[simp] theorem State.setRegion_atsInval (s : State) (n : Nat) (x : Region) : (s.setRegion n x).atsInval = s.atsInval := rfl
@[simp] theorem State.setRegion_nextReq (s : State) (n : Nat) (x : Region) : (s.setRegion n x).nextReq = s.nextReq := rfl
@[simp] theorem State.setRegion_hstLink (s : State) (n : Nat) (x : Region) : (s.setRegion n x).hstLink = s.hstLink := rfl
@[simp] theorem State.setRegion_out (s : State) (n : Nat) (x : Region) : (s.setRegion n x).out = s.out := rfl

@[simp] theorem State.setStack_pending (s : State) (n : Nat) (x : Stack) : (s.setStack n x).pending = s.pending := rfl
@[simp] theorem State.setStack_time (s : State) (n : Nat) (x : Stack) : (s.setStack n x).time = s.time := rfl
@[simp] theorem State.setStack_frees (s : State) (n : Nat) (x : Stack) : (s.setStack n x).frees = s.frees := rfl
@[simp] theorem State.setStack_tiles (s : State) (n : Nat) (x : Stack) : (s.setStack n x).tiles = s.tiles := rfl
@[simp] theorem State.setStack_regions (s : State) (n : Nat) (x : Stack) : (s.setStack n x).regions = s.regions := rfl
@[simp] theorem State.setStack_engines (s : State) (n : Nat) (x : Stack) : (s.setStack n x).engines = s.engines := rfl
@[simp] theorem State.setStack_sem (s : State) (n : Nat) (x : Stack) : (s.setStack n x).sem = s.sem := rfl
@[simp] theorem State.setStack_fns (s : State) (n : Nat) (x : Stack) : (s.setStack n x).fns = s.fns := rfl
@[simp] theorem State.setStack_serving (s : State) (n : Nat) (x : Stack) : (s.setStack n x).serving = s.serving := rfl
@[simp] theorem State.setStack_tomb (s : State) (n : Nat) (x : Stack) : (s.setStack n x).tomb = s.tomb := rfl
@[simp] theorem State.setStack_job (s : State) (n : Nat) (x : Stack) : (s.setStack n x).job = s.job := rfl
@[simp] theorem State.setStack_links (s : State) (n : Nat) (x : Stack) : (s.setStack n x).links = s.links := rfl
@[simp] theorem State.setStack_lnk (s : State) (n : Nat) (x : Stack) : (s.setStack n x).lnk = s.lnk := rfl
@[simp] theorem State.setStack_bands (s : State) (n : Nat) (x : Stack) : (s.setStack n x).bands = s.bands := rfl
@[simp] theorem State.setStack_lodge (s : State) (n : Nat) (x : Stack) : (s.setStack n x).lodge = s.lodge := rfl
@[simp] theorem State.setStack_ust (s : State) (n : Nat) (x : Stack) : (s.setStack n x).ust = s.ust := rfl
@[simp] theorem State.setStack_power (s : State) (n : Nat) (x : Stack) : (s.setStack n x).power = s.power := rfl
@[simp] theorem State.setStack_hostReqs (s : State) (n : Nat) (x : Stack) : (s.setStack n x).hostReqs = s.hostReqs := rfl
@[simp] theorem State.setStack_atsCache (s : State) (n : Nat) (x : Stack) : (s.setStack n x).atsCache = s.atsCache := rfl
@[simp] theorem State.setStack_atsWaits (s : State) (n : Nat) (x : Stack) : (s.setStack n x).atsWaits = s.atsWaits := rfl
@[simp] theorem State.setStack_atsInval (s : State) (n : Nat) (x : Stack) : (s.setStack n x).atsInval = s.atsInval := rfl
@[simp] theorem State.setStack_nextReq (s : State) (n : Nat) (x : Stack) : (s.setStack n x).nextReq = s.nextReq := rfl
@[simp] theorem State.setStack_hstLink (s : State) (n : Nat) (x : Stack) : (s.setStack n x).hstLink = s.hstLink := rfl
@[simp] theorem State.setStack_out (s : State) (n : Nat) (x : Stack) : (s.setStack n x).out = s.out := rfl

@[simp] theorem State.setEngine_pending (s : State) (n m : Nat) (x : Engine) : (s.setEngine n m x).pending = s.pending := rfl
@[simp] theorem State.setEngine_time (s : State) (n m : Nat) (x : Engine) : (s.setEngine n m x).time = s.time := rfl
@[simp] theorem State.setEngine_frees (s : State) (n m : Nat) (x : Engine) : (s.setEngine n m x).frees = s.frees := rfl
@[simp] theorem State.setEngine_tiles (s : State) (n m : Nat) (x : Engine) : (s.setEngine n m x).tiles = s.tiles := rfl
@[simp] theorem State.setEngine_regions (s : State) (n m : Nat) (x : Engine) : (s.setEngine n m x).regions = s.regions := rfl
@[simp] theorem State.setEngine_stk (s : State) (n m : Nat) (x : Engine) : (s.setEngine n m x).stk = s.stk := rfl
@[simp] theorem State.setEngine_sem (s : State) (n m : Nat) (x : Engine) : (s.setEngine n m x).sem = s.sem := rfl
@[simp] theorem State.setEngine_fns (s : State) (n m : Nat) (x : Engine) : (s.setEngine n m x).fns = s.fns := rfl
@[simp] theorem State.setEngine_serving (s : State) (n m : Nat) (x : Engine) : (s.setEngine n m x).serving = s.serving := rfl
@[simp] theorem State.setEngine_tomb (s : State) (n m : Nat) (x : Engine) : (s.setEngine n m x).tomb = s.tomb := rfl
@[simp] theorem State.setEngine_job (s : State) (n m : Nat) (x : Engine) : (s.setEngine n m x).job = s.job := rfl
@[simp] theorem State.setEngine_links (s : State) (n m : Nat) (x : Engine) : (s.setEngine n m x).links = s.links := rfl
@[simp] theorem State.setEngine_lnk (s : State) (n m : Nat) (x : Engine) : (s.setEngine n m x).lnk = s.lnk := rfl
@[simp] theorem State.setEngine_bands (s : State) (n m : Nat) (x : Engine) : (s.setEngine n m x).bands = s.bands := rfl
@[simp] theorem State.setEngine_lodge (s : State) (n m : Nat) (x : Engine) : (s.setEngine n m x).lodge = s.lodge := rfl
@[simp] theorem State.setEngine_ust (s : State) (n m : Nat) (x : Engine) : (s.setEngine n m x).ust = s.ust := rfl
@[simp] theorem State.setEngine_power (s : State) (n m : Nat) (x : Engine) : (s.setEngine n m x).power = s.power := rfl
@[simp] theorem State.setEngine_hostReqs (s : State) (n m : Nat) (x : Engine) : (s.setEngine n m x).hostReqs = s.hostReqs := rfl
@[simp] theorem State.setEngine_atsCache (s : State) (n m : Nat) (x : Engine) : (s.setEngine n m x).atsCache = s.atsCache := rfl
@[simp] theorem State.setEngine_atsWaits (s : State) (n m : Nat) (x : Engine) : (s.setEngine n m x).atsWaits = s.atsWaits := rfl
@[simp] theorem State.setEngine_atsInval (s : State) (n m : Nat) (x : Engine) : (s.setEngine n m x).atsInval = s.atsInval := rfl
@[simp] theorem State.setEngine_nextReq (s : State) (n m : Nat) (x : Engine) : (s.setEngine n m x).nextReq = s.nextReq := rfl
@[simp] theorem State.setEngine_hstLink (s : State) (n m : Nat) (x : Engine) : (s.setEngine n m x).hstLink = s.hstLink := rfl
@[simp] theorem State.setEngine_out (s : State) (n m : Nat) (x : Engine) : (s.setEngine n m x).out = s.out := rfl

@[simp] theorem State.setFn_pending (s : State) (n : Nat) (x : Fn) : (s.setFn n x).pending = s.pending := rfl
@[simp] theorem State.setFn_time (s : State) (n : Nat) (x : Fn) : (s.setFn n x).time = s.time := rfl
@[simp] theorem State.setFn_frees (s : State) (n : Nat) (x : Fn) : (s.setFn n x).frees = s.frees := rfl
@[simp] theorem State.setFn_tiles (s : State) (n : Nat) (x : Fn) : (s.setFn n x).tiles = s.tiles := rfl
@[simp] theorem State.setFn_regions (s : State) (n : Nat) (x : Fn) : (s.setFn n x).regions = s.regions := rfl
@[simp] theorem State.setFn_stk (s : State) (n : Nat) (x : Fn) : (s.setFn n x).stk = s.stk := rfl
@[simp] theorem State.setFn_engines (s : State) (n : Nat) (x : Fn) : (s.setFn n x).engines = s.engines := rfl
@[simp] theorem State.setFn_sem (s : State) (n : Nat) (x : Fn) : (s.setFn n x).sem = s.sem := rfl
@[simp] theorem State.setFn_serving (s : State) (n : Nat) (x : Fn) : (s.setFn n x).serving = s.serving := rfl
@[simp] theorem State.setFn_tomb (s : State) (n : Nat) (x : Fn) : (s.setFn n x).tomb = s.tomb := rfl
@[simp] theorem State.setFn_job (s : State) (n : Nat) (x : Fn) : (s.setFn n x).job = s.job := rfl
@[simp] theorem State.setFn_links (s : State) (n : Nat) (x : Fn) : (s.setFn n x).links = s.links := rfl
@[simp] theorem State.setFn_lnk (s : State) (n : Nat) (x : Fn) : (s.setFn n x).lnk = s.lnk := rfl
@[simp] theorem State.setFn_bands (s : State) (n : Nat) (x : Fn) : (s.setFn n x).bands = s.bands := rfl
@[simp] theorem State.setFn_lodge (s : State) (n : Nat) (x : Fn) : (s.setFn n x).lodge = s.lodge := rfl
@[simp] theorem State.setFn_ust (s : State) (n : Nat) (x : Fn) : (s.setFn n x).ust = s.ust := rfl
@[simp] theorem State.setFn_power (s : State) (n : Nat) (x : Fn) : (s.setFn n x).power = s.power := rfl
@[simp] theorem State.setFn_hostReqs (s : State) (n : Nat) (x : Fn) : (s.setFn n x).hostReqs = s.hostReqs := rfl
@[simp] theorem State.setFn_atsCache (s : State) (n : Nat) (x : Fn) : (s.setFn n x).atsCache = s.atsCache := rfl
@[simp] theorem State.setFn_atsWaits (s : State) (n : Nat) (x : Fn) : (s.setFn n x).atsWaits = s.atsWaits := rfl
@[simp] theorem State.setFn_atsInval (s : State) (n : Nat) (x : Fn) : (s.setFn n x).atsInval = s.atsInval := rfl
@[simp] theorem State.setFn_nextReq (s : State) (n : Nat) (x : Fn) : (s.setFn n x).nextReq = s.nextReq := rfl
@[simp] theorem State.setFn_hstLink (s : State) (n : Nat) (x : Fn) : (s.setFn n x).hstLink = s.hstLink := rfl
@[simp] theorem State.setFn_out (s : State) (n : Nat) (x : Fn) : (s.setFn n x).out = s.out := rfl

@[simp] theorem State.setTombola_pending (s : State) (n : Nat) (x : Tombola) : (s.setTombola n x).pending = s.pending := rfl
@[simp] theorem State.setTombola_time (s : State) (n : Nat) (x : Tombola) : (s.setTombola n x).time = s.time := rfl
@[simp] theorem State.setTombola_frees (s : State) (n : Nat) (x : Tombola) : (s.setTombola n x).frees = s.frees := rfl
@[simp] theorem State.setTombola_tiles (s : State) (n : Nat) (x : Tombola) : (s.setTombola n x).tiles = s.tiles := rfl
@[simp] theorem State.setTombola_regions (s : State) (n : Nat) (x : Tombola) : (s.setTombola n x).regions = s.regions := rfl
@[simp] theorem State.setTombola_stk (s : State) (n : Nat) (x : Tombola) : (s.setTombola n x).stk = s.stk := rfl
@[simp] theorem State.setTombola_engines (s : State) (n : Nat) (x : Tombola) : (s.setTombola n x).engines = s.engines := rfl
@[simp] theorem State.setTombola_sem (s : State) (n : Nat) (x : Tombola) : (s.setTombola n x).sem = s.sem := rfl
@[simp] theorem State.setTombola_fns (s : State) (n : Nat) (x : Tombola) : (s.setTombola n x).fns = s.fns := rfl
@[simp] theorem State.setTombola_serving (s : State) (n : Nat) (x : Tombola) : (s.setTombola n x).serving = s.serving := rfl
@[simp] theorem State.setTombola_job (s : State) (n : Nat) (x : Tombola) : (s.setTombola n x).job = s.job := rfl
@[simp] theorem State.setTombola_links (s : State) (n : Nat) (x : Tombola) : (s.setTombola n x).links = s.links := rfl
@[simp] theorem State.setTombola_lnk (s : State) (n : Nat) (x : Tombola) : (s.setTombola n x).lnk = s.lnk := rfl
@[simp] theorem State.setTombola_bands (s : State) (n : Nat) (x : Tombola) : (s.setTombola n x).bands = s.bands := rfl
@[simp] theorem State.setTombola_lodge (s : State) (n : Nat) (x : Tombola) : (s.setTombola n x).lodge = s.lodge := rfl
@[simp] theorem State.setTombola_ust (s : State) (n : Nat) (x : Tombola) : (s.setTombola n x).ust = s.ust := rfl
@[simp] theorem State.setTombola_power (s : State) (n : Nat) (x : Tombola) : (s.setTombola n x).power = s.power := rfl
@[simp] theorem State.setTombola_hostReqs (s : State) (n : Nat) (x : Tombola) : (s.setTombola n x).hostReqs = s.hostReqs := rfl
@[simp] theorem State.setTombola_atsCache (s : State) (n : Nat) (x : Tombola) : (s.setTombola n x).atsCache = s.atsCache := rfl
@[simp] theorem State.setTombola_atsWaits (s : State) (n : Nat) (x : Tombola) : (s.setTombola n x).atsWaits = s.atsWaits := rfl
@[simp] theorem State.setTombola_atsInval (s : State) (n : Nat) (x : Tombola) : (s.setTombola n x).atsInval = s.atsInval := rfl
@[simp] theorem State.setTombola_nextReq (s : State) (n : Nat) (x : Tombola) : (s.setTombola n x).nextReq = s.nextReq := rfl
@[simp] theorem State.setTombola_hstLink (s : State) (n : Nat) (x : Tombola) : (s.setTombola n x).hstLink = s.hstLink := rfl
@[simp] theorem State.setTombola_out (s : State) (n : Nat) (x : Tombola) : (s.setTombola n x).out = s.out := rfl

@[simp] theorem State.setLink_pending (s : State) (n : Nat) (x : Link) : (s.setLink n x).pending = s.pending := rfl
@[simp] theorem State.setLink_time (s : State) (n : Nat) (x : Link) : (s.setLink n x).time = s.time := rfl
@[simp] theorem State.setLink_frees (s : State) (n : Nat) (x : Link) : (s.setLink n x).frees = s.frees := rfl
@[simp] theorem State.setLink_tiles (s : State) (n : Nat) (x : Link) : (s.setLink n x).tiles = s.tiles := rfl
@[simp] theorem State.setLink_regions (s : State) (n : Nat) (x : Link) : (s.setLink n x).regions = s.regions := rfl
@[simp] theorem State.setLink_stk (s : State) (n : Nat) (x : Link) : (s.setLink n x).stk = s.stk := rfl
@[simp] theorem State.setLink_engines (s : State) (n : Nat) (x : Link) : (s.setLink n x).engines = s.engines := rfl
@[simp] theorem State.setLink_sem (s : State) (n : Nat) (x : Link) : (s.setLink n x).sem = s.sem := rfl
@[simp] theorem State.setLink_fns (s : State) (n : Nat) (x : Link) : (s.setLink n x).fns = s.fns := rfl
@[simp] theorem State.setLink_serving (s : State) (n : Nat) (x : Link) : (s.setLink n x).serving = s.serving := rfl
@[simp] theorem State.setLink_tomb (s : State) (n : Nat) (x : Link) : (s.setLink n x).tomb = s.tomb := rfl
@[simp] theorem State.setLink_job (s : State) (n : Nat) (x : Link) : (s.setLink n x).job = s.job := rfl
@[simp] theorem State.setLink_lnk (s : State) (n : Nat) (x : Link) : (s.setLink n x).lnk = s.lnk := rfl
@[simp] theorem State.setLink_bands (s : State) (n : Nat) (x : Link) : (s.setLink n x).bands = s.bands := rfl
@[simp] theorem State.setLink_lodge (s : State) (n : Nat) (x : Link) : (s.setLink n x).lodge = s.lodge := rfl
@[simp] theorem State.setLink_ust (s : State) (n : Nat) (x : Link) : (s.setLink n x).ust = s.ust := rfl
@[simp] theorem State.setLink_power (s : State) (n : Nat) (x : Link) : (s.setLink n x).power = s.power := rfl
@[simp] theorem State.setLink_hostReqs (s : State) (n : Nat) (x : Link) : (s.setLink n x).hostReqs = s.hostReqs := rfl
@[simp] theorem State.setLink_atsCache (s : State) (n : Nat) (x : Link) : (s.setLink n x).atsCache = s.atsCache := rfl
@[simp] theorem State.setLink_atsWaits (s : State) (n : Nat) (x : Link) : (s.setLink n x).atsWaits = s.atsWaits := rfl
@[simp] theorem State.setLink_atsInval (s : State) (n : Nat) (x : Link) : (s.setLink n x).atsInval = s.atsInval := rfl
@[simp] theorem State.setLink_nextReq (s : State) (n : Nat) (x : Link) : (s.setLink n x).nextReq = s.nextReq := rfl
@[simp] theorem State.setLink_hstLink (s : State) (n : Nat) (x : Link) : (s.setLink n x).hstLink = s.hstLink := rfl
@[simp] theorem State.setLink_out (s : State) (n : Nat) (x : Link) : (s.setLink n x).out = s.out := rfl

@[simp] theorem State.setBand_pending (s : State) (n : Nat) (x : Bandstand) : (s.setBand n x).pending = s.pending := rfl
@[simp] theorem State.setBand_time (s : State) (n : Nat) (x : Bandstand) : (s.setBand n x).time = s.time := rfl
@[simp] theorem State.setBand_frees (s : State) (n : Nat) (x : Bandstand) : (s.setBand n x).frees = s.frees := rfl
@[simp] theorem State.setBand_tiles (s : State) (n : Nat) (x : Bandstand) : (s.setBand n x).tiles = s.tiles := rfl
@[simp] theorem State.setBand_regions (s : State) (n : Nat) (x : Bandstand) : (s.setBand n x).regions = s.regions := rfl
@[simp] theorem State.setBand_stk (s : State) (n : Nat) (x : Bandstand) : (s.setBand n x).stk = s.stk := rfl
@[simp] theorem State.setBand_engines (s : State) (n : Nat) (x : Bandstand) : (s.setBand n x).engines = s.engines := rfl
@[simp] theorem State.setBand_sem (s : State) (n : Nat) (x : Bandstand) : (s.setBand n x).sem = s.sem := rfl
@[simp] theorem State.setBand_fns (s : State) (n : Nat) (x : Bandstand) : (s.setBand n x).fns = s.fns := rfl
@[simp] theorem State.setBand_serving (s : State) (n : Nat) (x : Bandstand) : (s.setBand n x).serving = s.serving := rfl
@[simp] theorem State.setBand_tomb (s : State) (n : Nat) (x : Bandstand) : (s.setBand n x).tomb = s.tomb := rfl
@[simp] theorem State.setBand_job (s : State) (n : Nat) (x : Bandstand) : (s.setBand n x).job = s.job := rfl
@[simp] theorem State.setBand_links (s : State) (n : Nat) (x : Bandstand) : (s.setBand n x).links = s.links := rfl
@[simp] theorem State.setBand_lnk (s : State) (n : Nat) (x : Bandstand) : (s.setBand n x).lnk = s.lnk := rfl
@[simp] theorem State.setBand_lodge (s : State) (n : Nat) (x : Bandstand) : (s.setBand n x).lodge = s.lodge := rfl
@[simp] theorem State.setBand_ust (s : State) (n : Nat) (x : Bandstand) : (s.setBand n x).ust = s.ust := rfl
@[simp] theorem State.setBand_power (s : State) (n : Nat) (x : Bandstand) : (s.setBand n x).power = s.power := rfl
@[simp] theorem State.setBand_hostReqs (s : State) (n : Nat) (x : Bandstand) : (s.setBand n x).hostReqs = s.hostReqs := rfl
@[simp] theorem State.setBand_atsCache (s : State) (n : Nat) (x : Bandstand) : (s.setBand n x).atsCache = s.atsCache := rfl
@[simp] theorem State.setBand_atsWaits (s : State) (n : Nat) (x : Bandstand) : (s.setBand n x).atsWaits = s.atsWaits := rfl
@[simp] theorem State.setBand_atsInval (s : State) (n : Nat) (x : Bandstand) : (s.setBand n x).atsInval = s.atsInval := rfl
@[simp] theorem State.setBand_nextReq (s : State) (n : Nat) (x : Bandstand) : (s.setBand n x).nextReq = s.nextReq := rfl
@[simp] theorem State.setBand_hstLink (s : State) (n : Nat) (x : Bandstand) : (s.setBand n x).hstLink = s.hstLink := rfl
@[simp] theorem State.setBand_out (s : State) (n : Nat) (x : Bandstand) : (s.setBand n x).out = s.out := rfl

@[simp] theorem State.setSema_pending (s : State) (n : Nat) (x : Sem) : (s.setSema n x).pending = s.pending := rfl
@[simp] theorem State.setSema_time (s : State) (n : Nat) (x : Sem) : (s.setSema n x).time = s.time := rfl
@[simp] theorem State.setSema_frees (s : State) (n : Nat) (x : Sem) : (s.setSema n x).frees = s.frees := rfl
@[simp] theorem State.setSema_tiles (s : State) (n : Nat) (x : Sem) : (s.setSema n x).tiles = s.tiles := rfl
@[simp] theorem State.setSema_regions (s : State) (n : Nat) (x : Sem) : (s.setSema n x).regions = s.regions := rfl
@[simp] theorem State.setSema_stk (s : State) (n : Nat) (x : Sem) : (s.setSema n x).stk = s.stk := rfl
@[simp] theorem State.setSema_engines (s : State) (n : Nat) (x : Sem) : (s.setSema n x).engines = s.engines := rfl
@[simp] theorem State.setSema_fns (s : State) (n : Nat) (x : Sem) : (s.setSema n x).fns = s.fns := rfl
@[simp] theorem State.setSema_serving (s : State) (n : Nat) (x : Sem) : (s.setSema n x).serving = s.serving := rfl
@[simp] theorem State.setSema_tomb (s : State) (n : Nat) (x : Sem) : (s.setSema n x).tomb = s.tomb := rfl
@[simp] theorem State.setSema_job (s : State) (n : Nat) (x : Sem) : (s.setSema n x).job = s.job := rfl
@[simp] theorem State.setSema_links (s : State) (n : Nat) (x : Sem) : (s.setSema n x).links = s.links := rfl
@[simp] theorem State.setSema_lnk (s : State) (n : Nat) (x : Sem) : (s.setSema n x).lnk = s.lnk := rfl
@[simp] theorem State.setSema_bands (s : State) (n : Nat) (x : Sem) : (s.setSema n x).bands = s.bands := rfl
@[simp] theorem State.setSema_lodge (s : State) (n : Nat) (x : Sem) : (s.setSema n x).lodge = s.lodge := rfl
@[simp] theorem State.setSema_ust (s : State) (n : Nat) (x : Sem) : (s.setSema n x).ust = s.ust := rfl
@[simp] theorem State.setSema_power (s : State) (n : Nat) (x : Sem) : (s.setSema n x).power = s.power := rfl
@[simp] theorem State.setSema_hostReqs (s : State) (n : Nat) (x : Sem) : (s.setSema n x).hostReqs = s.hostReqs := rfl
@[simp] theorem State.setSema_atsCache (s : State) (n : Nat) (x : Sem) : (s.setSema n x).atsCache = s.atsCache := rfl
@[simp] theorem State.setSema_atsWaits (s : State) (n : Nat) (x : Sem) : (s.setSema n x).atsWaits = s.atsWaits := rfl
@[simp] theorem State.setSema_atsInval (s : State) (n : Nat) (x : Sem) : (s.setSema n x).atsInval = s.atsInval := rfl
@[simp] theorem State.setSema_nextReq (s : State) (n : Nat) (x : Sem) : (s.setSema n x).nextReq = s.nextReq := rfl
@[simp] theorem State.setSema_hstLink (s : State) (n : Nat) (x : Sem) : (s.setSema n x).hstLink = s.hstLink := rfl
@[simp] theorem State.setSema_out (s : State) (n : Nat) (x : Sem) : (s.setSema n x).out = s.out := rfl

@[simp] theorem State.setSteward_pending (s : State) (n : Nat) (x : Steward) : (s.setSteward n x).pending = s.pending := rfl
@[simp] theorem State.setSteward_time (s : State) (n : Nat) (x : Steward) : (s.setSteward n x).time = s.time := rfl
@[simp] theorem State.setSteward_frees (s : State) (n : Nat) (x : Steward) : (s.setSteward n x).frees = s.frees := rfl
@[simp] theorem State.setSteward_tiles (s : State) (n : Nat) (x : Steward) : (s.setSteward n x).tiles = s.tiles := rfl
@[simp] theorem State.setSteward_regions (s : State) (n : Nat) (x : Steward) : (s.setSteward n x).regions = s.regions := rfl
@[simp] theorem State.setSteward_stk (s : State) (n : Nat) (x : Steward) : (s.setSteward n x).stk = s.stk := rfl
@[simp] theorem State.setSteward_engines (s : State) (n : Nat) (x : Steward) : (s.setSteward n x).engines = s.engines := rfl
@[simp] theorem State.setSteward_sem (s : State) (n : Nat) (x : Steward) : (s.setSteward n x).sem = s.sem := rfl
@[simp] theorem State.setSteward_fns (s : State) (n : Nat) (x : Steward) : (s.setSteward n x).fns = s.fns := rfl
@[simp] theorem State.setSteward_serving (s : State) (n : Nat) (x : Steward) : (s.setSteward n x).serving = s.serving := rfl
@[simp] theorem State.setSteward_tomb (s : State) (n : Nat) (x : Steward) : (s.setSteward n x).tomb = s.tomb := rfl
@[simp] theorem State.setSteward_job (s : State) (n : Nat) (x : Steward) : (s.setSteward n x).job = s.job := rfl
@[simp] theorem State.setSteward_links (s : State) (n : Nat) (x : Steward) : (s.setSteward n x).links = s.links := rfl
@[simp] theorem State.setSteward_lnk (s : State) (n : Nat) (x : Steward) : (s.setSteward n x).lnk = s.lnk := rfl
@[simp] theorem State.setSteward_bands (s : State) (n : Nat) (x : Steward) : (s.setSteward n x).bands = s.bands := rfl
@[simp] theorem State.setSteward_ust (s : State) (n : Nat) (x : Steward) : (s.setSteward n x).ust = s.ust := rfl
@[simp] theorem State.setSteward_power (s : State) (n : Nat) (x : Steward) : (s.setSteward n x).power = s.power := rfl
@[simp] theorem State.setSteward_hostReqs (s : State) (n : Nat) (x : Steward) : (s.setSteward n x).hostReqs = s.hostReqs := rfl
@[simp] theorem State.setSteward_atsCache (s : State) (n : Nat) (x : Steward) : (s.setSteward n x).atsCache = s.atsCache := rfl
@[simp] theorem State.setSteward_atsWaits (s : State) (n : Nat) (x : Steward) : (s.setSteward n x).atsWaits = s.atsWaits := rfl
@[simp] theorem State.setSteward_atsInval (s : State) (n : Nat) (x : Steward) : (s.setSteward n x).atsInval = s.atsInval := rfl
@[simp] theorem State.setSteward_nextReq (s : State) (n : Nat) (x : Steward) : (s.setSteward n x).nextReq = s.nextReq := rfl
@[simp] theorem State.setSteward_hstLink (s : State) (n : Nat) (x : Steward) : (s.setSteward n x).hstLink = s.hstLink := rfl
@[simp] theorem State.setSteward_out (s : State) (n : Nat) (x : Steward) : (s.setSteward n x).out = s.out := rfl

@[simp] theorem State.setIntSrc_pending (s : State) (n : Nat) (x : IntSrc) : (s.setIntSrc n x).pending = s.pending := rfl
@[simp] theorem State.setIntSrc_time (s : State) (n : Nat) (x : IntSrc) : (s.setIntSrc n x).time = s.time := rfl
@[simp] theorem State.setIntSrc_frees (s : State) (n : Nat) (x : IntSrc) : (s.setIntSrc n x).frees = s.frees := rfl
@[simp] theorem State.setIntSrc_tiles (s : State) (n : Nat) (x : IntSrc) : (s.setIntSrc n x).tiles = s.tiles := rfl
@[simp] theorem State.setIntSrc_regions (s : State) (n : Nat) (x : IntSrc) : (s.setIntSrc n x).regions = s.regions := rfl
@[simp] theorem State.setIntSrc_stk (s : State) (n : Nat) (x : IntSrc) : (s.setIntSrc n x).stk = s.stk := rfl
@[simp] theorem State.setIntSrc_engines (s : State) (n : Nat) (x : IntSrc) : (s.setIntSrc n x).engines = s.engines := rfl
@[simp] theorem State.setIntSrc_sem (s : State) (n : Nat) (x : IntSrc) : (s.setIntSrc n x).sem = s.sem := rfl
@[simp] theorem State.setIntSrc_fns (s : State) (n : Nat) (x : IntSrc) : (s.setIntSrc n x).fns = s.fns := rfl
@[simp] theorem State.setIntSrc_serving (s : State) (n : Nat) (x : IntSrc) : (s.setIntSrc n x).serving = s.serving := rfl
@[simp] theorem State.setIntSrc_tomb (s : State) (n : Nat) (x : IntSrc) : (s.setIntSrc n x).tomb = s.tomb := rfl
@[simp] theorem State.setIntSrc_job (s : State) (n : Nat) (x : IntSrc) : (s.setIntSrc n x).job = s.job := rfl
@[simp] theorem State.setIntSrc_links (s : State) (n : Nat) (x : IntSrc) : (s.setIntSrc n x).links = s.links := rfl
@[simp] theorem State.setIntSrc_lnk (s : State) (n : Nat) (x : IntSrc) : (s.setIntSrc n x).lnk = s.lnk := rfl
@[simp] theorem State.setIntSrc_bands (s : State) (n : Nat) (x : IntSrc) : (s.setIntSrc n x).bands = s.bands := rfl
@[simp] theorem State.setIntSrc_ust (s : State) (n : Nat) (x : IntSrc) : (s.setIntSrc n x).ust = s.ust := rfl
@[simp] theorem State.setIntSrc_power (s : State) (n : Nat) (x : IntSrc) : (s.setIntSrc n x).power = s.power := rfl
@[simp] theorem State.setIntSrc_hostReqs (s : State) (n : Nat) (x : IntSrc) : (s.setIntSrc n x).hostReqs = s.hostReqs := rfl
@[simp] theorem State.setIntSrc_atsCache (s : State) (n : Nat) (x : IntSrc) : (s.setIntSrc n x).atsCache = s.atsCache := rfl
@[simp] theorem State.setIntSrc_atsWaits (s : State) (n : Nat) (x : IntSrc) : (s.setIntSrc n x).atsWaits = s.atsWaits := rfl
@[simp] theorem State.setIntSrc_atsInval (s : State) (n : Nat) (x : IntSrc) : (s.setIntSrc n x).atsInval = s.atsInval := rfl
@[simp] theorem State.setIntSrc_nextReq (s : State) (n : Nat) (x : IntSrc) : (s.setIntSrc n x).nextReq = s.nextReq := rfl
@[simp] theorem State.setIntSrc_hstLink (s : State) (n : Nat) (x : IntSrc) : (s.setIntSrc n x).hstLink = s.hstLink := rfl
@[simp] theorem State.setIntSrc_out (s : State) (n : Nat) (x : IntSrc) : (s.setIntSrc n x).out = s.out := rfl

@[simp] theorem State.setUnit_pending (s : State) (n : Nat) (x : UstEntry) : (s.setUnit n x).pending = s.pending := rfl
@[simp] theorem State.setUnit_time (s : State) (n : Nat) (x : UstEntry) : (s.setUnit n x).time = s.time := rfl
@[simp] theorem State.setUnit_frees (s : State) (n : Nat) (x : UstEntry) : (s.setUnit n x).frees = s.frees := rfl
@[simp] theorem State.setUnit_tiles (s : State) (n : Nat) (x : UstEntry) : (s.setUnit n x).tiles = s.tiles := rfl
@[simp] theorem State.setUnit_regions (s : State) (n : Nat) (x : UstEntry) : (s.setUnit n x).regions = s.regions := rfl
@[simp] theorem State.setUnit_stk (s : State) (n : Nat) (x : UstEntry) : (s.setUnit n x).stk = s.stk := rfl
@[simp] theorem State.setUnit_engines (s : State) (n : Nat) (x : UstEntry) : (s.setUnit n x).engines = s.engines := rfl
@[simp] theorem State.setUnit_sem (s : State) (n : Nat) (x : UstEntry) : (s.setUnit n x).sem = s.sem := rfl
@[simp] theorem State.setUnit_fns (s : State) (n : Nat) (x : UstEntry) : (s.setUnit n x).fns = s.fns := rfl
@[simp] theorem State.setUnit_serving (s : State) (n : Nat) (x : UstEntry) : (s.setUnit n x).serving = s.serving := rfl
@[simp] theorem State.setUnit_tomb (s : State) (n : Nat) (x : UstEntry) : (s.setUnit n x).tomb = s.tomb := rfl
@[simp] theorem State.setUnit_job (s : State) (n : Nat) (x : UstEntry) : (s.setUnit n x).job = s.job := rfl
@[simp] theorem State.setUnit_links (s : State) (n : Nat) (x : UstEntry) : (s.setUnit n x).links = s.links := rfl
@[simp] theorem State.setUnit_lnk (s : State) (n : Nat) (x : UstEntry) : (s.setUnit n x).lnk = s.lnk := rfl
@[simp] theorem State.setUnit_bands (s : State) (n : Nat) (x : UstEntry) : (s.setUnit n x).bands = s.bands := rfl
@[simp] theorem State.setUnit_lodge (s : State) (n : Nat) (x : UstEntry) : (s.setUnit n x).lodge = s.lodge := rfl
@[simp] theorem State.setUnit_power (s : State) (n : Nat) (x : UstEntry) : (s.setUnit n x).power = s.power := rfl
@[simp] theorem State.setUnit_hostReqs (s : State) (n : Nat) (x : UstEntry) : (s.setUnit n x).hostReqs = s.hostReqs := rfl
@[simp] theorem State.setUnit_atsCache (s : State) (n : Nat) (x : UstEntry) : (s.setUnit n x).atsCache = s.atsCache := rfl
@[simp] theorem State.setUnit_atsWaits (s : State) (n : Nat) (x : UstEntry) : (s.setUnit n x).atsWaits = s.atsWaits := rfl
@[simp] theorem State.setUnit_atsInval (s : State) (n : Nat) (x : UstEntry) : (s.setUnit n x).atsInval = s.atsInval := rfl
@[simp] theorem State.setUnit_nextReq (s : State) (n : Nat) (x : UstEntry) : (s.setUnit n x).nextReq = s.nextReq := rfl
@[simp] theorem State.setUnit_hstLink (s : State) (n : Nat) (x : UstEntry) : (s.setUnit n x).hstLink = s.hstLink := rfl
@[simp] theorem State.setUnit_out (s : State) (n : Nat) (x : UstEntry) : (s.setUnit n x).out = s.out := rfl

@[simp] theorem State.send_pending (s : State) (o : Output) : (s.send o).pending = s.pending := rfl
@[simp] theorem State.send_time (s : State) (o : Output) : (s.send o).time = s.time := rfl
@[simp] theorem State.send_frees (s : State) (o : Output) : (s.send o).frees = s.frees := rfl
@[simp] theorem State.send_tiles (s : State) (o : Output) : (s.send o).tiles = s.tiles := rfl
@[simp] theorem State.send_regions (s : State) (o : Output) : (s.send o).regions = s.regions := rfl
@[simp] theorem State.send_stk (s : State) (o : Output) : (s.send o).stk = s.stk := rfl
@[simp] theorem State.send_engines (s : State) (o : Output) : (s.send o).engines = s.engines := rfl
@[simp] theorem State.send_sem (s : State) (o : Output) : (s.send o).sem = s.sem := rfl
@[simp] theorem State.send_fns (s : State) (o : Output) : (s.send o).fns = s.fns := rfl
@[simp] theorem State.send_serving (s : State) (o : Output) : (s.send o).serving = s.serving := rfl
@[simp] theorem State.send_tomb (s : State) (o : Output) : (s.send o).tomb = s.tomb := rfl
@[simp] theorem State.send_job (s : State) (o : Output) : (s.send o).job = s.job := rfl
@[simp] theorem State.send_links (s : State) (o : Output) : (s.send o).links = s.links := rfl
@[simp] theorem State.send_lnk (s : State) (o : Output) : (s.send o).lnk = s.lnk := rfl
@[simp] theorem State.send_bands (s : State) (o : Output) : (s.send o).bands = s.bands := rfl
@[simp] theorem State.send_lodge (s : State) (o : Output) : (s.send o).lodge = s.lodge := rfl
@[simp] theorem State.send_ust (s : State) (o : Output) : (s.send o).ust = s.ust := rfl
@[simp] theorem State.send_power (s : State) (o : Output) : (s.send o).power = s.power := rfl
@[simp] theorem State.send_hostReqs (s : State) (o : Output) : (s.send o).hostReqs = s.hostReqs := rfl
@[simp] theorem State.send_atsCache (s : State) (o : Output) : (s.send o).atsCache = s.atsCache := rfl
@[simp] theorem State.send_atsWaits (s : State) (o : Output) : (s.send o).atsWaits = s.atsWaits := rfl
@[simp] theorem State.send_atsInval (s : State) (o : Output) : (s.send o).atsInval = s.atsInval := rfl
@[simp] theorem State.send_nextReq (s : State) (o : Output) : (s.send o).nextReq = s.nextReq := rfl
@[simp] theorem State.send_hstLink (s : State) (o : Output) : (s.send o).hstLink = s.hstLink := rfl

@[simp] theorem State.setTile_region_keeps (s : State) (n : Nat) (x : Tile) (j : Nat) : (s.setTile n x).region j = s.region j := rfl
@[simp] theorem State.setTile_stack_keeps (s : State) (n : Nat) (x : Tile) (j : Nat) : (s.setTile n x).stack j = s.stack j := rfl
@[simp] theorem State.setTile_fn_keeps (s : State) (n : Nat) (x : Tile) (j : Nat) : (s.setTile n x).fn j = s.fn j := rfl
@[simp] theorem State.setTile_tombola_keeps (s : State) (n : Nat) (x : Tile) (j : Nat) : (s.setTile n x).tombola j = s.tombola j := rfl
@[simp] theorem State.setTile_link_keeps (s : State) (n : Nat) (x : Tile) (j : Nat) : (s.setTile n x).link j = s.link j := rfl
@[simp] theorem State.setTile_band_keeps (s : State) (n : Nat) (x : Tile) (j : Nat) : (s.setTile n x).band j = s.band j := rfl
@[simp] theorem State.setTile_sema_keeps (s : State) (n : Nat) (x : Tile) (j : Nat) : (s.setTile n x).sema j = s.sema j := rfl
@[simp] theorem State.setTile_steward_keeps (s : State) (n : Nat) (x : Tile) (j : Nat) : (s.setTile n x).steward j = s.steward j := rfl
@[simp] theorem State.setTile_intSrc_keeps (s : State) (n : Nat) (x : Tile) (j : Nat) : (s.setTile n x).intSrc j = s.intSrc j := rfl
@[simp] theorem State.setTile_unit_keeps (s : State) (n : Nat) (x : Tile) (j : Nat) : (s.setTile n x).unit j = s.unit j := rfl
@[simp] theorem State.setRegion_tile_keeps (s : State) (n : Nat) (x : Region) (j : Nat) : (s.setRegion n x).tile j = s.tile j := rfl
@[simp] theorem State.setRegion_stack_keeps (s : State) (n : Nat) (x : Region) (j : Nat) : (s.setRegion n x).stack j = s.stack j := rfl
@[simp] theorem State.setRegion_fn_keeps (s : State) (n : Nat) (x : Region) (j : Nat) : (s.setRegion n x).fn j = s.fn j := rfl
@[simp] theorem State.setRegion_tombola_keeps (s : State) (n : Nat) (x : Region) (j : Nat) : (s.setRegion n x).tombola j = s.tombola j := rfl
@[simp] theorem State.setRegion_link_keeps (s : State) (n : Nat) (x : Region) (j : Nat) : (s.setRegion n x).link j = s.link j := rfl
@[simp] theorem State.setRegion_band_keeps (s : State) (n : Nat) (x : Region) (j : Nat) : (s.setRegion n x).band j = s.band j := rfl
@[simp] theorem State.setRegion_sema_keeps (s : State) (n : Nat) (x : Region) (j : Nat) : (s.setRegion n x).sema j = s.sema j := rfl
@[simp] theorem State.setRegion_steward_keeps (s : State) (n : Nat) (x : Region) (j : Nat) : (s.setRegion n x).steward j = s.steward j := rfl
@[simp] theorem State.setRegion_intSrc_keeps (s : State) (n : Nat) (x : Region) (j : Nat) : (s.setRegion n x).intSrc j = s.intSrc j := rfl
@[simp] theorem State.setRegion_unit_keeps (s : State) (n : Nat) (x : Region) (j : Nat) : (s.setRegion n x).unit j = s.unit j := rfl
@[simp] theorem State.setStack_tile_keeps (s : State) (n : Nat) (x : Stack) (j : Nat) : (s.setStack n x).tile j = s.tile j := rfl
@[simp] theorem State.setStack_region_keeps (s : State) (n : Nat) (x : Stack) (j : Nat) : (s.setStack n x).region j = s.region j := rfl
@[simp] theorem State.setStack_fn_keeps (s : State) (n : Nat) (x : Stack) (j : Nat) : (s.setStack n x).fn j = s.fn j := rfl
@[simp] theorem State.setStack_tombola_keeps (s : State) (n : Nat) (x : Stack) (j : Nat) : (s.setStack n x).tombola j = s.tombola j := rfl
@[simp] theorem State.setStack_link_keeps (s : State) (n : Nat) (x : Stack) (j : Nat) : (s.setStack n x).link j = s.link j := rfl
@[simp] theorem State.setStack_band_keeps (s : State) (n : Nat) (x : Stack) (j : Nat) : (s.setStack n x).band j = s.band j := rfl
@[simp] theorem State.setStack_sema_keeps (s : State) (n : Nat) (x : Stack) (j : Nat) : (s.setStack n x).sema j = s.sema j := rfl
@[simp] theorem State.setStack_steward_keeps (s : State) (n : Nat) (x : Stack) (j : Nat) : (s.setStack n x).steward j = s.steward j := rfl
@[simp] theorem State.setStack_intSrc_keeps (s : State) (n : Nat) (x : Stack) (j : Nat) : (s.setStack n x).intSrc j = s.intSrc j := rfl
@[simp] theorem State.setStack_unit_keeps (s : State) (n : Nat) (x : Stack) (j : Nat) : (s.setStack n x).unit j = s.unit j := rfl
@[simp] theorem State.setEngine_tile_keeps (s : State) (n m : Nat) (x : Engine) (j : Nat) : (s.setEngine n m x).tile j = s.tile j := rfl
@[simp] theorem State.setEngine_region_keeps (s : State) (n m : Nat) (x : Engine) (j : Nat) : (s.setEngine n m x).region j = s.region j := rfl
@[simp] theorem State.setEngine_stack_keeps (s : State) (n m : Nat) (x : Engine) (j : Nat) : (s.setEngine n m x).stack j = s.stack j := rfl
@[simp] theorem State.setEngine_fn_keeps (s : State) (n m : Nat) (x : Engine) (j : Nat) : (s.setEngine n m x).fn j = s.fn j := rfl
@[simp] theorem State.setEngine_tombola_keeps (s : State) (n m : Nat) (x : Engine) (j : Nat) : (s.setEngine n m x).tombola j = s.tombola j := rfl
@[simp] theorem State.setEngine_link_keeps (s : State) (n m : Nat) (x : Engine) (j : Nat) : (s.setEngine n m x).link j = s.link j := rfl
@[simp] theorem State.setEngine_band_keeps (s : State) (n m : Nat) (x : Engine) (j : Nat) : (s.setEngine n m x).band j = s.band j := rfl
@[simp] theorem State.setEngine_sema_keeps (s : State) (n m : Nat) (x : Engine) (j : Nat) : (s.setEngine n m x).sema j = s.sema j := rfl
@[simp] theorem State.setEngine_steward_keeps (s : State) (n m : Nat) (x : Engine) (j : Nat) : (s.setEngine n m x).steward j = s.steward j := rfl
@[simp] theorem State.setEngine_intSrc_keeps (s : State) (n m : Nat) (x : Engine) (j : Nat) : (s.setEngine n m x).intSrc j = s.intSrc j := rfl
@[simp] theorem State.setEngine_unit_keeps (s : State) (n m : Nat) (x : Engine) (j : Nat) : (s.setEngine n m x).unit j = s.unit j := rfl
@[simp] theorem State.setFn_tile_keeps (s : State) (n : Nat) (x : Fn) (j : Nat) : (s.setFn n x).tile j = s.tile j := rfl
@[simp] theorem State.setFn_region_keeps (s : State) (n : Nat) (x : Fn) (j : Nat) : (s.setFn n x).region j = s.region j := rfl
@[simp] theorem State.setFn_stack_keeps (s : State) (n : Nat) (x : Fn) (j : Nat) : (s.setFn n x).stack j = s.stack j := rfl
@[simp] theorem State.setFn_tombola_keeps (s : State) (n : Nat) (x : Fn) (j : Nat) : (s.setFn n x).tombola j = s.tombola j := rfl
@[simp] theorem State.setFn_link_keeps (s : State) (n : Nat) (x : Fn) (j : Nat) : (s.setFn n x).link j = s.link j := rfl
@[simp] theorem State.setFn_band_keeps (s : State) (n : Nat) (x : Fn) (j : Nat) : (s.setFn n x).band j = s.band j := rfl
@[simp] theorem State.setFn_sema_keeps (s : State) (n : Nat) (x : Fn) (j : Nat) : (s.setFn n x).sema j = s.sema j := rfl
@[simp] theorem State.setFn_steward_keeps (s : State) (n : Nat) (x : Fn) (j : Nat) : (s.setFn n x).steward j = s.steward j := rfl
@[simp] theorem State.setFn_intSrc_keeps (s : State) (n : Nat) (x : Fn) (j : Nat) : (s.setFn n x).intSrc j = s.intSrc j := rfl
@[simp] theorem State.setFn_unit_keeps (s : State) (n : Nat) (x : Fn) (j : Nat) : (s.setFn n x).unit j = s.unit j := rfl
@[simp] theorem State.setTombola_tile_keeps (s : State) (n : Nat) (x : Tombola) (j : Nat) : (s.setTombola n x).tile j = s.tile j := rfl
@[simp] theorem State.setTombola_region_keeps (s : State) (n : Nat) (x : Tombola) (j : Nat) : (s.setTombola n x).region j = s.region j := rfl
@[simp] theorem State.setTombola_stack_keeps (s : State) (n : Nat) (x : Tombola) (j : Nat) : (s.setTombola n x).stack j = s.stack j := rfl
@[simp] theorem State.setTombola_fn_keeps (s : State) (n : Nat) (x : Tombola) (j : Nat) : (s.setTombola n x).fn j = s.fn j := rfl
@[simp] theorem State.setTombola_link_keeps (s : State) (n : Nat) (x : Tombola) (j : Nat) : (s.setTombola n x).link j = s.link j := rfl
@[simp] theorem State.setTombola_band_keeps (s : State) (n : Nat) (x : Tombola) (j : Nat) : (s.setTombola n x).band j = s.band j := rfl
@[simp] theorem State.setTombola_sema_keeps (s : State) (n : Nat) (x : Tombola) (j : Nat) : (s.setTombola n x).sema j = s.sema j := rfl
@[simp] theorem State.setTombola_steward_keeps (s : State) (n : Nat) (x : Tombola) (j : Nat) : (s.setTombola n x).steward j = s.steward j := rfl
@[simp] theorem State.setTombola_intSrc_keeps (s : State) (n : Nat) (x : Tombola) (j : Nat) : (s.setTombola n x).intSrc j = s.intSrc j := rfl
@[simp] theorem State.setTombola_unit_keeps (s : State) (n : Nat) (x : Tombola) (j : Nat) : (s.setTombola n x).unit j = s.unit j := rfl
@[simp] theorem State.setLink_tile_keeps (s : State) (n : Nat) (x : Link) (j : Nat) : (s.setLink n x).tile j = s.tile j := rfl
@[simp] theorem State.setLink_region_keeps (s : State) (n : Nat) (x : Link) (j : Nat) : (s.setLink n x).region j = s.region j := rfl
@[simp] theorem State.setLink_stack_keeps (s : State) (n : Nat) (x : Link) (j : Nat) : (s.setLink n x).stack j = s.stack j := rfl
@[simp] theorem State.setLink_fn_keeps (s : State) (n : Nat) (x : Link) (j : Nat) : (s.setLink n x).fn j = s.fn j := rfl
@[simp] theorem State.setLink_tombola_keeps (s : State) (n : Nat) (x : Link) (j : Nat) : (s.setLink n x).tombola j = s.tombola j := rfl
@[simp] theorem State.setLink_band_keeps (s : State) (n : Nat) (x : Link) (j : Nat) : (s.setLink n x).band j = s.band j := rfl
@[simp] theorem State.setLink_sema_keeps (s : State) (n : Nat) (x : Link) (j : Nat) : (s.setLink n x).sema j = s.sema j := rfl
@[simp] theorem State.setLink_steward_keeps (s : State) (n : Nat) (x : Link) (j : Nat) : (s.setLink n x).steward j = s.steward j := rfl
@[simp] theorem State.setLink_intSrc_keeps (s : State) (n : Nat) (x : Link) (j : Nat) : (s.setLink n x).intSrc j = s.intSrc j := rfl
@[simp] theorem State.setLink_unit_keeps (s : State) (n : Nat) (x : Link) (j : Nat) : (s.setLink n x).unit j = s.unit j := rfl
@[simp] theorem State.setBand_tile_keeps (s : State) (n : Nat) (x : Bandstand) (j : Nat) : (s.setBand n x).tile j = s.tile j := rfl
@[simp] theorem State.setBand_region_keeps (s : State) (n : Nat) (x : Bandstand) (j : Nat) : (s.setBand n x).region j = s.region j := rfl
@[simp] theorem State.setBand_stack_keeps (s : State) (n : Nat) (x : Bandstand) (j : Nat) : (s.setBand n x).stack j = s.stack j := rfl
@[simp] theorem State.setBand_fn_keeps (s : State) (n : Nat) (x : Bandstand) (j : Nat) : (s.setBand n x).fn j = s.fn j := rfl
@[simp] theorem State.setBand_tombola_keeps (s : State) (n : Nat) (x : Bandstand) (j : Nat) : (s.setBand n x).tombola j = s.tombola j := rfl
@[simp] theorem State.setBand_link_keeps (s : State) (n : Nat) (x : Bandstand) (j : Nat) : (s.setBand n x).link j = s.link j := rfl
@[simp] theorem State.setBand_sema_keeps (s : State) (n : Nat) (x : Bandstand) (j : Nat) : (s.setBand n x).sema j = s.sema j := rfl
@[simp] theorem State.setBand_steward_keeps (s : State) (n : Nat) (x : Bandstand) (j : Nat) : (s.setBand n x).steward j = s.steward j := rfl
@[simp] theorem State.setBand_intSrc_keeps (s : State) (n : Nat) (x : Bandstand) (j : Nat) : (s.setBand n x).intSrc j = s.intSrc j := rfl
@[simp] theorem State.setBand_unit_keeps (s : State) (n : Nat) (x : Bandstand) (j : Nat) : (s.setBand n x).unit j = s.unit j := rfl
@[simp] theorem State.setSema_tile_keeps (s : State) (n : Nat) (x : Sem) (j : Nat) : (s.setSema n x).tile j = s.tile j := rfl
@[simp] theorem State.setSema_region_keeps (s : State) (n : Nat) (x : Sem) (j : Nat) : (s.setSema n x).region j = s.region j := rfl
@[simp] theorem State.setSema_stack_keeps (s : State) (n : Nat) (x : Sem) (j : Nat) : (s.setSema n x).stack j = s.stack j := rfl
@[simp] theorem State.setSema_fn_keeps (s : State) (n : Nat) (x : Sem) (j : Nat) : (s.setSema n x).fn j = s.fn j := rfl
@[simp] theorem State.setSema_tombola_keeps (s : State) (n : Nat) (x : Sem) (j : Nat) : (s.setSema n x).tombola j = s.tombola j := rfl
@[simp] theorem State.setSema_link_keeps (s : State) (n : Nat) (x : Sem) (j : Nat) : (s.setSema n x).link j = s.link j := rfl
@[simp] theorem State.setSema_band_keeps (s : State) (n : Nat) (x : Sem) (j : Nat) : (s.setSema n x).band j = s.band j := rfl
@[simp] theorem State.setSema_steward_keeps (s : State) (n : Nat) (x : Sem) (j : Nat) : (s.setSema n x).steward j = s.steward j := rfl
@[simp] theorem State.setSema_intSrc_keeps (s : State) (n : Nat) (x : Sem) (j : Nat) : (s.setSema n x).intSrc j = s.intSrc j := rfl
@[simp] theorem State.setSema_unit_keeps (s : State) (n : Nat) (x : Sem) (j : Nat) : (s.setSema n x).unit j = s.unit j := rfl
@[simp] theorem State.setSteward_tile_keeps (s : State) (n : Nat) (x : Steward) (j : Nat) : (s.setSteward n x).tile j = s.tile j := rfl
@[simp] theorem State.setSteward_region_keeps (s : State) (n : Nat) (x : Steward) (j : Nat) : (s.setSteward n x).region j = s.region j := rfl
@[simp] theorem State.setSteward_stack_keeps (s : State) (n : Nat) (x : Steward) (j : Nat) : (s.setSteward n x).stack j = s.stack j := rfl
@[simp] theorem State.setSteward_fn_keeps (s : State) (n : Nat) (x : Steward) (j : Nat) : (s.setSteward n x).fn j = s.fn j := rfl
@[simp] theorem State.setSteward_tombola_keeps (s : State) (n : Nat) (x : Steward) (j : Nat) : (s.setSteward n x).tombola j = s.tombola j := rfl
@[simp] theorem State.setSteward_link_keeps (s : State) (n : Nat) (x : Steward) (j : Nat) : (s.setSteward n x).link j = s.link j := rfl
@[simp] theorem State.setSteward_band_keeps (s : State) (n : Nat) (x : Steward) (j : Nat) : (s.setSteward n x).band j = s.band j := rfl
@[simp] theorem State.setSteward_sema_keeps (s : State) (n : Nat) (x : Steward) (j : Nat) : (s.setSteward n x).sema j = s.sema j := rfl
@[simp] theorem State.setSteward_unit_keeps (s : State) (n : Nat) (x : Steward) (j : Nat) : (s.setSteward n x).unit j = s.unit j := rfl
@[simp] theorem State.setIntSrc_tile_keeps (s : State) (n : Nat) (x : IntSrc) (j : Nat) : (s.setIntSrc n x).tile j = s.tile j := rfl
@[simp] theorem State.setIntSrc_region_keeps (s : State) (n : Nat) (x : IntSrc) (j : Nat) : (s.setIntSrc n x).region j = s.region j := rfl
@[simp] theorem State.setIntSrc_stack_keeps (s : State) (n : Nat) (x : IntSrc) (j : Nat) : (s.setIntSrc n x).stack j = s.stack j := rfl
@[simp] theorem State.setIntSrc_fn_keeps (s : State) (n : Nat) (x : IntSrc) (j : Nat) : (s.setIntSrc n x).fn j = s.fn j := rfl
@[simp] theorem State.setIntSrc_tombola_keeps (s : State) (n : Nat) (x : IntSrc) (j : Nat) : (s.setIntSrc n x).tombola j = s.tombola j := rfl
@[simp] theorem State.setIntSrc_link_keeps (s : State) (n : Nat) (x : IntSrc) (j : Nat) : (s.setIntSrc n x).link j = s.link j := rfl
@[simp] theorem State.setIntSrc_band_keeps (s : State) (n : Nat) (x : IntSrc) (j : Nat) : (s.setIntSrc n x).band j = s.band j := rfl
@[simp] theorem State.setIntSrc_sema_keeps (s : State) (n : Nat) (x : IntSrc) (j : Nat) : (s.setIntSrc n x).sema j = s.sema j := rfl
@[simp] theorem State.setIntSrc_unit_keeps (s : State) (n : Nat) (x : IntSrc) (j : Nat) : (s.setIntSrc n x).unit j = s.unit j := rfl
@[simp] theorem State.setUnit_tile_keeps (s : State) (n : Nat) (x : UstEntry) (j : Nat) : (s.setUnit n x).tile j = s.tile j := rfl
@[simp] theorem State.setUnit_region_keeps (s : State) (n : Nat) (x : UstEntry) (j : Nat) : (s.setUnit n x).region j = s.region j := rfl
@[simp] theorem State.setUnit_stack_keeps (s : State) (n : Nat) (x : UstEntry) (j : Nat) : (s.setUnit n x).stack j = s.stack j := rfl
@[simp] theorem State.setUnit_fn_keeps (s : State) (n : Nat) (x : UstEntry) (j : Nat) : (s.setUnit n x).fn j = s.fn j := rfl
@[simp] theorem State.setUnit_tombola_keeps (s : State) (n : Nat) (x : UstEntry) (j : Nat) : (s.setUnit n x).tombola j = s.tombola j := rfl
@[simp] theorem State.setUnit_link_keeps (s : State) (n : Nat) (x : UstEntry) (j : Nat) : (s.setUnit n x).link j = s.link j := rfl
@[simp] theorem State.setUnit_band_keeps (s : State) (n : Nat) (x : UstEntry) (j : Nat) : (s.setUnit n x).band j = s.band j := rfl
@[simp] theorem State.setUnit_sema_keeps (s : State) (n : Nat) (x : UstEntry) (j : Nat) : (s.setUnit n x).sema j = s.sema j := rfl
@[simp] theorem State.setUnit_steward_keeps (s : State) (n : Nat) (x : UstEntry) (j : Nat) : (s.setUnit n x).steward j = s.steward j := rfl
@[simp] theorem State.setUnit_intSrc_keeps (s : State) (n : Nat) (x : UstEntry) (j : Nat) : (s.setUnit n x).intSrc j = s.intSrc j := rfl
@[simp] theorem State.send_tile_keeps (s : State) (o : Output) (j : Nat) : (s.send o).tile j = s.tile j := rfl
@[simp] theorem State.send_region_keeps (s : State) (o : Output) (j : Nat) : (s.send o).region j = s.region j := rfl
@[simp] theorem State.send_stack_keeps (s : State) (o : Output) (j : Nat) : (s.send o).stack j = s.stack j := rfl
@[simp] theorem State.send_fn_keeps (s : State) (o : Output) (j : Nat) : (s.send o).fn j = s.fn j := rfl
@[simp] theorem State.send_tombola_keeps (s : State) (o : Output) (j : Nat) : (s.send o).tombola j = s.tombola j := rfl
@[simp] theorem State.send_link_keeps (s : State) (o : Output) (j : Nat) : (s.send o).link j = s.link j := rfl
@[simp] theorem State.send_band_keeps (s : State) (o : Output) (j : Nat) : (s.send o).band j = s.band j := rfl
@[simp] theorem State.send_sema_keeps (s : State) (o : Output) (j : Nat) : (s.send o).sema j = s.sema j := rfl
@[simp] theorem State.send_steward_keeps (s : State) (o : Output) (j : Nat) : (s.send o).steward j = s.steward j := rfl
@[simp] theorem State.send_intSrc_keeps (s : State) (o : Output) (j : Nat) : (s.send o).intSrc j = s.intSrc j := rfl
@[simp] theorem State.send_unit_keeps (s : State) (o : Output) (j : Nat) : (s.send o).unit j = s.unit j := rfl

end Sys2Proof.Machine
end

