-- ==== Sys2Proof/Tests/Slice0.lean ====
section
/-! SUPPORT. Own tests: ill-formed commands that the check refuses, values worked out by hand from the spec, and for every statement a state and
operands that meet its hypotheses together. -/

namespace Sys2Proof.Tests

open Sys2Proof Sys2Proof.Machine

set_option Elab.async false

/-! ### Ill-formed commands -/

/-- A bundle at a tile that does not exist. -/
def tile96 : Issue := { tile := 96, stream := .A, hdr := 1, dt := 0 }

theorem test_wf_tile : Instr.wellFormed (.bundleNop tile96) = false ∧ Instr.wellFormed (.bundleNop { tile96 with tile := 95 }) = true := by decide
theorem test_wf_tile_event : Instr.wellFormed (.windowConfirm { tile := 96, dt := 1 }) = false ∧
    Instr.wellFormed (.windowConfirm { tile := 95, dt := 1 }) = true := by decide
theorem test_wf_stack : Instr.wellFormed (.act { stack := 8, dt := 0 }) = false ∧ Instr.wellFormed (.act { stack := 7, dt := 0 }) = true := by decide
theorem test_wf_function : Instr.wellFormed (.vfFlr 4097) = false ∧ Instr.wellFormed (.vfFlr 4096) = true := by decide
theorem test_wf_unit : Instr.wellFormed (.unitSleep 104) = false ∧ Instr.wellFormed (.unitSleep 103) = true ∧
    Instr.wellFormed (.unitSleep 0x9000) = false := by decide
theorem test_wf_die : Instr.wellFormed (.odeccRead 0 17 0) = false ∧ Instr.wellFormed (.odeccRead 0 16 0) = true := by decide

/-! ### A tile with an open bundle -/

/-- An open window with nothing in it. -/
def window : Window :=
  { id := 1, bundles := 0, closing := false, closed := false, opened := 0, lastIssue := 0, ckpt := TileCore.zero, undo := []
    items := [], held := [], solo := false, halting := false, lastPc := 0, lastStream := .A }

/-- A bundle of a stream whose one slot is `bit`; 6 for none. -/
def hdrOf (st : Stream) (bit : Nat) : BitVec 64 :=
  BitVec.ofNat 64 ((if bit = 6 then 0 else 2 ^ bit) + (match st with | .A => 0 | .E => 64))
def issueOf (st : Stream) (bit : Nat) : Issue := { tile := 0, stream := st, hdr := hdrOf st bit, dt := 0 }

/-- The bundle at its first slot, with the registers of `core`. -/
def bundleOf (core : TileCore) (u : Issue) : BundleIP :=
  { stream := u.stream, hdr := u.hdr, pc := 64, win := 1, seq := 1, start := core, undoMark := 0, halt := none, done := 0, dests := [], pops := []
    pushes := [], loads := [], branch := none, skip := none, closes := false, solo := false, bytes := 0 }

def tileOf (core : TileCore) (u : Issue) : Tile :=
  { Tile.zero with active := true, sleep := .awake, core := core, cur := some (bundleOf core u), windows := [window] }

/-- Tile 0 with the bundle open. -/
def stateOf (core : TileCore) (u : Issue) : State := State.reset.setTile 0 (tileOf core u)

/-- s3 = 5 and s4 = 7 in both streams. -/
def coreRegs : TileCore :=
  { TileCore.zero with stallA := .run, stallE := .run, sA := [(3, 5), (4, 7)], sE := [(3, 5), (4, 7)] }

/-- Whether a slot of that bundle takes its turn, in a state in which the bundle is open. -/
def goesIn (s : State) (core : TileCore) (u : Issue) (bit : Nat) (i : SlotInfo) : Bool :=
  let s1 := s.beginSlot u bit
  let b := bundleOf core u
  decide (s1.slotBundle u bit = some b) && (s1.stallSlot u b i).isNone && !(i.srcs.any fun k => (s1.tile u.tile).isPending b.seq k) &&
    ((b.count i).clash i).isNone
def goes (core : TileCore) (u : Issue) (bit : Nat) (i : SlotInfo) : Bool := goesIn (stateOf core u) core u bit i

theorem slot_goes_in {s : State} {core : TileCore} {u : Issue} {bit : Nat} {i : SlotInfo} (h : goesIn s core u bit i = true) :
    SlotOk s u bit i (bundleOf core u) := by
  simp only [goesIn, Bool.and_eq_true, decide_eq_true_eq, Bool.not_eq_true', Option.isNone_iff_eq_none] at h
  exact ⟨h.1.1.1, h.1.1.2, h.1.2, h.2⟩
theorem slot_goes {core : TileCore} {u : Issue} {bit : Nat} {i : SlotInfo} (h : goes core u bit i = true) :
    SlotOk (stateOf core u) u bit i (bundleOf core u) := slot_goes_in h

/-- An active loop 2 of the A stream, and one of the E stream. -/
def loopRegs : TileCore :=
  let l : LoopRec := { k := 2, first := 72, endAddr := 80, remaining := 3, exit := false }
  { coreRegs with loopsA := [l], loopsE := [l] }

/-! ### Scalar slots -/

theorem witness_scalar_operation : SlotOk (stateOf coreRegs (issueOf .E 0)) (issueOf .E 0) 0 (regSlot true [35, 36] [37]) (bundleOf coreRegs (issueOf .E 0)) :=
  slot_goes (by decide +kernel)
theorem witness_scalar_move : SlotOk (stateOf loopRegs (issueOf .A 0)) (issueOf .A 0) 0 (regSlot true [] [5]) (bundleOf loopRegs (issueOf .A 0)) ∧
    SlotOk (stateOf loopRegs (issueOf .A 0)) (issueOf .A 0) 0 (regSlot true [64] [5]) (bundleOf loopRegs (issueOf .A 0)) ∧
    SlotOk (stateOf loopRegs (issueOf .A 0)) (issueOf .A 0) 0 (regSlot true [95] [5]) (bundleOf loopRegs (issueOf .A 0)) ∧
    ((bundleOf loopRegs (issueOf .A 0)).start.loops .A).map (·.k) = [2] ∧ (bundleOf coreRegs (issueOf .A 0)).start.loops .A = [] :=
  ⟨slot_goes (by decide +kernel), slot_goes (by decide +kernel), slot_goes (by decide +kernel), by decide, by decide⟩
theorem witness_tile_register : ((slotTile (stateOf coreRegs (issueOf .E 0)) (issueOf .E 0) 0).tilReg 0).isSome = true ∧
    (slotTile (stateOf coreRegs (issueOf .E 0)) (issueOf .E 0) 0).tilReg 1 = none := by decide
theorem witness_address_registers :
    SlotOk (stateOf coreRegs (issueOf .A 0)) (issueOf .A 0) 0 (regSlot true [3] [64]) (bundleOf coreRegs (issueOf .A 0)) ∧
    SlotOk (stateOf coreRegs (issueOf .A 0)) (issueOf .A 0) 0 (regSlot true [] [80]) (bundleOf coreRegs (issueOf .A 0)) ∧
    SlotOk (stateOf coreRegs (issueOf .A 0)) (issueOf .A 0) 0 (regSlot true [] []) (bundleOf coreRegs (issueOf .A 0)) :=
  ⟨slot_goes (by decide +kernel), slot_goes (by decide +kernel), slot_goes (by decide +kernel)⟩
theorem witness_empty_bundle : SlotOk (stateOf coreRegs (issueOf .A 6)) (issueOf .A 6) 6 (regSlot true [] []) (bundleOf coreRegs (issueOf .A 6)) :=
  slot_goes (by decide +kernel)
theorem witness_branch : SlotOk (stateOf coreRegs (issueOf .A 0)) (issueOf .A 0) 0 (regSlot true [3, 4] []) (bundleOf coreRegs (issueOf .A 0)) ∧
    (bundleOf coreRegs (issueOf .A 0)).s 3 ≠ (bundleOf coreRegs (issueOf .A 0)).s 4 ∧
    ((bundleOf coreRegs (issueOf .A 0)).s 3).toInt < ((bundleOf coreRegs (issueOf .A 0)).s 4).toInt ∧
    0 ≤ ((bundleOf coreRegs (issueOf .A 0)).pc : Int) + 8 * (-8#40 : BitVec 40).toInt :=
  ⟨slot_goes (by decide +kernel), by decide, by decide, by decide⟩
/-- Trip counts at both ends of their range, and the first ones outside it. -/
theorem witness_loop : SlotOk (stateOf loopRegs (issueOf .A 0)) (issueOf .A 0) 0 (regSlot true [] []) (bundleOf loopRegs (issueOf .A 0)) ∧
    (∀ l ∈ (bundleOf loopRegs (issueOf .A 0)).start.loops .A, l.k ≠ 1 ∧ (64 : Int) + 8 * 2 ≤ l.endAddr) ∧
    (hdrLength (hdrOf .A 0) : Int) ≤ ((0x2FFFF#40 : BitVec 40).extractLsb' 16 24).toInt ∧ ((0x2FFFF#40 : BitVec 40).toNat : Int) % 2 ^ 16 = 65535 ∧
    ((0x20001#40 : BitVec 40).toNat : Int) % 2 ^ 16 = 1 :=
  ⟨slot_goes (by decide +kernel), by decide, by decide, by decide, by decide⟩
theorem witness_loop_outside :
    let core : TileCore := { coreRegs with sA := [(3, -1), (4, 65536)] }
    SlotOk (stateOf core (issueOf .A 0)) (issueOf .A 0) 0 (regSlot true [3] []) (bundleOf core (issueOf .A 0)) ∧
    SlotOk (stateOf core (issueOf .A 0)) (issueOf .A 0) 0 (regSlot true [4] []) (bundleOf core (issueOf .A 0)) ∧
    ((bundleOf core (issueOf .A 0)).s 3).toInt = -1 ∧ ((bundleOf core (issueOf .A 0)).s 4).toInt = 65536 :=
  ⟨slot_goes (by decide +kernel), slot_goes (by decide +kernel), by decide, by decide⟩
/-- A load queue with room for the push, a store queue with an item for the pop. -/
def queueRegs : TileCore := { coreRegs with queues := [(4, [{ payload := 9, poison := false, readyAt := 0, flips := 0 }])] }
theorem witness_queue_slots :
    SlotOk (stateOf queueRegs (issueOf .A 0)) (issueOf .A 0) 0 { regSlot true [3] [] with pushes := [0] } (bundleOf queueRegs (issueOf .A 0)) ∧
    SlotOk (stateOf queueRegs (issueOf .A 0)) (issueOf .A 0) 0 { regSlot true [] [5] with pops := [4] } (bundleOf queueRegs (issueOf .A 0)) :=
  ⟨slot_goes (by decide +kernel), slot_goes (by decide +kernel)⟩

/-! ### Sync slots -/

theorem witness_sync : SlotOk (stateOf coreRegs (issueOf .E 5)) (issueOf .E 5) 5 (regSlot true [35, 36] []) (bundleOf coreRegs (issueOf .E 5)) ∧
    SlotOk (stateOf coreRegs (issueOf .E 5)) (issueOf .E 5) 5 (regSlot true [36] []) (bundleOf coreRegs (issueOf .E 5)) ∧
    SlotOk (stateOf coreRegs (issueOf .E 5)) (issueOf .E 5) 5 (regSlot true [] []) (bundleOf coreRegs (issueOf .E 5)) ∧
    fld ((bundleOf coreRegs (issueOf .E 5)).s 3).toNat 16 10 < 96 :=
  ⟨slot_goes (by decide +kernel), slot_goes (by decide +kernel), slot_goes (by decide +kernel), by decide⟩
theorem witness_sig_t_beyond : let core : TileCore := { coreRegs with sE := [(3, 0x600000), (4, 7)] }
    SlotOk (stateOf core (issueOf .E 5)) (issueOf .E 5) 5 (regSlot true [35, 36] []) (bundleOf core (issueOf .E 5)) ∧
    fld ((bundleOf core (issueOf .E 5)).s 3).toNat 16 10 = 96 :=
  ⟨slot_goes (by decide +kernel), by decide⟩

/-! ### Loads, stores and copies -/

/-- Entry `h` of the descriptor table: 4,096 bytes of U8 from `base6`, byte 6 of its base address. -/
def entryOf (h : Nat) (base6 : Byte) : Memory :=
  [(64 * h + 6, base6), (64 * h + 7, 9), (64 * h + 8, 9), (64 * h + 0x17, 0x10), (64 * h + 0x28, 1)]
/-- Handle 1: own scratchpad; handle 2: region memory; handle 3: the register files. -/
def descRegs : TileCore := { coreRegs with desc := entryOf 1 0x20 ++ entryOf 2 0x10 }

/-- A load of one item from handle 1, one of a scalar, and a load of two rows of 128 bytes; both ends of the row form's addresses. -/
def longIssue (n : Nat) : Issue := { tile := 0, stream := .A, hdr := BitVec.ofNat 64 (2 ^ (n + 2) + n * 2 ^ 7), dt := 0 }
def rows : LongForm := { areg := 2, queue := 3, spaddr := 0x5FFF00, rowbytes := 127, rowstride := 128, rows := 1 }
theorem witness_loads :
    SlotOk (stateOf descRegs (issueOf .A 3)) (issueOf .A 3) 3
      { regSlot true (memSrcs (bundleOf descRegs (issueOf .A 3)) 0 3840 1 256) [] with loads := [3] } (bundleOf descRegs (issueOf .A 3)) ∧
    ((stateOf descRegs (issueOf .A 3)).beginSlot (issueOf .A 3) 3).accessFailure 0 1 (parseDesc (descRegs.descBytes 1) 0) (.move false) 3840 1 = none ∧
    SlotOk (stateOf descRegs (issueOf .A 3)) (issueOf .A 3) 3 (regSlot true (memSrcs (bundleOf descRegs (issueOf .A 3)) 0 4088 1 8) [5])
      (bundleOf descRegs (issueOf .A 3)) ∧
    ((stateOf descRegs (issueOf .A 3)).beginSlot (issueOf .A 3) 3).scalarFailure 0 1 (parseDesc (descRegs.descBytes 1) 0) false 4088 8 = none ∧
    hdrLong (issueOf .A 3).hdr ≠ 1 :=
  ⟨slot_goes (by decide +kernel), by decide +kernel, slot_goes (by decide +kernel), by decide +kernel, by decide⟩
theorem witness_row_load :
    SlotOk (stateOf coreRegs (longIssue 1)) (longIssue 1) 3 { regSlot true [66] [] with loads := [3] } (bundleOf coreRegs (longIssue 1)) ∧ hdrLong (longIssue 1).hdr = 1 ∧
    longFailure rows (longBase rows (bundleOf coreRegs (longIssue 1))) = none :=
  ⟨slot_goes (by decide +kernel), by decide, by decide⟩
theorem witness_stores :
    SlotOk (stateOf descRegs (issueOf .A 4)) (issueOf .A 4) 4 { regSlot true [64, 1026] [] with pops := [4], bytes := 0 } (bundleOf descRegs (issueOf .A 4)) ∧
    ((stateOf descRegs (issueOf .A 4)).beginSlot (issueOf .A 4) 4).accessFailure 0 2 (parseDesc (descRegs.descBytes 2) 0) (.move true) 0 1 = none ∧
    ((stateOf descRegs (issueOf .A 4)).beginSlot (issueOf .A 4) 4).portFailure 0 2 4 (parseDesc (descRegs.descBytes 2) 0) 0 1 = none ∧
    hdrLong (issueOf .A 4).hdr ≠ 2 :=
  ⟨slot_goes (by decide +kernel), by decide +kernel, by decide +kernel, by decide⟩
theorem witness_row_store :
    SlotOk (stateOf coreRegs (longIssue 2)) (longIssue 2) 4 { regSlot true [66] [] with pops := [7], bytes := 256 } (bundleOf coreRegs (longIssue 2)) ∧
    hdrLong (longIssue 2).hdr = 2 :=
  ⟨slot_goes (by decide +kernel), by decide⟩
/-- A scalar store in the own scratchpad, in region memory, in the last entry of the table, and just past the descriptor's last byte. -/
theorem witness_scalar_store :
    let s1 := (stateOf descRegs (issueOf .A 4)).beginSlot (issueOf .A 4) 4
    let d1 := parseDesc (descRegs.descBytes 1) 0
    let d2 := parseDesc (descRegs.descBytes 2) 0
    let dt := parseDesc (descRegs.descBytes 1023) 0
    SlotOk (stateOf descRegs (issueOf .A 4)) (issueOf .A 4) 4 { regSlot true [64, 2047, 3] [] with bytes := ownBytes 0 dt 8 }
      (bundleOf descRegs (issueOf .A 4)) ∧
    (s1.scalarFailure 0 1023 dt true 65464 8 = none ∧ dt.inFootprint 65464 8 = true ∧ dt.table = true) ∧
    SlotOk (stateOf descRegs (issueOf .A 4)) (issueOf .A 4) 4 { regSlot true [64, 1025, 3] [] with bytes := 8 } (bundleOf descRegs (issueOf .A 4)) ∧
    SlotOk (stateOf descRegs (issueOf .A 4)) (issueOf .A 4) 4 { regSlot true [64, 1026, 3] [] with bytes := 0 } (bundleOf descRegs (issueOf .A 4)) ∧
    (s1.scalarFailure 0 1 d1 true 4088 8 = none ∧ d1.inFootprint (d1.scalarAddr 4088) 8 = true ∧ spaceOf (d1.scalarAddr 4088).toNat = 2 ∧
      fld (d1.scalarAddr 4088).toNat 23 10 = 0) ∧
    (s1.scalarFailure 0 2 d2 true 8 8 = none ∧ d2.inFootprint (d2.scalarAddr 8) 8 = true ∧ spaceOf (d2.scalarAddr 8).toNat = 1) ∧
    s1.scalarFailure 0 1 d1 true 4096 8 = none ∧ d1.inFootprint (d1.scalarAddr 4096) 8 = false ∧
    hdrLong (issueOf .A 4).hdr ≠ 2 :=
  ⟨slot_goes (by decide +kernel), by decide +kernel, slot_goes (by decide +kernel), slot_goes (by decide +kernel), by decide +kernel, by decide +kernel, by decide +kernel, by decide +kernel,
    by decide⟩
theorem witness_copy :
    let s1 := (stateOf descRegs (issueOf .A 4)).beginSlot (issueOf .A 4) 4
    let d1 := parseDesc (descRegs.descBytes 1) 0
    let d2 := parseDesc (descRegs.descBytes 2) 0
    SlotOk (stateOf descRegs (issueOf .A 4)) (issueOf .A 4) 4 { regSlot true [64, 1025, 65, 1026] [] with bytes := 0 } (bundleOf descRegs (issueOf .A 4)) ∧
    d1.fmt = d2.fmt ∧ firstFailure [d1.verify 1 (.copyItems false) 0, d2.verify 2 (.copyItems true) 0, d2.verifyWrite 2, none, s1.verifySpace d1,
      s1.verifySpace d2, s1.streamBad d1 0 1, s1.streamBad d2 0 1] = none ∧ spaceOf d1.base = 2 ∧ hdrLong (issueOf .A 4).hdr ≠ 2 :=
  ⟨slot_goes (by decide +kernel), by decide, by decide +kernel, by decide, by decide⟩

/-! ### Vector and matrix slots -/

/-- Two lanes: v2 := v0 op v1. -/
def lanes : VSlot := { dst := 2, src1 := 0, src2 := 1, src3 := 3, count := 256, handle := 0, md := 0 }
/-- The core with an engine at rest, and with a full waiting list but one place. -/
def waitRegs : TileCore :=
  let w : VWait := { op := .mov, slot := lanes, srcs := [], desc := [], win := 0, seq := 0, pc := 0 }
  { descRegs with vwait := [w, w, w] }
def vectorGoes (core : TileCore) (op : VOp) (v : VSlot) : Bool :=
  let u := issueOf .E 1
  goes core u 1 (vectorInfo u op v (bundleOf core u)) &&
    (((stateOf core u).beginSlot u 1).vectorFailure u op v (parseDesc (core.descBytes v.handle.val) 0)).isNone &&
    (slotTile (stateOf core u) u 1).vectorFree && (slotTile (stateOf core u) u 1).vectorReady op
theorem witness_vector_lanes : ([.fadd, .fsub, .fmul, .ffma, .fmin, .fmax, .fabs, .fneg, .mov, .cmp, .sel, .iadd, .isub, .imul, .saddS, .ssubS, .saddU,
    .imin, .imax, .uminI, .umaxI, .andB, .orB, .xorB, .shl, .shr, .sar, .cvtF, .cvtI, .iota, .curve 0, .curve 7] : List VOp).all
      (fun op => vectorGoes coreRegs op lanes) = true := by decide +kernel
theorem witness_vector_reductions : ([.redF .sum, .redF .max, .redF .min, .redS .sum, .redS .max, .redCnt, .redMaxI] : List VOp).all
    (fun op => vectorGoes coreRegs op { lanes with dst := 0x25 }) = true := by decide +kernel
theorem witness_vector_formats : vectorGoes coreRegs (.unpk 11) { lanes with src1 := 0x40 } = true ∧
    vectorGoes coreRegs (.pack 1) { lanes with dst := 0x40 } = true ∧ vectorGoes descRegs .cload { lanes with handle := 1 } = true := by decide +kernel
theorem witness_vector_waits : vectorGoes waitRegs .fadd lanes = true ∧ (slotTile (stateOf waitRegs (issueOf .E 1)) (issueOf .E 1) 1).core.vwait.length = 3 := by
  decide +kernel

/-- An operation over registers in its busy cycle, over 1 and over 256 elements. -/
theorem witness_vector_act :
    let act (count : BitVec 16) : Act := { start := 40, win := 1, seq := 1, pc := 64, stream := .E, kind := .vector .iadd { lanes with count := count } [] [[], []] [] }
    let io : CycleIO := { tile := { (tileOf coreRegs (issueOf .E 1)) with cycle := 40 }, popped := [], pushes := [] }
    io.tile.cycle = (act 1).start ∧ VOp.iadd.reduces = false ∧ selOf lanes.dst = .vreg 2 ∧ (1 ≤ (1#16 : BitVec 16).toNat ∧ (256#16 : BitVec 16).toNat ≤ 256) ∧
    vSources .iadd lanes = [.vreg 0, .vreg 1] ∧ ([[], []] : List (List (Lane × Bool))).length = (vSources .iadd lanes).length := by decide +kernel

/-- Handle 4: a stationary matrix of 16 × 16 S8 elements. -/
def matRegs : TileCore :=
  { coreRegs with desc := [(256 + 6, 0x20), (256 + 7, 8), (256 + 8, 10), (256 + 0x16, 16), (256 + 0x19, 16), (256 + 0x28, 1), (256 + 0x2C, 16)] }
def load4 : MSlot := { ha := 4, bsel := 0x40, hb := 1, acc := 0, accmode := 0, dsel := 0 }
def matWait : TileCore :=
  let w (op : MOp) : MWait := { op := op, slot := load4, desc := [], win := 0, seq := 0, pc := 0 }
  { matRegs with mwait := [w (.mld false), w (.mdrain false)] }
def matrixGoes (core : TileCore) (op : MOp) (m : MSlot) (ahead : Bool) : Bool :=
  let u := issueOf .E 2
  let t := slotTile (stateOf core u) u 2
  goes core u 2 (matrixInfo u op m t (bundleOf core u)) &&
    (((stateOf core u).beginSlot u 2).matrixFailure u op m (parseDesc (core.descBytes m.ha.val) 0) (parseDesc (core.descBytes m.hb.toNat) 0)).isNone &&
    (t.matrixAhead op == ahead) && (ahead || (t.matrixCanStart (matrixWait op m (bundleOf core u)) && t.matrixReady (matrixWait op m (bundleOf core u))))
theorem witness_matrix : matrixGoes matRegs (.mld true) load4 false = true ∧
    matrixGoes matRegs (.mdrain true) { load4 with accmode := 2, dsel := 0 } false = true ∧
    matrixGoes matWait (.mld false) load4 true = true ∧ matrixGoes matWait (.mdrain false) { load4 with accmode := 2 } true = true := by decide +kernel
/-- The first buffer holds handle 4. -/
theorem witness_mmul :
    let u := issueOf .E 2
    let buf : StatBuf := { StatBuf.zero with loaded := true, handle := 4, fmt := 8, k := 16, n := 16 }
    let s := State.reset.setTile 0 { tileOf matRegs u with buf0 := buf }
    let t := slotTile s u 2
    let w := matrixWait (.mmul false 5) load4 (bundleOf matRegs u)
    SlotOk s u 2 (matrixInfo u (.mmul false 5) load4 t (bundleOf matRegs u)) (bundleOf matRegs u) ∧
    (s.beginSlot u 2).matrixFailure u (.mmul false 5) load4 (parseDesc (matRegs.descBytes 4) 0) (parseDesc (matRegs.descBytes 1) 0) = none ∧
    t.matrixAhead (.mmul false 5) = false ∧ t.matrixCanStart w = true ∧ t.matrixReady w = true :=
  ⟨slot_goes_in (by decide +kernel), by decide +kernel, by decide +kernel, by decide +kernel, by decide +kernel⟩

/-! ### Events of a tile -/

/-- Tile 0 with an open window and nothing else, and the state of it. -/
def tile0 : Tile := { tileOf coreRegs (issueOf .A 0) with cur := none }
def stateAt (x : Tile) : State := State.reset.setTile 0 x
def at0 : TileAt := { tile := 0, dt := 0 }

theorem witness_vector_start :
    let x := ((stateAt { tile0 with core := waitRegs }).advanceTile 0 0).tile 0
    x.runs = true ∧ x.mode = .normal ∧ (x.core.vwait.map (·.op)).head? = some .mov ∧ x.vectorFree = true ∧ x.vectorReady .mov = true := by decide +kernel
theorem witness_matrix_start :
    let w (op : MOp) : MWait := { op := op, slot := load4, desc := [], win := 0, seq := 0, pc := 0 }
    let x (op : MOp) : Tile := { tile0 with core := { matRegs with mwait := [w op] } }
    (x (.mld true)).runs = true ∧ (x (.mld true)).matrixCanStart (w (.mld true)) = true ∧ (x (.mmul true 8)).matrixCanStart (w (.mmul true 8)) = true ∧
      (x (.mmul true 8)).matrixReady (w (.mmul true 8)) = true ∧ (x (.mdrain false)).matrixCanStart (w (.mdrain false)) = true := by decide +kernel
/-- The load of an earlier window, one item of two. -/
def load2 : LoadIP :=
  let it : QItem := { payload := 1, poison := false, readyAt := 0, flips := 0 }
  { id := 7, win := 0, seq := 1, q := 3, pc := 64, nextAt := 0, cls := 7, rate := 2, pushed := 0, count := 2, items := [it, it], desc := [], index := 0, data := []
    poison := [], missing := [] }
theorem witness_load_push : let x := { tile0 with loads := [load2] }
    x.runs = true ∧ x.mode = .normal ∧ (load2.nextItem 0).isSome = true ∧ load2.nextAt ≤ x.cycle ∧ ([] : List Nat).contains load2.q = false ∧
      (x.loads.find? fun y => y.q == load2.q && decide (y.pushed < y.count)).map (·.id) = some load2.id ∧ mget 0 x.pathFree load2.cls ≤ x.cycle ∧
      (x.core.queue load2.q).length < 16 ∧ x.newest = 1 ∧ load2.win < 1 := by decide +kernel
/-- Two ranges that hold an address, one that does not; an address that no range holds; slips of each kind. -/
theorem witness_slip_counts :
    let r (a b : Nat) : Reg64 := BitVec.ofNat 64 (a + 2 ^ 23 + b * 2 ^ 32)
    let t : Tile := { tile0 with krange := [(0, r 0 63), (2, r 64 128), (5, r 64 64)], slips := [(15, { SlipCnt.zero with count := 3 })], slipKind := 0xFFFF }
    let x (k pc : Nat) : SlipRec := { kind := k, stream := .E, pc := pc, win := 0 }
    mwf SlipCnt.zero t.slips = true ∧ t.kernelOf 64 = 2 ∧ t.kernelOf 129 = 15 ∧
    (mget SlipCnt.zero (t.countSlip (x 1 64)).slips 2).count = 1 ∧ (t.countSlip (x 1 64)).slipKind = 0xFFFF ∧
    (mget SlipCnt.zero (t.countSlip (x 3 129)).slips 15).count = 4 ∧ (t.countSlip (x 3 129)).slipKind = 0x10000FFFF := by decide +kernel
/-- A window idle for exactly 1,024 cycles; a closed window with nothing left to do; an effect at the head of the releases; a rollback that ends. -/
theorem witness_window_events :
    let idle : Tile := { tile0 with cycle := 1024 }
    let done : Tile := { tile0 with windows := [{ window with closed := true, held := [(3, { origin := { stream := .A, pc := 64 }, eff := .sig 0 1 })] }] }
    let out : Tile := { tile0 with releaseQ := [{ origin := { stream := .A, pc := 64 }, eff := .bell 5 }] }
    let back : Tile := { tile0 with mode := .rollback 70, cycle := 70 }
    ((idle.openWin.map (·.lastIssue)) = some 0 ∧ 0 + 1024 ≤ idle.cycle) ∧
    (done.actionsDone 1 = true ∧ done.runs = true ∧ done.mode = .normal ∧ done.slipN = 0) ∧
    (((stateAt out).setTile 0 { out.acknowledge with releaseQ := [] }).releaseOne 0 { origin := { stream := .A, pc := 64 }, eff := .bell 5 }).isSome = true ∧
    (back.mode = .rollback 70 ∧ 70 ≤ back.cycle) := by decide +kernel
theorem witness_halts :
    let x : Tile := { tile0 with mode := .conservative, core := { coreRegs with stallA := .qwait 4 2, stallE := .ended } }
    let z : Tile := { x with core := { x.core with stallA := .ended, stallE := .qwait 0 1 } }
    let y : Tile := { tile0 with refusals := [{ reason := 0x40, streamE := false, pc := 64, detail := 1025 }] }
    (x.runs = true ∧ x.stuck .A = true ∧ x.stuck .E = true ∧ x.waitOf .A = some (4, 0) ∧ x.fed = false ∧ x.moving = false) ∧
    (z.stuck .A = true ∧ z.stuck .E = true ∧ z.waitOf .A = none ∧ z.waitOf .E = some (0, 0) ∧ z.fed = false ∧ z.moving = false) ∧
    (y.refusals = [{ reason := 0x40, streamE := false, pc := 64, detail := 1025 }] ∧ y.halt.reason = 0) := by decide +kernel
theorem witness_arrivals :
    let m : InMsg := { addr := 2 * 2 ^ 52, bs := [1], mask := 0xFF, poison := false, acid := some 3, tile := 1, effId := 0 }
    let h : ThrSig := { ac := 3, thr := 64, sem := 5, amount := 1, scope := 1, party := 2, src := .tile 1 { stream := .A, pc := 64 }, effId := 0 }
    let f : FenceRec := { stream := .A, scope := 2, win := 0, issued := 0 }
    let x : Tile := { tile0 with inbox := [m], thrPort := [h], notices := [(.A, 2, 5, 1)], fences := [f] }
    let p : InMsg := { m with tile := peerSender, effId := 7 * 2 ^ 20 + 5 }
    (m.tile ≠ peerSender ∧ ({ x with inbox := [p] } : Tile).inbox[0]? = some p ∧ (∀ e ∈ listDrop [p] 0, ¬ (e.tile = peerSender ∧ e.effId = p.effId))) ∧
    (x.sleep = .awake ∧ x.inbox[0]? = some m ∧ m.mask = 0xFF ∧ m.acid = some 3 ∧ x.inbox.take 0 = []) ∧
    (x.thrPort[0]? = some h ∧ x.thr.length < 16) ∧ (x.notices.length = 1 ∧ x.fences = [f] ∧ x.fenceHolds f = true) := by decide +kernel

/-! ### Units -/

theorem witness_units_wake :
    let l := (State.reset.unit 0).logical
    let s := (((State.reset.setTile l { Tile.zero with sleep := .waking }).setEngine 0 0 { Engine.zero with sleep := .waking }).setRegion 0
      { Region.zero with cpySleep := .waking, hdmaSleep := .waking })
    l < 96 ∧ (s.tile l).sleep = .waking ∧ (s.engine 0 0).sleep = .waking ∧ (s.region 0).cpySleep = .waking ∧ (s.region 0).hdmaSleep = .waking := by
  decide +kernel
theorem witness_units_sleep :
    let l := (State.reset.unit 0).logical
    let s := ((State.reset.setTile l { Tile.zero with sleep := .awake }).setRegion 0 { Region.zero with cpySleep := .awake, hdmaSleep := .awake })
    let e := (State.reset.setEngine 7 63 { Engine.zero with sleep := .awake }).setStack 7 { Stack.zero with cycle := 1200 }
    ((s.tile l).sleep = .awake ∧ (s.tile l).noWork = true) ∧ ((s.region 0).cpySleep = .awake ∧ (s.region 0).copyIdle = true) ∧
    ((s.region 0).hdmaSleep = .awake ∧ (s.region 0).hdmaIdle = true) ∧
    (let s1 := e.reachStk { stack := 7, dt := 0 }
     (s1.stack 7).prg = none ∧ (s1.stack 7).startQ = [] ∧ (s1.engine 7 63).sleep = .awake ∧ (s1.engine 7 63).lastUse + 1200 ≤ (s1.stack 7).cycle) := by
  decide +kernel

/-! ### Copy engines and atomics -/

/-- A command item: bytes by their offsets. -/
def itemOf (l : List (Nat × Nat)) : BitVec 2048 := BitVec.ofNat 2048 (l.foldl (fun acc e => acc + e.2 * 256 ^ e.1) 0)
/-- A copy of U8 elements in region memory from 0 to `to_` as format `fmt`, with extent byte `e` at `at_`. -/
def copyOf (to_ fmt at_ e : Nat) : RegCmd :=
  { tile := 3, handle := 0, staged := false, effId := 0, origin := { stream := .A, pc := 64 }
    item := itemOf [(6, 0x10), (7, 9), (8, 9), (at_, e), (0x28, 1), (64, to_), (64 + 6, 0x10), (64 + 7, fmt), (64 + 8, 9), (64 + at_, e), (64 + 0x28, 1)
                   , (0x80, 0x88), (0x81, 0xC6), (0x82, 0xFA)] }
def regionWith (r : Region) : State := State.reset.setRegion 2 r
/-- A copy of 64 bytes to 128 bytes further on does not overlap; onto itself in another format it is staged; 2 MiB are refused. -/
theorem witness_copy_accept :
    let held (c : RegCmd) : Region := { Region.zero with cpyPort := [c] }
    ((regionWith (held (copyOf 128 9 0x16 64))).region 2).cpyHeld < 32 ∧ (copyOf 128 9 0x16 64).copy.overlaps = false ∧
    ((copyOf 0 8 0x16 64).copy.overlaps = true ∧ (copyOf 0 8 0x16 64).copy.isMove = false ∧ (copyOf 0 8 0x16 64).copy.size ≤ 1048576) ∧
    ((copyOf 0 8 0x18 16).copy.overlaps = true ∧ (copyOf 0 8 0x18 16).copy.isMove = false ∧ (copyOf 0 8 0x18 16).copy.size = 1048576) ∧
    ((copyOf 0 8 0x18 32).copy.overlaps = true ∧ (copyOf 0 8 0x18 32).copy.isMove = false ∧ 1048576 < (copyOf 0 8 0x18 32).copy.size) := by
  decide +kernel
theorem witness_copy_start :
    let c := copyOf 128 9 0x16 64
    let r := (regionWith { Region.zero with cpyQ := [c], cpySleep := .awake }).region 2
    let q := (regionWith { Region.zero with cpyRun := some (c, c.copy.cycles false), cpySleep := .awake }).region 2
    r.cpyQ = [c] ∧ r.cpyRun = none ∧ r.cpySleep = .awake ∧ State.reset.unitUp (unitId 2 2) = true ∧ q.cpyRun.isSome = true ∧
    State.reset.portOpen c.copy.dst.base = true ∧ State.reset.stacksAnswered (unitId 2 2) = true ∧
    State.reset.stacksOpen (c.copy.src.granules ++ c.copy.dst.granules) = true ∧ (byteField c.copy.item 0x84 1).testBit 2 = false ∧
    (byteField ({ c with item := c.item + itemOf [(0x84, 4)] }).copy.item 0x84 1).testBit 2 = true := by decide +kernel
theorem witness_atomics :
    let a : AtomRec := { tile := 3, addr := 2 ^ 52, op := 4, width := 3, ret := true, operand := 9, raddr := 0, racid := 0, effId := 0 }
    let r := (regionWith { Region.zero with atomPort := [copyOf 0 9 0x16 64], atoms := [a, { a with addr := 2 ^ 52 + 64 }] }).region 2
    r.atomPort.length = 1 ∧ r.atoms[1]?.isSome = true ∧ (∀ b ∈ r.atoms.take 1, b.addr / 64 ≠ (2 ^ 52 + 64) / 64) ∧ State.reset.portOpen (2 ^ 52 + 64) = true := by decide +kernel
/-- R323: a minimum and a wrapped sum of 32-bit values. -/
theorem test_atomic_values : atomValue 4 0 7 9 = 7 ∧ atomValue 1 0 0xFFFFFFFF 2 = 1 ∧ atomValue 6 1 3 8 = 8 := by decide +kernel

/-! ### Stacks -/

def stk0 : StkAt := { stack := 0, dt := 0 }
def cmd0 : StartCmd := { tile := 3, entry := 0, mask := 0xFFFFFFFFFFFFFFFF, p0 := 0, p1 := 0, p2 := 0, p3 := 0, tag := 7, effId := 0 }
def prg0 : Programme :=
  { cmd := cmd0, row := 0, loops := [], lastIssue := 0, doneAt := 0, ended := false, failedEng := 0, fetched := 1, configured := 1, walks := [], drains := [] }
/-- A placed window that begins at address 0 with page 0 of stack 0, and a page pool. -/
def placed : WinRec :=
  { valid := true, kind := 2, rmostly := false, base := 0, pbase := 0, npage := 64, stack := 0, scount := 1, isModel := false, keep := false, save := false }
/-- Stack 0 at cycle 1,000 with an awake engine 0, page 1 of bank 1 open there, a root record 0, a running job and its quota. -/
def stackState (k : Stack) : State :=
  let j := { Job.zero with state := 2, owner := 1, windows := [placed] }
  let sem := { SemUnit.zero with quota := [(1, (0, 64))] }
  (({ State.reset with job := j, sem := sem }).setStack 0 k).setEngine 0 0 { Engine.zero with sleep := .awake }
def stack0 : Stack :=
  { Stack.zero with cycle := 1000, prg := some prg0, banks := [(1, { Bank.zero with page := some 1, actAt := 1, used := true })], mem := [(2, 0x20)]
                    valid := [0], refAt := [(0, 100000)] }
/-- Whether a programme row of these bytes can issue. -/
def rowGoes (op : Nat) (bytes : List (Nat × Nat)) : Bool :=
  let k : Stack := { stack0 with prgMem := bytes.foldl (fun m e => mput 0 m e.1 (BitVec.ofNat 8 e.2)) [(0, 1), (8, BitVec.ofNat 8 op)] }
  let s := (stackState k).reachStk stk0
  let x := rowCtx 0 (s.stack 0) prg0 ((s.stack 0).row 0)
  (s.stack 0).prg == some prg0 && (s.stack 0).refusedRow.isNone && s.stackUp 0 && (x.r.op == op) && (s.rowError x).isNone && s.enginesAwake x && x.due &&
    s.partsFree x && !s.refuses x && !x.targets.isEmpty && !x.waitOnly && !x.refreshFirst && !(s.stack 0).preempt
theorem witness_rows : rowGoes 0x00 [] = true ∧ rowGoes 0x01 [(16, 2)] = true ∧ rowGoes 0x02 [(16, 1)] = true ∧ rowGoes 0x03 [] = true ∧
    rowGoes 0x10 [(25, 1)] = true ∧ rowGoes 0x11 [(16, 1)] = true ∧ rowGoes 0x12 [(13, 8), (16, 1), (28, 0xF0), (29, 1)] = true ∧ rowGoes 0x13 [] = true ∧
    rowGoes 0x14 [(22, 0x10)] = true ∧ rowGoes 0x18 [(16, 1), (24, 1)] = true ∧ rowGoes 0x20 [] = true ∧ rowGoes 0x21 [] = true ∧
    rowGoes 0x30 [(12, 63)] = true ∧ rowGoes 0x31 [(24, 1)] = true ∧ rowGoes 0x32 [] = true := by decide +kernel
/-- The same rows for no engine have only their wait. -/
theorem witness_rows_that_wait : ([(0x01, [(16, 2)]), (0x02, [(16, 1)]), (0x03, []), (0x10, [(25, 1)]), (0x11, [(16, 1)])
    , (0x12, [(13, 8), (16, 1), (28, 0xF0), (29, 1)]), (0x13, []), (0x14, [(22, 0x10)]), (0x20, [])
    , (0x21, [])] : List (Nat × Memory)).all (fun e =>
    let op := e.1
    let k : Stack := { stack0 with prgMem := (8, BitVec.ofNat 8 op) :: e.2 }
    let s := (stackState k).reachStk stk0
    let x := rowCtx 0 (s.stack 0) prg0 ((s.stack 0).row 0)
    (s.stack 0).prg == some prg0 && (s.stack 0).refusedRow.isNone && !(s.stack 0).preempt && s.stackUp 0 && (x.r.op == op) && (s.rowError x).isNone &&
      x.due && x.waitOnly) = true := by decide +kernel
theorem witness_banks : (stack0.prg.isSome = true ∧ mwf Bank.zero stack0.banks = true) ∧ (0 : Nat) ∈ [0] := by decide +kernel

theorem witness_start_commands :
    let a : Nat × Bool × Nat × BitVec 2048 × Nat := (3, true, 8191 * 32, 1, 0)
    let k : Stack := { Stack.zero with startPort := [cmd0] }
    let q : Stack := { Stack.zero with startQ := [cmd0] }
    let m : Stack := { Stack.zero with aperPort := [a] }
    let v : Stack := { Stack.zero with aperPort := [(3, false, 0x40000 - 256, 1, 0)] }
    ((k.startQ.length < 16) ∧ (∀ b ∈ k.aperPort, b.1 = cmd0.tile → cmd0.effId ≤ b.2.2.2.2)) ∧
    (q.prg = none ∧ q.startQ = [cmd0] ∧ q.kvGo = false ∧ (State.reset.setStack 0 q).stackUp 0 = true) ∧
    m.nextAperture true = some a ∧ (v.nextAperture false).isSome = true := by decide +kernel
theorem witness_row_reissue :
    let k : Stack := { stack0 with refusedRow := some (0, 1), prgMem := [(0, 1), (8, 0x12), (13, 8), (16, 1), (28, 0xF0), (29, 1)] }
    let s := (stackState k).reachStk stk0
    let x := rowCtx 0 (s.stack 0) prg0 ((s.stack 0).row 0)
    (s.stack 0).refusedRow = some (0, 1) ∧ x.r.op = 0x12 ∧ (s.stack 0).preempt = false ∧ x.refreshFirst = false ∧ s.refuses x = false ∧ s.partsFree x = true := by decide +kernel
theorem witness_programme_end :
    let p := { prg0 with ended := true, doneAt := 1000 }
    let s := (stackState { stack0 with prg := some p }).reachStk stk0
    (s.stack 0).prg = some p ∧ p.doneAt ≤ (s.stack 0).cycle ∧ (s.stack 0).refusedRow = none ∧ (s.stack 0).kvGo = false ∧
    s.drainsFlying 0 = false := by decide +kernel

/-- A read of page 3 (bank 3), and one of page 33 of bank 1, where a programme holds page 1 open. -/
def accAt (page : Nat) : StkAcc :=
  { addr := page * 2048, kind := .read 64, src := .host 0, reached := some 500, tries := 0, cause := 0, retryAt := 0 }
theorem witness_ordinary :
    let k : Stack := { stack0 with inflight := [accAt 3, accAt 33] }
    let s := (stackState k).reachStk stk0
    s.stackUp 0 = true ∧ (s.stack 0).held = [] ∧ (s.stack 0).inflight[1]? = some (accAt 33) ∧
    (∀ z ∈ (s.stack 0).inflight.take 1, z.addr / 32 ≠ (accAt 33).addr / 32) ∧ (s.stack 0).holds (accAt 33).addr = true ∧
    (s.stack 0).holds (accAt 3).addr = false ∧ (s.stack 0).preempt = false ∧ (s.stack 0).ordReady (accAt 3).addr false = true ∧
    (s.stack 0).behind [] (accAt 3) = false := by decide +kernel
theorem witness_retries :
    let k : Stack := { stack0 with held := [{ accAt 3 with cause := 1 }, { accAt 4 with cause := 2, retryAt := 1000 }, { accAt 5 with cause := 3 }] }
    k.held[0]?.map (·.cause) = some 1 ∧ k.holds (accAt 3).addr = false ∧ k.held[1]?.map (·.retryAt) = some k.cycle ∧ k.holds (accAt 4).addr = false ∧
    k.held[2]?.map (·.cause) = some 3 ∧ k.ordReady (accAt 3).addr false = true ∧ k.ordReady (accAt 4).addr false = true := by decide +kernel
theorem witness_preempt :
    let k : Stack := { stack0 with held := [accAt 33], cycle := 500 + 0x960 + 1 }
    let y : Stack := { stack0 with preempt := true, preemptAt := 400, held := [accAt 33] }
    (accAt 33 ∈ k.held ∧ 500 + min 2400 k.holdMax.toNat < k.cycle ∧ k.preempt = false ∧ k.prg.isSome = true) ∧
    (y.preempt = true ∧ (∀ z ∈ y.held, z.cause = 0 → z.reached = some 500 ∧ y.preemptAt < 500)) := by decide +kernel
theorem witness_failed_attempts : let x := accAt 3
    ({ x with cause := 1, tries := 2 } : StkAcc).tries < 3 ∧ ({ x with cause := 1, tries := 3 } : StkAcc).kind = .read 64 ∧ x.src = .host 0 ∧
    ({ x with cause := 2, tries := 3 } : StkAcc).tries < 4 ∧ ({ x with cause := 2, tries := 4 } : StkAcc).tries = 4 := by decide +kernel

theorem witness_refresh :
    let idle : Stack := { Stack.zero with cycle := 10, refAt := [(63, 10)] }
    let busy : Stack := { stack0 with refAt := [(0, 1000)], refBank := [(0, 1)], tables := [] }
    (mget 0 idle.refAt 63 ≤ idle.cycle ∧ (idle.bank 63 (mget 0 idle.refBank 63)).page = none ∧ idle.runs.length = 0) ∧
    (mget 0 busy.refAt 0 ≤ busy.cycle ∧ (busy.bank 0 (mget 0 busy.refBank 0)).page.isSome = true ∧ busy.prg.isSome = true) ∧
    idle.roundAt ≤ idle.cycle ∧ ((State.reset.unit (unitId 1 63)).allowed = 2) := by decide +kernel
/-- T_REFMAX of 8 lets a refresh be postponed while 7 are owed. -/
theorem witness_refresh_postponed : let busy : Stack := { stack0 with tables := [(18, 8)], refOwed := [(0, 7)] }
    mget 0 busy.refOwed 0 + 1 ≤ busy.fig 18 := by decide +kernel
theorem witness_pages :
    let fill : Stack := { Stack.zero with filling := [(63 * 524288 + 5, 10)], cycle := 10 }
    let clr : Stack := { Stack.zero with clrGo := true, clrMask := 1, clrNpage := 0, clrPos := 1 }
    let scrub : Stack := { Stack.zero with scrubInt := 3018, scrubQ := [5], scrubAt := 10, cycle := 10 }
    let worn : Stack := { Stack.zero with repairWant := [524288 + 33], spareUsed := [(33, 3)] }
    ((63 * 524288 + 5, 10) ∈ fill.filling ∧ 10 ≤ fill.cycle ∧ fill.clrLate = []) ∧ (clr.clrGo = true ∧ clr.clearTotal ≤ clr.clrPos) ∧ Stack.zero.clrGo = false ∧
    (scrub.scrubInt ≠ 0 ∧ scrub.scrubAt ≤ scrub.cycle ∧ (State.reset.setStack 0 scrub).stackUp 0 = true ∧ scrub.holds (5 * 2048) = false ∧
      scrub.nextVisit = some 5 ∧ scrub.ordReady (5 * 2048) false = true ∧ scrub.held = []) ∧
    (worn.prg = none ∧ worn.kvGo = false ∧ 1 * 524288 + 33 ∈ worn.repairWant ∧ mget 0 worn.spareUsed (1 * 32 + 33 % 32) < 4) := by decide +kernel
theorem witness_kvcopy :
    let s := stackState { stack0 with prg := none, attCfg := 0, kvSrc := 0, kvDst := 1 }
    let g := stackState { stack0 with prg := none, attCfg := 0, kvSrc := 0, kvDst := 1, kvGo := true, kvUntil := 900 }
    s.pageOfId 0 0 = some (0, 0, 0) ∧ s.pageOfId 0 1 = some (0, 1, 0) ∧ (s.stack 0).kvGo = false ∧
    (g.stack 0).kvGo = true ∧ (g.stack 0).preempt = false ∧ (g.stack 0).kvUntil ≠ 0 ∧ (g.stack 0).kvUntil ≤ (g.stack 0).cycle := by decide +kernel

/-! ### Semaphores and doorbells -/

/-- A signal of +1 by tile 3 and a wait and an obs of 5 by tile 4, in a job of function 1 with the semaphores 10 to 20. -/
def semState (value : Nat) (m : SemMsg) : State :=
  { State.reset with
    job := { Job.zero with state := 2, owner := 1 }
    sem := { SemUnit.zero with quota := [(1, (10, 11))], net := [m], sems := [(20, { Sem.zero with value := value })] } }
def sig20 : SemMsg := .signal (.tile 3 { stream := .A, pc := 64 }) 0x0003 1 20 1 0
theorem witness_signal : let s := semState 16777214 sig20
    s.netFirst 0 = some sig20 ∧ s.quotaOk (.tile 3 { stream := .A, pc := 64 }) 20 = true ∧ ((s.sema 20).value : Int) + 1 = 16777215 ∧ (s.sema 20).queue = [] ∧
    (s.sema 20).observers = [] ∧ s.sem.ntf = [] ∧ mwf Sem.zero s.sem.sems = true ∧ s.quotaOk (.tile 3 { stream := .A, pc := 64 }) 21 = false ∧ s.quotaOk (.tile 3 { stream := .A, pc := 64 }) 9 = false := by
  decide +kernel
theorem witness_wait : let m : SemMsg := .wait 4 .E 1 20 5
    (semState 5 m).netFirst 0 = some m ∧ (semState 5 m).quotaOk ((semState 5 m).waitSrc 4 .E) 20 = true ∧ ((semState 5 m).sema 20).queue = [] ∧ 5 ≤ ((semState 5 m).sema 20).value ∧
    ((semState 4 m).sema 20).value < 5 := by decide +kernel
theorem witness_observer : let m : SemMsg := .obs 4 .E 1 20 5
    (semState 5 m).netFirst 0 = some m ∧ (semState 5 m).quotaOk ((semState 5 m).waitSrc 4 .E) 20 = true ∧ 5 ≤ ((semState 5 m).sema 20).value ∧
    ((semState 4 m).sema 20).value < 5 ∧ mwf Sem.zero (semState 5 m).sem.sems = true := by decide +kernel
theorem witness_queue : let w (n : Nat) : Waiter := { tile := n, stream := .A, scope := 1, n := n }
    let s : State := { State.reset with sem := { SemUnit.zero with sems := [(20, { Sem.zero with value := 5, queue := [w 2, w 3, w 1] })] } }
    mwf Sem.zero s.sem.sems = true ∧ ((s.serveQueue 20 (s.sema 20).queue).sema 20).value = 0 ∧ ((s.serveQueue 20 (s.sema 20).queue).sema 20).queue = [w 1] := by
  decide +kernel
/-- A function with two notification slots and a ring of 16 entries; the doorbell of a full ring, and one beyond it. -/
def fn1 : Fn := { Fn.zero 1 with enabled := true, rqEn := true, rqLog2n := 4, ntfFirst := 64, ntfCount := 2, rqHead := 0xFFF8, rqTail := 0 }
theorem witness_doorbells : let s : State := { (State.reset.setFn 1 fn1) with sem := { SemUnit.zero with quota := [(1, (10, 11))] } }
    (s.fn 1).enabled = true ∧ 1 < (s.fn 1).ntfCount ∧ (mget NtfSlot.zero s.sem.ntf 65).armed = false ∧ s.inQuota 1 20 = true ∧ (s.sema 20).value < 1 ∧
    (s.fn 1).rqEn = true ∧ (8#16 - (s.fn 1).rqHead).toNat = 2 ^ (s.fn 1).rqLog2n.toNat ∧ ((s.fn 1).rqTail - (s.fn 1).rqHead).toNat ≤ 16 ∧
    2 ^ (s.fn 1).rqLog2n.toNat < (9#16 - (s.fn 1).rqHead).toNat ∧ (State.reset.fn 0).enabled = true := by decide +kernel

/-! ### Serving -/

def servImage : Image := { serving := true, owner := 0, modelId := 5, modelBytes := 0, preempt := false, digest := [], sections := [] }
/-- A serving job runs, and function 1 has a record waiting. -/
def servState (v : Serving) : State :=
  { (State.reset.setFn 1 { fn1 with quotaA := 0x1000000000000 + 0x10000 }) with job := { Job.zero with state := 2, image := some servImage }, serving := v }
def rec1 : ReqRec :=
  { cls := 0, onLate := false, hostSamp := false, notify := true, switchNow := false, vector := 63, rid := 9, tokAddr := 0, nTok := 1, maxNew := 1
    adapter := 3, version := 2, ftd := 0, budget := 0, ttl := 1, outAddr := 64, outLog2 := 4, stopN := 8, sampAddr := 0, handle := 77, stops := [] }
def req1 : Request := (servState Serving.zero).newRequest 1 rec1 [] [5] none
/-- The state once the ringmaster has read the record. -/
def taken (s : State) : State := (s.setFn 1 { s.fn 1 with rqHead := (s.fn 1).rqHead + 1 }).dutyBoundary 0
def reads (s : State) : Bool := s.servingRuns && s.dutyUp 0 && (s.fn 1).enabled && (s.fn 1).rqEn && !(s.fn 1).disabledPending && decide ((s.fn 1).rqHead ≠ (s.fn 1).rqTail)
/-- Both ends of a record's ranges. -/
theorem witness_requests : let s := servState Serving.zero
    reads s = true ∧ (taken s).requestOk 1 rec1 [] false = true ∧ (taken s).requestOk 1 { rec1 with maxNew := 1048576, outLog2 := 16 } [] false = true ∧
    (taken s).requestOk 1 { rec1 with maxNew := 0 } [] false = false ∧ (taken s).requestOk 1 { rec1 with vector := 64 } [] false = false := by decide +kernel
theorem witness_queued : let s := servState { Serving.zero with queue := [req1] }
    reads s = true ∧ s.serving.seqs = [] ∧ s.serving.queue = [req1] ∧ req1.fn = 1 := by decide +kernel
theorem witness_resume :
    let p : Parked := { handle := 77, fn := 1, len := 4, saved := [], taken := false, expires := 1 }
    let s := servState { Serving.zero with parked := [p] }
    reads s = true ∧ p.handle = rec1.handle.toNat ∧ s.time.toNat < p.expires ∧ (taken s).requestOk 1 { rec1 with nTok := 0 } [] true = true := by decide +kernel
/-- A sequence that decodes. -/
def seq1 : SeqEntry :=
  { req := req1, state := .decode, len := 4, prefillPos := 4, promptLen := 4, satOut := 0, admitted := 0, slot := none, pages := [(0, 0, 5)], saved := [], noPage := false
    block := none, returned := false, parkDone := false, lstep := 3, choice := none, waiting := true, inPlan := true, cstart := 0, clen := 1 }
theorem witness_adapters :
    let s := servState { Serving.zero with slots := [(4, { AdSlot.zero with tenant := 1, adapter := 3, version := 2, state := 2 })] }
    let h := ({ servState { Serving.zero with seqs := oput [] 0 seq1 } with tomb := [(0, { Tombola.zero with vocab := 100 })] } : State)
    (reads (servState Serving.zero) = true ∧ rec1.adapter ≠ 0 ∧ rec1.version ≠ 0 ∧ fld ((servState Serving.zero).fn 1).quotaA.toNat 16 11 ≠ 0) ∧
    (reads s = true ∧ (taken s).readySlot 1 3 2 = some 4) ∧
    (reads h = true ∧ h.serving.seqs.map (·.1) = [0] ∧ seq1.req.fn = 1 ∧ seq1.waiting = true ∧ (99#32 : BitVec 32).toNat < (h.tombola 0).vocab) := by
  decide +kernel
set_option maxRecDepth 40000 in
/-- The smallest adapter: one layer, one target of 32 by 32, rank 1, in BF16. -/
theorem witness_adapter_ready :
    let head (n crc : Nat) : List Byte := toBytes 4 0x41445052 ++ toBytes 2 3 ++ toBytes 2 2 ++ toBytes 2 1 ++ [2, 1] ++ toBytes 4 1 ++
      toBytes 8 5 ++ toBytes 4 n ++ toBytes 4 crc ++ toBytes 32 0x200020
    let n := adapterSize { header := head 0 0, readOk := true }
    let img : AdapterImage := { header := head n (crc32c (head n 0 ++ List.replicate n 0)).toNat, readOk := true }
    let x : AdSlot := { AdSlot.zero with tenant := 1, adapter := 3, version := 2, state := 1, loader := some ({ rec1 with nTok := 1048543 }, 1) }
    let sect : Section := { type := 0x09, index := 0, payload := toBytes 0x80 (2048 * 256 ^ 0x14 + 2 ^ 20 * 256 ^ 0x18) }
    let s0 := servState { Serving.zero with slots := [(4, x)] }
    let s : State := { s0 with job := { s0.job with image := some { servImage with sections := [sect] } } }
    (s.adSlot 4).state = 1 ∧ (s.adSlot 4).answer = none ∧ s.adapterOk (s.adSlot 4) img (List.replicate n 0) = true := by decide +kernel
/-- A whole boundary; then one that stands before each action, at action 5 with a page copy to make and with none. -/
theorem witness_boundary :
    let s := servState { Serving.zero with stepOpen := true, stepDone := true }
    let b (k : Nat) : Boundary := { next := k, ending := false, inStep := [], release := [], asked := true, cycles := 0, changed := [] }
    let at_ (k : Nat) := servState { Serving.zero with bnd := some (b k) }
    let busy := (at_ 5).setStack 3 { Stack.zero with kvGo := true }
    let done (t : State) : State := t.dutyBoundary 0
    let t2 := done ((done s.action1).action2 [])
    let t4 := done (done ((t2.noteDeadlines s.stepSeqs).action3 [])).action4
    (s.servingRuns = true ∧ s.dutyUp 0 = true ∧ s.serving.stepOpen = true ∧ s.serving.stepDone = true ∧ s.serving.bnd = none ∧
      t4.planCopies.askCopies.copiesDone = true) ∧
    ([1, 2, 3, 4, 5, 6, 7, 8].all fun k => (at_ k).servingRuns && (at_ k).dutyUp 0 && ((at_ k).serving.bnd == some (b k))) = true ∧
    (at_ 5).askCopies.copiesDone = true ∧ busy.servingRuns = true ∧ busy.dutyUp 0 = true ∧ busy.askCopies.copiesDone = false := by decide +kernel
theorem witness_pages_move :
    let s (e : SeqEntry) := servState { Serving.zero with seqs := oput [] 0 e }
    let park := { seq1 with state := .parking }
    let away := { seq1 with state := .swapped }
    let back := { seq1 with state := .swapped, saved := [(0, 0, 4096)] }
    let p : Parked := { handle := 77, fn := 1, len := 4, saved := [], taken := false, expires := 0 }
    (s park).seq 0 = some park ∧ (s away).seq 0 = some away ∧ away.pages ≠ [] ∧ (s back).seq 0 = some back ∧ back.saved ≠ [] ∧ back.req.resumeOf = none ∧ back.pages ≠ [] ∧
    [(List.replicate (s back).pageBytes (7 : Byte), false)].length = back.saved.length ∧ park.parkDone = false ∧ park.saved = [] ∧
    (p.handle = (77#48 : BitVec 48).toNat ∧ p.expires ≤ (servState Serving.zero).time.toNat) := by decide +kernel
theorem witness_rings :
    let x : Fn := { fn1 with rqEn := false, ifActive := 1, quotaA := 0x40000000 }
    x.rqEn = false ∧ (0x104#64 : BitVec 64).getLsbD 8 = true ∧ x.ifActive ≠ 0 ∧ ((0x104#64 : BitVec 64).truncate 5 : BitVec 5).toNat = 4 ∧
    4 ≤ fld x.quotaA.toNat 28 4 ∧ (2#16 : BitVec 16).getLsbD 1 = true ∧ (1#16 : BitVec 16).getLsbD 1 = false ∧ (servState Serving.zero).servingRuns = true ∧
    State.reset.jobLive = false ∧ State.reset.job.susp = false := by decide +kernel
/-- Quotas at the largest number of sequences, and one more. -/
theorem witness_quotas :
    State.reset.quotaWriteOk 1 8192 0 = true ∧ State.reset.quotaWriteOk 1 8193 0 = false ∧ State.reset.jobLive = false ∧
    (servState Serving.zero).quotaWriteOk 1 8192 0 = true := by decide +kernel

/-- A request record written out from R335 and R388: KIND 7, RID 9, CHOICE 5 at 0x48, LSTEP 3 at 0x4C; KIND 8 is reserved. -/
theorem test_request_record :
    let bs (k : Byte) : List Byte := [k, 0, 0, 0, 9, 0, 0, 0] ++ List.replicate 64 0 ++ [5, 0, 0, 0, 3, 0, 0, 0] ++ List.replicate 48 0
    (bs 7).length = 128 ∧ decodeRequest 1 (bs 7) [] [] = some (.hostChoice 1 9 5 3) ∧ decodeRequest 1 (bs 2) [] [] = some (.cancel 1 9) ∧
    decodeRequest 1 (bs 8) [] [] = none := by decide +kernel
/-! ### The tombola -/

/-- A command of a tombola whose addresses lie in region memory; `res` is at 1 MiB, the tree at 2 MiB, the masks at 3 MiB. -/
def tmbItem (op nn : Nat) (more : List (Nat × Nat)) : BitVec 2048 :=
  itemOf ([(0, op), (1, 1), (8 + 6, 0x10), (0x14, nn), (0x18 + 2, 0x20), (0x18 + 6, 0x10), (0x20 + 2, 0x30), (0x20 + 6, 0x10), (0x28 + 2, 0x10)
          , (0x28 + 6, 0x10), (0x34, 7)] ++ more)
/-- A step runs, and sequence 0 is in its plan; the vocabulary has 4 tokens. -/
def tmbState (t : Tombola) : State :=
  ({ State.reset with job := { Job.zero with state := 2, owner := 1 }, serving := { Serving.zero with stepOpen := true, seqs := oput [] 0 seq1 }
                      sem := { SemUnit.zero with quota := [(1, (10, 11))] } } : State).setTombola 0 { t with vocab := 4, parBase := 0x10000000000000 + 0x400000, penBase := 0x10000000000000 + 0x500000 }
def tmbGoes (item : BitVec 2048) : Bool :=
  let s1 := (tmbState { Tombola.zero with q := [(3, item)] }).reachTmb 0 0
  let s2 := s1.setTombola 0 { s1.tombola 0 with q := [] }
  let c := tmbCmd item
  let par := s2.fetchBytes ((s1.tombola 0).parAddr c.seq) 256
  let nlog := byteField par.2.1 0x2A 2
  (s1.tombola 0).running.isNone && s1.unitUp (unitId 6 0) &&
  s1.stacksOpen (granulesOf ((s1.tombola 0).parAddr c.seq) 256 ++ c.rows.flatMap fun n => granulesOf (c.logAddr + n * c.stride) ((s1.tombola 0).vocab * c.width)) && (s2.tmbError 0 c nlog).isNone && match c.op with
    | 1 => (match par.1.doVerify 0 c par.2.1 with | .ok _ => true | .error _ => false)
    | 2 => (match par.1.doPropose 0 c with | .ok _ => true | .error _ => false)
    | _ => (match par.1.doExport 0 c nlog with | .ok _ => true | .error _ => false)
theorem witness_tombola : tmbGoes (tmbItem 1 1 []) = true ∧ tmbGoes (tmbItem 2 1 []) = true ∧ tmbGoes (tmbItem 3 1 []) = true := by decide +kernel
/-- A command of no operation, and one that signals outside the quota. -/
theorem witness_tombola_errors :
    let s := tmbState Tombola.zero
    let bad := tmbItem 1 1 [(0x30, 9), (0x32, 1)]
    s.tmbError 0 (tmbCmd (tmbItem 4 1 [])) 0 = some 1 ∧ s.tmbError 0 (tmbCmd bad) 0 = none ∧ s.tmbSigBad 0 (tmbCmd bad) = true := by decide +kernel
theorem witness_tombola_end :
    let run : TmbRun := { tile := 3, item := tmbItem 1 1 [], due := 0, writes := [(2 ^ 52 + 64, [1])], block := none, empties := 0, poison := false }
    let s := (tmbState { Tombola.zero with running := some run }).reachTmb 0 0
    (s.tombola 0).running = some run ∧ run.due ≤ (s.tombola 0).cycle ∧
    s.stacksOpen (run.writes.flatMap fun w => granulesOf w.1 w.2.length) = true ∧ s.portOpen (2 ^ 52 + 64) = true ∧ s.unitUp (unitId 6 0) = true ∧ (tmbCmd (tmbItem 1 1 [])).sig = false ∧
    (tmbCmd (tmbItem 1 1 [(0x30, 9), (0x32, 1)])).sig = true ∧ s.job.tearing = none ∧ 1 ≤ s.job.state ∧ s.job.state ≤ 4 := by decide +kernel

/-! ### Jobs -/

/-- The smallest container: a batch job of function 0 with an empty window table. -/
def container : List Byte :=
  toBytes 80 0x5000000000000000060000000000000000000000000000000000000000ded534a60000000000000050000000000000000000000000000000000000000100000011000100014a5a4f45
def emptyModule : State := { State.reset with lodge := { Lodge.zero with ifActive0 := 1, ifActive4 := 1 } }
set_option maxRecDepth 20000 in
theorem witness_job_go : emptyModule.job.state = 0 ∧ emptyModule.refuseImage container (imageOf container []) true false = none ∧
    State.reset.refuseImage container (imageOf container []) true false = some 2 ∧ emptyModule.refuseImage [] (imageOf [] []) false false = some 9 := by decide +kernel
def batchImage (ck : List Byte) : Image :=
  { servImage with serving := false, sections := [{ type := 0x0C, index := 0, payload := ck }] }
/-- A batch job that runs, at its checkpoint: CKARR 10, CKGO 11, W 1. -/
def batchState : State :=
  let j := { Job.zero with state := 2, image := some (batchImage [10, 0, 11, 0, 1]) }
  { State.reset with job := j, sem := { SemUnit.zero with sems := [(10, { Sem.zero with value := 1 })] } }
theorem witness_job_control :
    (servState Serving.zero).servingRuns = true ∧
    (batchState.job.state = 2 ∧ batchState.servingRuns = false ∧ batchState.job.suspended = none ∧ batchState.job.tearing = none) ∧
    ((List.range 96).all fun n => (batchState.tile n).finished) = true ∧ batchState.enginesIdle = true ∧
    mwf Tile.zero batchState.tiles = true ∧ ({ batchState.job with state := 5 } : Job).state = 5 ∧ ({ batchState.job with tearing := some 3 } : Job).tearing = some 3 := by
  decide +kernel
set_option maxRecDepth 20000 in
/-- A PREEMPT image that may start while the batch job runs. -/
theorem witness_preempt_image :
    let m := { imageOf container [] with preempt := true }
    ({ batchState with lodge := emptyModule.lodge } : State).refuseImage container m true true = none ∧ m.preempt = true := by decide +kernel
theorem witness_checkpoints :
    batchState.atCheckpoint.isSome = true ∧ batchState.job.waiting = none ∧ (batchImage [10, 0, 11, 0, 1]).serving = false ∧
    (let v : Saved := { tiles := [], sems := [], ranges := [] }
     let s : State := { batchState with job := { batchState.job with ckTaken := 1, ckpt0 := some v, suspended := none } }
     s.job.lastCkpt = some v ∧ s.job.tearing = none ∧ (let c := s.cancelWork.remapAll
                                (({ c with job := { c.job with ckResumed := satInc c.job.ckResumed } } : State).job.lastCkpt = some v))) := by decide +kernel
theorem witness_suspended :
    let v : Saved := { tiles := [], sems := [], ranges := [] }
    let m := batchImage [10, 0, 11, 0, 1]
    let s : State := { State.reset with job := { Job.zero with suspended := some (m, v), susp := true } }
    let w : State := { batchState with job := { batchState.job with waiting := some m } }
    (s.job.suspended = some (m, v) ∧ s.job.state = 0 ∧ s.job.waiting = none) ∧ (w.job.waiting = some m ∧ w.atCheckpoint.isSome = true) := by decide +kernel
/-- Every tile waits on a semaphore, CKGO is on its way, and a curve command waits; then tile 0 of region 0 is retired. -/
def quietState : State :=
  let x : Tile := { tile0 with core := { coreRegs with stallA := .semWait, stallE := .semWait } }
  let s : State := (List.range 96).foldl (fun s n => s.setTile n x) batchState
  let c : LiveRun := { op := 1, unit := 0, payload := [] }
  { s with sem := { s.sem with net := [.signal .lodge 0 1 11 1 0] }, lodge := { Lodge.zero with liveRun := some c } }
theorem witness_quiesced : quietState.quiesced = true ∧ ((List.range 8).all fun n => (quietState.remapOf n).isNone) = true ∧
    (quietState.lodge.liveRun.map (·.op)) = some 1 := by decide +kernel
theorem witness_remap : let s0 : State := { quietState with lodge := Lodge.zero }
    let s := s0.setUnit 0 { s0.unit 0 with allowed := 5 }
    s.quiesced = true ∧ s.remapOf 0 = some (0, 12) ∧ ((List.range 7).all fun k => ((s.remapTile 0 12).remapOf (k + 1)).isNone) = true ∧
    (s.remapTile 0 12).lodge.liveRun = none := by decide +kernel

/-! ### Links and collectives -/

def linkState (x : Link) : State := State.reset.setLink 0 x
/-- The observations of five lanes of which the first `n` receive training blocks, lane 1 with the wrong polarity. -/
def lanesOf (n : Nat) : List LaneObs :=
  (List.range 5).map fun i =>
    let b := if i = 1 then ~~~ trainBlock i 2 else trainBlock i 2
    { signal := true, blocks := if i < n then [b, b, b] else [], pairGood := true }
theorem witness_training :
    let at2 : Link := { Link.zero with state := 2, phase := 2, signalSeen := 0x1F }
    (Link.zero.state = 0 ∧ State.reset.linkUp 23 = true) ∧ (0 + 100000 ≤ (100000#64 : BitVec 64).toNat) ∧ (at2.state = 2 ∧ at2.phase = 2) ∧
    ((goodLanes 0x1F (lanesOf 5)).length = 5 ∧ (goodLanes 0x1F (lanesOf 4)).length = 4 ∧ (goodLanes 0x1F (lanesOf 3)).length = 3 ∧
      (goodLanes 0x1F (lanesOf 2)).length = 2 ∧ (goodLanes 0x1F (lanesOf 1)).length = 1) := by decide +kernel
theorem witness_detect_and_timeout :
    let x : Link := { Link.zero with en := true, state := 1, phase := 1, trainFrom := 0 }
    let s (t : BitVec 64) : State := { linkState x with time := t }
    ((s 100000).link 0 = x ∧ x.trainFrom + 100000 ≤ (s 100000).time.toNat) ∧ (1 ≤ x.phase ∧ x.state ≠ 5 ∧ x.trainFrom + 2000000 ≤ (s 2000000).time.toNat) := by
  decide +kernel
set_option maxRecDepth 40000 in
/-- A version in common, none, the own number, and too few flits. -/
theorem witness_negotiation :
    let f : NegFlit := { node := 7, supp := 2, creq := 100, crsp := 100, ccoll := 100, width := 2, seen := true }
    let x : Link := { Link.zero with state := 4, phase := 4, negSeen := true }
    let word : BitVec 2048 := Flit.encode { Flit.plain 0 0xFFF with null := true, neg := true, slots := negBytes f }
    (let g := parseFlit word
     g.crcOk = true ∧ g.null = true ∧ g.neg = true ∧ parseNeg g = f ∧ (parseFlit (word ^^^ 1)).crcOk = false) ∧
    x.state = 4 ∧ x.phase = 4 ∧ f.seen = true ∧ x.negSeen = true ∧ f.supp.getLsbD 1 = true ∧ f.node ≠ (linkState x).lnk.node ∧
    ({ f with supp := 1 } : NegFlit).supp.getLsbD 1 = false ∧ ({ f with node := 0 } : NegFlit).node = (linkState x).lnk.node ∧ 7 < 8 := by decide +kernel
def active : Link := { Link.zero with en := true, state := 5, lanes := 0x0F, spare := 4, width := 2, peer := 7 }
theorem witness_active :
    ((linkState active).linkUp 0 = true ∧ active.en = true ∧ active.state = 5 ∧ active.lanes.getLsbD 3 = true ∧ active.spare < 5) ∧
    (({ active with spare := 7 } : Link).spare = 7) ∧ (active.txq = [] ∧ (linkState active).lnk.wait = [] ∧ active.pert = 0) ∧
    (linkState active).otherLink 0 7 = none ∧ ({ active with freed := [4095, 1, 2] } : Link).freed = [4095, 1, 2] := by decide +kernel
set_option maxRecDepth 40000 in
/-- A flit of data in sequence, and the same with a bit turned. -/
theorem witness_flits : let word := Flit.encode (Flit.plain active.rxSeq 0xFFF)
    let f := parseFlit word
    f.crcOk = true ∧ f.null = false ∧ f.nak = false ∧ f.swap = false ∧ f.seq = active.rxSeq ∧ (parseFlit (word ^^^ 2 ^ 2047)).crcOk = false ∧
    (parseFlit (Flit.encode (Flit.plain (active.rxSeq + 1) 0xFFF))).seq ≠ active.rxSeq := by decide +kernel
def packet1 : Packet :=
  { type := 1, resent := true, hops := 0, dst := 0, src := 7, bytes := 31, acid := 0, ac := false, tag := 5, addr := 0x10000000000000, code := 0
    origLink := 0, origSeq := 4000, data := List.replicate 32 1 }
theorem witness_held_packets :
    let x : Link := { Link.zero with state := 7, held := [packet1], heldAt := 0, leftSeq := some 4095, leftAt := 0 }
    let s (t : BitVec 64) : State := { linkState x with time := t }
    (x.held ≠ [] ∧ x.heldAt + 10000000 ≤ (s 10000000).time.toNat) ∧ (x.leftSeq = some 4095 ∧ x.leftAt + 100000 ≤ (s 100000).time.toNat) := by decide +kernel
/-- A resent packet that was accepted before, one that was not, one for another node, and what an allowed peer may do. -/
theorem witness_packets :
    let x : Link := { active with leftSeq := some 4000, leftAt := 0 }
    let j := { Job.zero with state := 2 }
    let s : State := { linkState x with job := j, lnk := { LinkBlock.zero with allow := [(0, 0x80)], remote := oput [] 5 (3, 0, 9) } }
    let s1 := s.freeSlots 0 (Packet.vc packet1) (Packet.slots packet1)
    (decodeAddr packet1.addr.toNat = some (.region 0 0) ∧ decodeAddr 0x20000000800000 = some (.spad 1 0) ∧ decodeAddr 64 = some (.stack 64)) ∧
    s1.accepted packet1 = true ∧ s1.accepted { packet1 with origSeq := 4001 } = false ∧ s1.accepted { packet1 with resent := false } = false ∧
    (packet1.dst = s.lnk.node ∧ ({ packet1 with dst := 9, hops := 5 } : Packet).dst ≠ s.lnk.node ∧ (5#3 : BitVec 3).toNat + 1 ≠ 7) ∧
    s1.writeOk packet1 = true ∧ s1.writeOk { packet1 with src := 8 } = false ∧ s1.allowed 7 = true ∧ s1.allowed 8 = false ∧ packet1.ac = false ∧
    oget s.lnk.remote 5 = some (3, 0, 9) ∧ (2 ≤ (4#4 : BitVec 4).toNat ∧ (4#4 : BitVec 4).toNat ≤ 4) := by decide +kernel
/-- A sum over a group of one member, from region memory at 0 to region memory at 4,096; and a command without an operation. -/
def bndItem (op : Nat) : BitVec 2048 := itemOf [(0, op), (1, 1), (4, 16), (8 + 6, 0x10), (0x10 + 1, 0x10), (0x10 + 6, 0x10), (0x20, 7)]
theorem witness_collectives :
    let b : Bandstand := { Bandstand.zero with q := [(3, bndItem 1)], grp := [(0, 0x10000)] }
    let s := State.reset.setBand 0 b
    let run : BndRun := { tile := 3, item := bndItem 1, two := false, own := [], result := [], fwd := 0, rev := 0, sentFirst := false, poison := false }
    (s.band 0).q = [(3, bndItem 1)] ∧ (s.band 0).running = none ∧ s.unitUp (unitId 7 0) = true ∧ s.bndError 0 (bndCmd (bndItem 1)) = none ∧
    s.bndError 0 (bndCmd (bndItem 4)) = none ∧ s.bndError 0 (bndCmd (bndItem 0)) = some 1 ∧ (s.band 0).members 0 = 1 ∧ (s.band 0).rank 0 = 0 ∧
    ((s.setBand 0 { b with q := [], running := some run }).band 0).grp = b.grp ∧ (bndCmd (bndItem 1)).sig = false ∧ (bndCmd (bndItem 1)).ac = false := by
  decide +kernel
theorem witness_ring : let k : Ring := { c := bndCmd (bndItem 1), p := 3, r := 2, two := true }
    2 ≤ k.p ∧ k.r < k.p ∧ 1 ≤ k.c.op ∧ k.c.op ≤ 3 ∧ 3 + 1 ≤ k.steps := by decide +kernel

/-! ### The host -/

/-- Function 1 with an aperture over the placed window, and a job. -/
def hostState : State :=
  { (stackState stack0).setFn 1 { fn1 with sapValid := true, busMaster := true } with atsWaits := [] }
theorem witness_aperture : (hostState.fn 1).enabled = true ∧ (hostState.sapByte 1 0).isSome = true ∧ hostState.sapByte 1 0x100000 = none ∧
    63 % 64 + 1 ≤ 64 ∧ (hostState.fn 1).sapRonly = false ∧ ({ fn1 with sapRonly := true } : Fn).sapRonly = true := by decide +kernel
theorem witness_translations :
    let r : HostReq := { id := 4, fn := 1, addr := 0x1008, len := 4, src := .load 3 7 0 0, translated := false }
    let w : AtsWait := { fn := 1, addr := 0x1008, write := false, bs := [], ep := false, req := some r }
    let s : State := { hostState with atsWaits := [w] }
    let q : State := { hostState with hostReqs := [r] }
    (s.atsWaits = [w] ∧ w.addr / 4096 = (0x1000#64 : BitVec 64).toNat / 4096 ∧ s.atsCache = []) ∧ (q.hostReqs = [r] ∧ q.atsInval = [] ∧ r.len = 4) ∧
    (hostState.hostReqs = [] ∧ hostState.atsInval = []) := by decide +kernel
/-- A transfer of 2 bytes from host address 64 to region memory, one of none, and one to the host. -/
theorem witness_host_dma :
    let cmd (len dir : Nat) : RegCmd := { tile := 3, handle := 0, staged := false, effId := 0, origin := { stream := .A, pc := 64 }, item := itemOf [(0, 64), (8 + 6, 0x10), (0x10, len), (0x14, dir)] }
    let s := (State.reset.setFn 1 { fn1 with enabled := true, busMaster := true })
    let s1 : State := { s with job := { Job.zero with state := 2, owner := 1 } }
    let r : Region := { Region.zero with hdmaQ := [cmd 2 0], hdmaSleep := .awake }
    let p : Region := { Region.zero with hdmaPort := [cmd 2 0] }
    let far : RegCmd := { cmd 2 0 with item := itemOf [(0, 64), (0x10, 2)] }
    let denied : Region := { r with hdmaDenied := some 65 }
    (r.hdmaAsked = false ∧ r.hdmaDenied = none ∧ spaceOf (byteField (toBytes 256 far.item.toNat) 8 7) = 0 ∧ spaceOf (byteField (toBytes 256 (cmd 2 0).item.toNat) 8 7) ≠ 0 ∧
      s1.stacksAnswered (unitId 3 0) = true ∧ s1.stacksOpen (granulesOf (2 ^ 52) 2) = true ∧ s1.portOpen (2 ^ 52) = true) ∧
    (denied.hdmaDenied = some 65 ∧ 64 ≤ 65 ∧ 65 < 64 + 2 ∧ ([1, 2] : List Byte).length = 2 ∧ ([1] : List Byte).length = 65 - 64) ∧
    (p.hdmaQ.length < 32) ∧ (r.hdmaQ.length = 1 ∧ r.hdmaSleep = .awake ∧ s1.unitUp (unitId 3 0) = true) ∧ s1.fnActive 1 = true ∧ s1.fnActive 2 = false ∧
    (s1.fn 1).ats = false ∧ byteField (toBytes 256 (cmd 2 0).item.toNat) 0x10 4 = 2 ∧ byteField (toBytes 256 (cmd 0 0).item.toNat) 0x10 4 = 0 ∧
    (byteField (toBytes 256 (cmd 2 1).item.toNat) 0x14 1).testBit 0 = true := by decide +kernel
theorem witness_function_resets :
    fn1.ntfCount ≠ 0 ∧ State.reset.jobLive = false ∧
    (let s : State := { State.reset with job := { Job.zero with state := 2, owner := 4096 } }
     s.jobLive = true ∧ s.job.owner = 4096 ∧ s.servingRuns = false ∧ s.job.tearing = none) := by decide +kernel

/-! ### The Lodge -/

theorem witness_stewards :
    let s : State := { State.reset with time := 300000 }
    let g : State := { s with lodge := { s.lodge with rr := false } }
    let c : State := { s with lodge := { s.lodge with rr := true, claimant := 3, claimVictim := 1, stwEn := 0xD } }
    let f : State := (s.setSteward 2 { Steward.zero with inReset := true }).setUnit (unitId 8 2) { s.unit (unitId 8 2) with allowed := 4 }
    (g.stwOn 3 = true ∧ g.lodge.rr = false) ∧ (c.stwOn 3 = true ∧ c.lodge.rr = true ∧ c.lodge.claimant.toNat = 3 ∧ c.stwOn c.lodge.claimVictim.toNat = false) ∧
    (s.stwOn 0 = true ∧ s.stwOn 3 = true ∧ 300000 ≤ (s.time.truncate 32 - (s.steward 3).lastTime : BitVec 32).toNat) ∧
    ((f.steward 2).inReset = true ∧ (f.unit (unitId 8 2)).allowed = 4 ∧ (f.steward 2).twice = false) := by decide +kernel
theorem witness_interrupts :
    let x : IntSrc := { IntSrc.zero with prio := 2, target := 3, en := true, count := 255 }
    let s : State := { (State.reset.setIntSrc 0x100 x) with lodge := { (State.reset.setIntSrc 0x100 x).lodge with rr := false } }
    let o := s.setIntSrc 0x100 { x with offered := true, owner := 3 }
    let v : State := (s.setIntSrc 0x100 { x with inSvc := true, owner := 3 }).setSteward 3 { Steward.zero with running := 2, stack := [(16, 0x100)] }
    (x.offerable = true ∧ s.lodge.rr = false ∧ s.stwOn x.target.toNat = true) ∧ ((x.count = 255) ∧ ({ x with count := 254 } : IntSrc).count ≠ 255) ∧
    (o.stwOn 3 = true ∧ (o.claimable 3).isSome = true ∧ o.claimable 2 = none) ∧
    ((v.intSrc 0x100).inSvc = true ∧ (v.intSrc 0x100).owner.toNat = 3 ∧ (v.steward 3).stack = [(16, 0x100)] ∧ (s.intSrc 0x100).inSvc = false) := by decide +kernel
/-- Reports of a mapped tile: IDLE agrees, SILENT does not; and a queue of status events that is full. -/
theorem witness_status :
    let u := unitId 0 103
    let s := State.reset.setUnit u { State.reset.unit u with allowed := 2, oldAllowed := 3, changedAt := 0 }
    isUnit 103 = true ∧ isUnit 0x8003 = true ∧ (s.unit u).oldAllowed ≠ 0 ∧ s.time.toNat ≤ (s.unit u).changedAt + 100000 ∧
    reportConsistent (s.unit u).allowed 1 = true ∧ reportConsistent (s.unit u).allowed 5 = false ∧ reportConsistent (s.unit u).oldAllowed 5 = false ∧
    (let t := s.setUnit 5 { s.unit 5 with allowed := 4 }
     let g := (t.dutyBoundary 3).allow 5 5
     (g.unit 5).logical < 96 ∧ (g.spareOf 0).isSome = true ∧ g.spareClaimed 5 = false ∧
       (let h := (g.setUnit 12 { g.unit 12 with allowed := 5 })
        (h.spareOf 0).isNone = true)) ∧
    ((s.setUnit 0x3007 { s.unit 0x3007 with allowed := 4 }).unit 0x3007).allowed = 4 ∧ ((s.setUnit 0x8003 { s.unit 0x8003 with allowed := 4 }).unit 0x8003).allowed = 4 ∧
    ((s.setUnit 5 { s.unit 5 with allowed := 4 }).unit 5).allowed = 4 ∧ ((s.setUnit 0x5017 { s.unit 0x5017 with allowed := 4 }).unit 0x5017).allowed = 4 := by
  decide +kernel
theorem witness_event_queue :
    let l : List (BitVec 16 × BitVec 4 × BitVec 32) := [(1, 2, 3)]
    l ≠ [] ∧ l.length < 1024 ∧ (List.replicate 1024 (1 : Nat)).length = 1024 := by
  exact ⟨by decide, by decide, List.length_replicate⟩
/-- The module in phase 7, with an interface of version 1. -/
def ready : State := { State.reset with lodge := { Lodge.zero with phase := 7, ifActive2 := 1 } }
theorem witness_management :
    let d : List Byte := List.replicate 1024 7
    ready.answers = true ∧ (1#16 : BitVec 16).getLsbD 1 = false ∧ (2#16 : BitVec 16).getLsbD 1 = true ∧ (ready.manager 0).version = 0 ∧
    ((ready.setManager 0 { Manager.zero with version := 1 }).manager 0).version ≠ 0 ∧ (1 ≤ d.length ∧ d.length ≤ 1024 ∧ 64512 + d.length = 65536) ∧
    (4095#16 : BitVec 16).toNat < 4096 ∧ (1 ≤ (15#16 : BitVec 16).toNat ∧ (15#16 : BitVec 16).toNat ≤ 15 ∧ 15 < (16#16 : BitVec 16).toNat) := by decide +kernel
/-- A curve table of one slot, a timing table of band 0, one perturbation record. -/
def curvePayload : List Byte := 1 :: 0 :: 8 :: List.replicate 4094 0
def timingPayload : List Byte :=
  0 :: ((List.range 64).flatMap fun e => toBytes 4 (if 48 ≤ e ∧ e < 56 then tableReset 0 e else 0))
def pertPayload : List Byte := toBytes 7 (4 * 2 ^ 52 + 0x20000600) ++ [0] ++ toBytes 8 0x100000
theorem witness_live :
    let c : LiveRun := { op := 3, unit := 0, payload := [] }
    let t : State := { ready with lodge := { ready.lodge with testEn := true } }
    (({ ready.lodge with liveRun := some c } : Lodge).liveRun.isSome = true ∧ ready.lodge.liveRun = none) ∧ curvesOk [2] = false ∧
    (timingOk timingPayload = true ∧ timingOk [] = false) ∧ coefficientsOk [] = false ∧ ready.jobLive = false ∧ ready.lodge.testEn = false ∧
    (t.lodge.testEn = true ∧ pertPayload.length = 16 ∧
      ((pertRecords pertPayload).foldl (fun (acc : Option State) r => acc.bind fun t => t.pertWrite r.1 r.2)
        (some ((t.fireInt 0x33).liveBegin 5 0 pertPayload))).isSome = true) := by decide +kernel
set_option maxRecDepth 40000 in
theorem witness_live_curve : curvesOk curvePayload = true := by decide +kernel
/-- A coefficient set: every A one half, hot spots 0 and 64, no offset and no gain. -/
def setHead : List Byte := [1, 0, 0, 0, 0, 0, 0, 0x3F, 0, 0, 0, 0x3F, 0, 0, 0, 0x3F, 0, 0, 0, 0, 64, 64, 64, 64]
theorem zero_chunks (n : Nat) : chunks 2 n (List.replicate (2 * n) (0 : Byte)) = List.replicate n [0, 0] := by
  induction n with
  | zero => rfl
  | succ n ih =>
    have e : List.replicate (2 * (n + 1)) (0 : Byte) = 0 :: 0 :: List.replicate (2 * n) 0 := by
      rw [show 2 * (n + 1) = (2 * n) + 1 + 1 by omega, List.replicate_succ, List.replicate_succ]
    rw [e]
    simp only [chunks, List.isEmpty_cons, List.take_succ_cons, List.take_zero, List.drop_succ_cons, List.drop_zero, ih, List.replicate_succ]
    rfl
theorem witness_coefficients : coefficientsOk (setHead ++ List.replicate 26392 0) = true := by
  have h : (setHead ++ List.replicate 26392 (0 : Byte)).length = 26416 := by rw [List.length_append, List.length_replicate]; rfl
  have e : (setHead ++ List.replicate 26392 (0 : Byte)).drop 304 = List.replicate (2 * 13056) 0 := by
    rw [List.drop_append, List.drop_of_length_le (by decide), List.nil_append, List.drop_replicate]; rfl
  have f (o n : Nat) (ho : 24 ≤ o) (hn : o + n ≤ 26416) : ((setHead ++ List.replicate 26392 (0 : Byte)).drop o).take n = List.replicate n 0 := by
    rw [List.drop_append, List.drop_of_length_le (by simpa [setHead] using ho), List.nil_append, List.drop_replicate, List.take_replicate]
    congr 1
    have : setHead.length = 24 := rfl
    omega
  unfold coefficientsOk
  rw [h, e, zero_chunks]
  simp only [List.all_replicate, Bool.and_eq_true, List.all_eq_true, List.mem_range]
  refine ⟨⟨⟨⟨⟨⟨by decide, by decide +kernel⟩, by decide +kernel⟩, ?_⟩, by decide +kernel⟩, by decide +kernel⟩, by decide +kernel⟩
  intro i hi
  rw [halfAt, f _ _ (by omega) (by omega)]
  decide +kernel
theorem witness_retire :
    isUnit 0x9000 = false ∧ isUnit 0x5017 = true ∧ (ready.unit 0x5017).allowed ≠ 5 ∧ 0x5017 / 4096 = 5 ∧
    (isUnit 0x11FF = true ∧ (ready.unit 0x11FF).allowed ≠ 5 ∧ 0x11FF / 4096 = 1 ∧ ready.servingRuns = false) ∧
    ((ready.setUnit 0x1000 { ready.unit 0x1000 with allowed := 5 }).unit 0x1000).allowed = 5 := by decide +kernel

/-! ### Firmware and attestation -/

def image (comp : BitVec 16) : FwImage :=
  { magic := 0x5A484D49, component := comp, svn := 3, keyIdx := 2, commit := true, revoke := 1, version := 1, len := 4194304
    dutyVer := Config.factoryDutyVer, keyDigestOk := true, sigOk := true }
theorem witness_update : ready.answers = true ∧ ready.lodge.phase ≠ 8 ∧ (ready.manager 0).version = 0 ∧
    ((ready.setManager 0 { Manager.zero with version := 1 }).manager 0).version ≠ 0 ∧ ready.fwOk 2 (image 2) = true ∧ ready.fwOk 3 (image 3) = true ∧
    ready.fwOk 2 (image 1) = false ∧ ready.fwOk 3 { image 3 with len := 4194305 } = false := by decide +kernel
theorem witness_update_firmware : ready.fwOk 1 (image 1) = true := by
  simp [State.fwOk, ready, image, State.fuse, mget, Lodge.zero, State.reset]
theorem witness_activate :
    let s := ready.storeImage 1 1 (image 1)
    s.answers = true ∧ s.fwImage 1 (1 - s.slotInUse 1) = some (image 1) ∧ s.lodge.stwEn ≠ 0 ∧ s.dutyVerOf (1 - s.slotInUse 1) = s.dutyVerOf (s.slotInUse 1) := by
  refine ⟨rfl, rfl, by decide, rfl⟩
theorem witness_commit :
    let s := (ready.storeImage 3 0 (image 3))
    let t : State := { s with time := 1000000000000, lodge := { s.lodge with activatedAt := some 0 } }
    t.fwImage 3 (t.slotInUse 3) = some (image 3) ∧ mwf 0 t.lodge.fuses = true ∧ (image 3).commit = true ∧ t.proved 3 = true ∧ s.proved 3 = false := by
  refine ⟨rfl, by decide, rfl, by decide, by decide⟩
theorem witness_attestation :
    ready.spdmOn .doe = true ∧ ready.spdmOn .smbus = true ∧ ready.lodge.signing = none ∧
    (let s : State := { ready with lodge := { ready.lodge with signing := some (.doe, [1]), signed := [(.smbus, [2])] } }
     s.lodge.signing = some (.doe, [1]) ∧ s.lodge.signed = [(.smbus, [2])]) ∧ (1 ≤ (7#8 : Byte).toNat ∧ (7#8 : Byte).toNat ≤ 7) := by decide +kernel

/-! ### Power, start-up and test -/

theorem witness_power :
    let p : Power := { Power.zero with railsOn := true }
    let s : State := { State.reset with power := p, job := { Job.zero with state := 1 } }
    (p.railsOn = true ∧ 2300000 < 2300001 ∧ p.cguard < 3 ∧ ({ p with cguard := 2 } : Power).cguard < 3) ∧
    (([2000000] : List Nat).foldl (· + ·) 0 / 1 ≤ 2000000) ∧ p.shutdown = false ∧ (1 ≤ s.job.state ∧ s.job.state ≤ 4 ∧ s.job.tearing = none) ∧
    (({ p with flowLost := true } : Power).flowLost = true ∧ p.flowLost = false) ∧ (({ p with feedLost := 1 } : Power).feedLost.getLsbD 0 = true ∧ p.feedLost.getLsbD 1 = false) ∧
    (({ p with shutdown := true } : Power).shutdown = true ∧ s.jobLive = true ∧ 0 + 500000 ≤ (500000#64 : BitVec 64).toNat) := by decide +kernel
theorem witness_rounds :
    let s := State.reset.fireInt 0
    let e : State := { State.reset with lodge := { Lodge.zero with stwEn := 0 } }
    s.stwOn (s.dutyOwner 1) = true ∧ s.stwOn (s.dutyOwner 2) = true ∧ s.lodge.liveRun = none ∧ (e.fireInt 0).stwOn ((e.fireInt 0).dutyOwner 1) = false ∧
    (let c : State := { State.reset with lodge := { Lodge.zero with rounds := 20000 } }
     c.lodge.rounds ≠ 0 ∧ c.lodge.rounds % 10000 = 0 ∧ c.dutyOwner 2 = 2 ∧ c.stwOn 2 = true ∧ c.power.meanError 0 = none) := by decide +kernel
/-- No unit disagrees with its report after a round on the module right after reset, whose rails are off. -/
theorem witness_round_consistent :
    let s := State.reset.fireInt 0
    let p := { s.power with thermal := s.power.thermal.enforce }
    let p1 := (List.range 96).foldl (fun acc c => acc.sample (decide (s.lodge.rounds = 0)) (s.lodge.rounds + 1) c 0) p
    p1.railsOn = false ∧ (allUnits.all fun u => !({ s with power := p1, lodge := { s.lodge with rounds := 1 } } : State).isMismatch u) = true := by
  decide +kernel
def found : StartupObs :=
  { fslGood := (true, false), fwGood := (true, true), cfgGood := (false, true), stacksOk := 0xFF, badTiles := [], badEngines := [], badUnits := [], badLinks := []
    bands := [], voltsOk := true, flowOk := true, coolOk := true, causePresent := false, strap := 0 }
theorem witness_start_up :
    let r := State.reset.afterReset 0 found
    let n (o : StartupObs) := State.reset.afterReset 0 o
    (r.pickSlot 2 found.fslGood).isSome = true ∧ (r.pickSlot 1 found.fwGood).isSome = true ∧ (r.pickSlot 3 found.cfgGood).isSome = true ∧
    mayStart found = true ∧ mayStart { found with flowOk := false } = false ∧ (n { found with fslGood := (false, false) }).pickSlot 2 (false, false) = none ∧
    (n { found with fwGood := (false, false) }).pickSlot 1 (false, false) = none := by decide +kernel
theorem witness_resets :
    State.reset.lodge.dlSeen = false ∧ ({ Lodge.zero with dlSeen := true } : Lodge).dlSeen = true ∧ ({ Lodge.zero with stwEn := 0 } : Lodge).stwEn = 0 ∧
    (State.reset.stwOn 3 = true ∧ (State.reset.time.truncate 32 - (State.reset.steward 3).lastTime : BitVec 32).toNat < 1000000) ∧
    ({ Lodge.zero with testInForce := true } : Lodge).testInForce = true ∧ State.reset.lodge.testInForce = false ∧
    (let s : State := { State.reset with lodge := { Lodge.zero with phase := 9 } }
     s.lodge.phase = 9) ∧
    (let s : State := { State.reset with lodge := { Lodge.zero with phase := 6, perst := false } }
     s.lodge.phase = 6 ∧ s.lodge.perst = false ∧ s.lostUnits = []) := by decide +kernel
theorem witness_bring_up :
    let s : State := { State.reset with lodge := { Lodge.zero with testEn := true } }
    let k : Stack := { Stack.zero with spareUsed := [(2047, 4)] }
    s.buRefused = false ∧ State.reset.buRefused = true ∧ mget 0 k.spareUsed (63 * 32 + 31) = 4 ∧ mget 0 k.spareUsed 0 < 4 ∧
    (0x400000#64 : BitVec 64).getLsbD 22 = true ∧ (0#64 : BitVec 64).getLsbD 22 = false ∧ (8 ≤ (254#8 : Byte).toNat) ∧
    ({ Lodge.zero with phase := 8 } : Lodge).phase = 8 ∧ (State.reset.lodge.phase ≠ 8 ∧ State.reset.lodge.phase ≠ 9) := by decide +kernel
theorem witness_markers :
    (0x200#64 : BitVec 64).getLsbD 9 = true ∧ (∀ c, c < 9 → (0x200#64 : BitVec 64).getLsbD c = false) ∧ State.reset.lodge.traceCtl.getLsbD 9 = false := by
  decide +kernel

/-! ### Register writes -/

theorem witness_register_writes :
    let s := State.reset.setFn 1 fn1
    (s.fn 2).enabled = false ∧ (s.fn 1).enabled = true ∧ (s.fn 0).enabled = true ∧ window0Width 1 0x201 = none ∧ window0Width 1 0x200 = some 8 ∧ 8 ≠ 4 ∧
    s.window0Read 1 0x200 4 = none ∧ s.window0Read 1 0x204 8 = none ∧ s.job.state ≠ 1 ∧ s.stwOn 3 = true ∧ ({ s with lodge := { s.lodge with stwEn := 7 } } : State).stwOn 3 = false ∧ 2047 < 2048 := by decide +kernel

/-! ### The whole module -/

theorem witness_step : State.reset.pending = [] ∧ (∀ n, n < 96 → (State.reset.tile n).runs = false) := by decide +kernel
/-- A step that ends in a next state. -/
theorem witness_bounded : Bounded State.reset ∧ FusesAtLeast (fun _ => 0) State.reset ∧
    Runs (step { State.reset with pending := [.perstDeassert] }) :=
  ⟨⟨by decide, by decide⟩, ⟨by decide, fun _ => Nat.zero_le _⟩, ⟨_, rfl⟩⟩

/-! ### Values worked out by hand from the spec -/

/-- The value that a command leaves pending for s5 of the E stream of tile 0. -/
def pending5 (o : Host.Outcome State Fault Refusal) : Option Reg64 :=
  match o with
  | .next t => ((t.tile 0).core.writes.find? fun w => decide (w.key = sKey .E 5)).bind fun w => match w.val with | .sreg v => some v | _ => none
  | _ => none
def minusOne : TileCore := { coreRegs with sE := [(3, 0xFFFFFFFFFFFFFFFF), (4, 7)] }
def from4 : Src2 := { i := false, rb := 4, imm := 0 }
/-- R58: −1 + 7 wraps to 6; −1 × 7 = −7. -/
theorem test_add_wraps : pending5 (exec (.aluOp (issueOf .E 0) .add 5 3 from4) (stateOf minusOne (issueOf .E 0))) = some 6 := by decide +kernel
theorem test_mul_low : pending5 (exec (.mul (issueOf .E 0) 5 3 from4) (stateOf minusOne (issueOf .E 0))) = some 0xFFFFFFFFFFFFFFF9 := by decide +kernel
/-- R58: −1 < 7 as signed, not as unsigned numbers. -/
theorem test_slt_signed : pending5 (exec (.setCompare (issueOf .E 0) .slt 5 3 from4) (stateOf minusOne (issueOf .E 0))) = some 1 := by decide +kernel
theorem test_sltu_unsigned : pending5 (exec (.setCompare (issueOf .E 0) .sltu 5 3 from4) (stateOf minusOne (issueOf .E 0))) = some 0 := by decide +kernel
/-- R58: the shift takes the low six bits of the second source. -/
theorem test_sar_sign : pending5 (exec (.aluOp (issueOf .E 0) .sar 5 3 { from4 with i := true, imm := 64 + 8 }) (stateOf minusOne (issueOf .E 0))) =
    some 0xFFFFFFFFFFFFFFFF := by decide +kernel
/-- R133: sums saturate at the ends of the signed and the unsigned range. -/
theorem test_saturation : laneOp .saddS 0 [] 0 0x7FFFFFFF 1 0 = 0x7FFFFFFF ∧ laneOp .ssubS 0 [] 0 0x80000000 1 0 = 0x80000000 ∧
    laneOp .saddU 0 [] 0 0xFFFFFFFF 1 0 = 0xFFFFFFFF := by decide +kernel
/-- R133: 1.5 + 2.25 = 3.75 and 1.5 × 2.25 = 3.375 in binary32. -/
theorem test_binary32 : laneOp .fadd 0 [] 0 0x3FC00000 0x40100000 0 = 0x40700000 ∧ laneOp .fmul 0 [] 0 0x3FC00000 0x40100000 0 = 0x40580000 := by
  decide +kernel
/-- R396: the check value of CRC-32C over the digits 1 to 9. -/
theorem test_crc32c : crc32c [0x31, 0x32, 0x33, 0x34, 0x35, 0x36, 0x37, 0x38, 0x39] = 0xE3069283 := by decide +kernel
/-- R437: the check value of CRC-64 over the digits 1 to 9. -/
theorem test_crc64 : crc64 [0x31, 0x32, 0x33, 0x34, 0x35, 0x36, 0x37, 0x38, 0x39] = 0x995DC9BBDF1939FA := by decide +kernel
/-- R9: PRODUCT 0x0796, STEPPING 0xB0, ARCH_GEN 1; R10: version 1 alone is supported. -/
theorem test_identity : State.reset.window0Read 0 0 4 = some 0x0796B001 ∧
    State.reset.window0Read 0 0x10 4 = some 2 ∧ State.reset.window0Read 0 0x1C 4 = some 2 := by decide +kernel

/-! ### Words written out from the encodings of R49 and R53 to R57 -/

/-- A bundle of the A stream with the slots of `hdr`, at tile 0. -/
def spelt (hdr : Nat) : Issue := { tile := 0, stream := if hdr / 64 % 2 = 1 then .E else .A, hdr := BitVec.ofNat 64 hdr, dt := 0 }
/-- OP 0x01, RD 5, RA 3, I 1, IMM −1; OP 0x28, RD 2, I 1, IMM: trip count 7, end offset 9; OP 0x16, RD 1, IMM 4. -/
theorem test_words_scalar :
    decodeScalar (spelt 1) (0x01 + 5 * 2 ^ 8 + 3 * 2 ^ 13 + 2 ^ 23 + (2 ^ 40 - 1) * 2 ^ 24) =
      some (.aluOp (spelt 1) .add 5 3 { i := true, rb := 0, imm := -1 }) ∧
    decodeScalar (spelt 1) (0x28 + 2 * 2 ^ 8 + 2 ^ 23 + (7 + 9 * 2 ^ 16) * 2 ^ 24) = some (.loop (spelt 1) 2 0 true 0x90007) ∧
    decodeScalar (spelt 1) (0x16 + 1 * 2 ^ 8 + 4 * 2 ^ 24) = some (.bind (spelt 1) 1 4) ∧ decodeScalar (spelt 1) 0x19 = none := by decide +kernel
/-- OP 0x03, RA 9, RB 10, IMM 2 of a wait; OP 0x09, IMM: queue 3, k less 1 of 15. -/
theorem test_words_sync :
    (let u := spelt (0x20 + 0x03 * 2 ^ 16 + 9 * 2 ^ 24 + 10 * 2 ^ 29 + 2 * 2 ^ 34)
     decodeSync u u.hdr.toNat = some (.wait u 9 10 2)) ∧
    (let u := spelt (0x60 + 0x09 * 2 ^ 16 + (3 + 15 * 4) * 2 ^ 34)
     decodeSync u u.hdr.toNat = some (.qwait u 0x3F)) := by decide +kernel
/-- OP 0x01, HANDLE 5, AREG 2, QUEUE 3, COUNT 0xB6 in its three pieces, VOL, IMM −2; OP 0x02 of a store: HANDLE 1,023, AREG 15, SREG 30 in its two
pieces, WIDTH 3, ACID 63, IMM 1; OP 0x04: HS 1, HD 2, AS 3, AD 4, COUNT 5, ACID 6. -/
theorem test_words_memory :
    decodeLoad (spelt 8) (0x01 + 5 * 2 ^ 8 + 2 * 2 ^ 18 + 3 * 2 ^ 22 + 6 * 2 ^ 24 + 2 * 2 ^ 27 + 5 * 2 ^ 29 + 2 ^ 32 + (2 ^ 24 - 2) * 2 ^ 40) 0 =
      some (.ldQ (spelt 8) 5 2 3 0xB6 true (-2)) ∧
    decodeStore (spelt 16) (0x02 + 1023 * 2 ^ 8 + 15 * 2 ^ 18 + 2 * 2 ^ 22 + 7 * 2 ^ 24 + 3 * 2 ^ 27 + 63 * 2 ^ 34 + 2 ^ 40) 0 =
      some (.stS (spelt 16) 1023 15 30 .b8 63 1) ∧
    decodeStore (spelt 16) (0x04 + 1 * 2 ^ 8 + 2 * 2 ^ 18 + 3 * 2 ^ 28 + 4 * 2 ^ 32 + 5 * 2 ^ 36 + 6 * 2 ^ 44) 0 = some (.stCp (spelt 16) 1 2 3 4 5 6) := by
  decide +kernel
/-- OP 0x0B, DST 2, SRC1 0x21, SRC2 0x40, SRC3 0x44, COUNT 65,535, HANDLE 7, MOD 2; OP 0x1B: HA 9, BSEL 0x44, HB 10, ACC 2,047, ACCMODE 1. -/
theorem test_words_engines :
    decodeVector (spelt 0x42) (0x0B + 2 * 2 ^ 8 + 0x21 * 2 ^ 15 + 0x40 * 2 ^ 22 + 0x44 * 2 ^ 29 + 65535 * 2 ^ 36 + 7 * 2 ^ 52 + 2 * 2 ^ 62) =
      some (.vsel (spelt 0x42) { dst := 2, src1 := 0x21, src2 := 0x40, src3 := 0x44, count := 65535, handle := 7, md := 2 }) ∧
    decodeMatrix (spelt 0x44) (0x1B + 9 * 2 ^ 8 + 0x44 * 2 ^ 18 + 10 * 2 ^ 25 + 2047 * 2 ^ 35 + 1 * 2 ^ 46) =
      some (.mmul (spelt 0x44) false 11 { ha := 9, bsel := 0x44, hb := 10, acc := 2047, accmode := 1, dsel := 0 }) := by decide +kernel
/-- A bundle of a long load and a jump: four granules, the scalar slot in the second, the load in the next two. -/
theorem test_words_bundle :
    let u := spelt (1 + 8 + 2 ^ 7)
    let g (i : Nat) : Nat := [u.hdr.toNat, 0x20 + 2 * 2 ^ 24, 0x03 + 6 * 2 ^ 8 + 1 * 2 ^ 12 + 64 * 2 ^ 15 + 127 * 2 ^ 38, 256 + 3 * 2 ^ 24].getD i 0
    hdrLength u.hdr = 4 ∧ decodeBundle u g = some [.jmp u 2, .ldQL u { areg := 6, queue := 1, spaddr := 64, rowbytes := 127, rowstride := 256, rows := 3 }] ∧
    decodeBundle u (fun i => if i = 1 then 0x27 else g i) = none := by decide +kernel
/-- R28: outside the millisecond after a change the new state alone counts. -/
theorem test_report_consistent : reportConsistent 2 4 = true ∧ reportConsistent 2 5 = false ∧ reportConsistent 1 1 = false := by decide
/-- No row of the table has bits. -/
theorem test_no_bits : decodeTableWord 64 0 = none ∧ State.reset.withFetchWord 64 0 = State.reset := by decide

end Sys2Proof.Tests
end

section
/-! The registers of a PCIe function as the state holds them, and what O32 says of them: rings, interface versions and quotas. -/

namespace Sys2Proof.Machine

/-! ### The functions of the state -/

/-- A write of a value other than the default leaves every other key as it reads, whatever the map and whatever default it is read with:
such a write drops no entry. -/
theorem mget_mput_other_of_ne {α : Type} [DecidableEq α] {d e v : α} (hv : v ≠ d) (m : SMap α) {i j : Nat} (hij : j ≠ i) :
    mget e (mput d m i v) j = mget e m j := by
  induction m with
  | nil => simp [mput, mget, hv, hij]
  | cons p m ih =>
    obtain ⟨k, w⟩ := p
    rcases Nat.lt_trichotomy i k with hlt | rfl | hgt
    · by_cases hji : j < i
      · have hjk : j < k := by omega
        simp [mput, mget, hv, hlt, hij, hji, hjk, Nat.ne_of_lt hjk]
      · simp [mput, mget, hv, hlt, hij, hji]
    · simp [mput, mget, hv, hij]
    · have hik : ¬ i < k := by omega
      simp [mput, mget, hik, Nat.ne_of_gt hgt, ih]

theorem State.fn_setFn_same_of_ne {s : State} {f : Nat} {x : Fn} (hx : x ≠ Fn.zero f) : (s.setFn f x).fn f = x := mget_mput_ne hx f

theorem State.fn_setFn_other_of_ne {s : State} {f g : Nat} {x : Fn} (hx : x ≠ Fn.zero f) (hg : g ≠ f) : (s.setFn f x).fn g = s.fn g :=
  mget_mput_other_of_ne hx s.fns hg

@[simp] theorem State.setServing_fn_keeps (s : State) (v : Serving → Serving) (f : Nat) : (s.setServing v).fn f = s.fn f := rfl

/-! ### Interface versions (R10 to R12) -/

/-- What an offer and the supported set share: version 1, the only one that the module supports, where it is offered. -/
theorem offer_and_supportedSet (offer : BitVec 16) : offer &&& supportedSet = if offer.getLsbD 1 then supportedSet else 0 := by
  have hbit : ∀ i, i < 16 → supportedSet.getLsbD i = decide (i = 1) := by decide
  refine BitVec.eq_of_getLsbD_eq fun i hi => ?_
  rw [BitVec.getLsbD_and, hbit i hi]
  by_cases h1 : i = 1
  · subst h1
    cases offer.getLsbD 1 <;> decide
  · cases offer.getLsbD 1 <;> simp [hbit i hi, h1]

/-- The version chosen is 1 where it is offered, else 0. -/
theorem bestVersion_eq (offer : BitVec 16) : bestVersion offer = if offer.getLsbD 1 then 1 else 0 := by
  unfold bestVersion
  rw [offer_and_supportedSet]
  cases offer.getLsbD 1 <;> decide

theorem exec_reqIfneg_of_idle {s : State} {f : Nat} (h : (s.fn f).rqEn = false) (offer : BitVec 16) :
    exec (.reqIfneg f offer) s = .next (s.setFn f { s.fn f with ifActive := if offer.getLsbD 1 then 1 else 0 }) := by
  change execReqIfneg f offer s = _
  simp [execReqIfneg, h, bestVersion_eq]

theorem exec_ifnegWrite_of_free {s : State} (hl : s.jobLive = false) (hs : s.job.susp = false) (offer : BitVec 16) :
    exec (.ifnegWrite 0 offer) s = .next { s with lodge := { s.lodge with ifActive0 := if offer.getLsbD 1 then 1 else 0 } } ∧
    exec (.ifnegWrite 4 offer) s = .next { s with lodge := { s.lodge with ifActive4 := if offer.getLsbD 1 then 1 else 0 } } := by
  constructor
  · change execIfnegWrite 0 offer s = _
    simp [execIfnegWrite, hl, hs, bestVersion_eq]
  · change execIfnegWrite 4 offer s = _
    simp [execIfnegWrite, hl, hs, bestVersion_eq]

/-! ### The rings (R334, R360, R365) -/

theorem exec_ringEnable_of_allowed {s : State} {f : Nat} {value : BitVec 64} (hoff : (s.fn f).rqEn = false) (hen : value.getLsbD 8 = true)
    (hver : (s.fn f).ifActive ≠ 0) (hmin : 4 ≤ (value.truncate 5 : BitVec 5).toNat)
    (hmax : (value.truncate 5 : BitVec 5).toNat ≤ fld (s.fn f).quotaA.toNat 28 4) :
    exec (.ringEnable f value) s = .next (s.setFn f { s.fn f with rqLog2n := value.truncate 5, rqEn := true }) := by
  have hok : (decide ((s.fn f).ifActive ≠ 0#8) && decide (4 ≤ (value.truncate 5 : BitVec 5).toNat) &&
      decide ((value.truncate 5 : BitVec 5).toNat ≤ fld (s.fn f).quotaA.toNat 28 4)) = true := by
    simp only [Bool.and_eq_true, decide_eq_true_eq]
    exact ⟨⟨hver, hmin⟩, hmax⟩
  change execRingEnable f value s = _
  simp only [execRingEnable, hoff, hen, Bool.false_eq_true, if_false, hok, Bool.or_true, Bool.and_true]

/-- The registers of a function that is disabled while a serving job runs: without its ring, its requests still to end at action 3. -/
def Fn.disabledLive (x : Fn) : Fn := { x with enabled := false, rqEn := false, disabledPending := true }

theorem Fn.disabledLive_ne_zero (x : Fn) (f : Nat) : x.disabledLive ≠ Fn.zero f := fun h => Bool.noConfusion (congrArg Fn.disabledPending h)

/-- Of the functions, stopping one changes its own registers alone. -/
theorem State.stopFunction_fn {s : State} (h : s.servingRuns = true) (f g : Nat) :
    (s.stopFunction f).fn g = (s.setFn f (s.fn f).disabledLive).fn g := by
  simp only [State.stopFunction, h, State.setServing_fn_keeps]
  rfl

theorem State.stopFunction_queue_length (s : State) (f : Nat) : (s.stopFunction f).serving.queue.length = s.serving.queue.length :=
  List.length_map _

/-- Every queued request of a function that was stopped is marked. -/
theorem State.stopFunction_queue_disabled (s : State) (f : Nat) :
    ∀ q ∈ (s.stopFunction f).serving.queue, q.fn = f → q.disabled = true := by
  intro q hq hf
  obtain ⟨q0, -, rfl⟩ := List.mem_map.mp hq
  by_cases h0 : q0.fn = f
  · simp [h0]
  · simp [h0] at hf

theorem exec_functionDisable_of_virtual {f : Nat} (hf : f ≠ 0) (s : State) : exec (.functionDisable f) s = .next (s.stopFunction f) := by
  change execFunctionDisable f s = _
  simp [execFunctionDisable, hf]

/-! ### Quotas (R412 to R414, R421) -/

/-- LDG_QUOTA_A of a written word, without its reserved bits (R6, R421). -/
def quotaWordA (a : Reg64) : Reg64 := BitVec.ofNat 64 (fld a.toNat 0 14 + fld a.toNat 16 11 * 2 ^ 16 + fld a.toNat 28 36 * 2 ^ 28)
/-- LDG_QUOTA_B of a written word, without its reserved bits (R6, R421). -/
def quotaWordB (b : Reg64) : Reg64 := BitVec.ofNat 64 (b.toNat % 2 ^ 33)

theorem State.servingRuns_of_not_jobLive {s : State} (h : s.jobLive = false) : s.servingRuns = false := by
  have hst : s.job.state ≠ 2 := by
    intro h2
    simp [State.jobLive, h2] at h
  simp [State.servingRuns, hst]

theorem State.rangeWaits_of_not_jobLive {s : State} (h : s.jobLive = false) (f : Nat) (b : Reg64) : s.rangeWaits f b = false := by
  simp [State.rangeWaits, h]

@[simp] theorem State.setFn_jobLive (s : State) (f : Nat) (x : Fn) : (s.setFn f x).jobLive = s.jobLive := rfl

section
variable {s : State} {f : Nat} {a b : Reg64} (h1 : 1 ≤ f) (h2 : f ≤ 4096)
include h1 h2

/-- A write to the quota words of a tenant, by its three outcomes. -/
theorem exec_quotaWrite_of_tenant : exec (.quotaWrite f a b) s = .next (
    let x := s.fn f
    let s1 := s.setFn f { x with quotaA := quotaWordA a, quotaB := setBit x.quotaB 63 false }
    if s.quotaWriteOk f (quotaWordA a) (quotaWordB b) = false then s.setFn f { x with quotaB := setBit x.quotaB 63 true }
    else if s.servingRuns then
      s.setFn f { x with quotaPendA := some (quotaWordA a), quotaPendB := some (quotaWordB b), quotaB := setBit x.quotaB 63 false }
    else if s1.rangeWaits f (quotaWordB b) then s1.setFn f { s1.fn f with quotaPendB := some (quotaWordB b) }
    else s1.setRange f (quotaWordB b)) := by
  have hf : ¬ (f = 0 ∨ 4096 < f) := by omega
  change execQuotaWrite f a b s = _
  simp only [execQuotaWrite, hf, if_false, Bool.not_eq_true']
  rfl

theorem exec_quotaWrite_of_refused (hok : s.quotaWriteOk f (quotaWordA a) (quotaWordB b) = false) :
    exec (.quotaWrite f a b) s = .next (s.setFn f { s.fn f with quotaB := setBit (s.fn f).quotaB 63 true }) := by
  simp only [exec_quotaWrite_of_tenant h1 h2, hok, if_true]

theorem exec_quotaWrite_of_serving (hok : s.quotaWriteOk f (quotaWordA a) (quotaWordB b) = true) (hr : s.servingRuns = true) :
    exec (.quotaWrite f a b) s = .next (s.setFn f { s.fn f with
      quotaPendA := some (quotaWordA a), quotaPendB := some (quotaWordB b), quotaB := setBit (s.fn f).quotaB 63 false }) := by
  simp only [exec_quotaWrite_of_tenant h1 h2, hok, hr, Bool.true_eq_false, if_false, if_true]

theorem exec_quotaWrite_of_free (hok : s.quotaWriteOk f (quotaWordA a) (quotaWordB b) = true) (hl : s.jobLive = false) :
    exec (.quotaWrite f a b) s = .next
      ((s.setFn f { s.fn f with quotaA := quotaWordA a, quotaB := setBit (s.fn f).quotaB 63 false }).setRange f (quotaWordB b)) := by
  simp only [exec_quotaWrite_of_tenant h1 h2, hok, State.servingRuns_of_not_jobLive hl,
    State.rangeWaits_of_not_jobLive ((State.setFn_jobLive ..).trans hl), Bool.true_eq_false, Bool.false_eq_true, if_false]

end

/-- Settles O32, by the outcome of each register write in the case that the clause names. -/
theorem ringsInterfacesAndQuotasAreSet : Obligations.RingsInterfacesAndQuotasAreSet := by
  unfold Obligations.RingsInterfacesAndQuotasAreSet
  refine ⟨fun s f => ⟨?_, ?_, ?_, ?_⟩, fun s => ⟨?_, ?_⟩⟩
  · intro offer hoff h1
    rw [exec_reqIfneg_of_idle hoff, if_pos h1]
  · intro offer hoff h1
    rw [exec_reqIfneg_of_idle hoff, h1, if_neg Bool.false_ne_true]
  · intro value hoff hen hver hmin hmax
    exact exec_ringEnable_of_allowed hoff hen hver hmin hmax
  · intro hf hr
    have hne : (s.fn f).disabledLive ≠ Fn.zero f := Fn.disabledLive_ne_zero _ f
    exact ⟨s.stopFunction f, exec_functionDisable_of_virtual hf s,
      (State.stopFunction_fn hr f f).trans (State.fn_setFn_same_of_ne hne),
      s.stopFunction_queue_disabled f, s.stopFunction_queue_length f,
      fun g hg => (State.stopFunction_fn hr f g).trans (State.fn_setFn_other_of_ne hne hg)⟩
  · intro offer hl hs
    exact exec_ifnegWrite_of_free hl hs offer
  · intro f a b _ _ _ h1 h2
    exact ⟨exec_quotaWrite_of_refused h1 h2, exec_quotaWrite_of_serving h1 h2, exec_quotaWrite_of_free h1 h2⟩

end Sys2Proof.Machine
end

section
/-! The accesses of a function and of a steward to the module's registers, and what O52 says of them: writes follow their access codes, reads
answer the word. -/

namespace Sys2Proof.Machine

/-! ### Window 0 of a function (R466 to R468) -/

section Window
variable {s : State} {f off width : Nat} {v : BitVec 64}

theorem exec_hostWrite_of_disabled (h : (s.fn f).enabled = false) : exec (.registerWrite (.host f 0) off width v) s = .next s := by
  change execRegisterWrite (.host f 0) off width v s = _
  simp [execRegisterWrite, h]

theorem exec_hostWrite_of_enabled (h : (s.fn f).enabled = true) :
    exec (.registerWrite (.host f 0) off width v) s = .next (s.writeWindow0 f off width v) := by
  change execRegisterWrite (.host f 0) off width v s = _
  simp [execRegisterWrite, h]

/-- The registers above 64 KiB are the physical function's: a write of a virtual function is ignored. -/
theorem State.writeWindow0_of_beyond (hf : f ≠ 0) (hoff : 0x10000 ≤ off) : s.writeWindow0 f off width v = s := by
  simp [State.writeWindow0, hf, hoff]

section Registers
variable (hout : off < 0x4000 ∨ 0x10000 ≤ off) (hown : f = 0 ∨ off < 0x10000)
include hout hown

/-- Such an offset lies in no part of window 0 that is taken before the registers. -/
theorem window0_register_range :
    ¬ (f ≠ 0 ∧ 0x10000 ≤ off) ∧ ¬ (0x4000 ≤ off ∧ off < 0xC000) ∧ ¬ (0xC000 ≤ off ∧ off < 0x10000) := by omega

theorem State.writeWindow0_of_no_register (hw : window0Width f off = none) : s.writeWindow0 f off width v = s.hostRegError f off := by
  obtain ⟨hbeyond, hmsix, hntf⟩ := window0_register_range hout hown
  simp only [State.writeWindow0, hbeyond, hmsix, hntf, hw, if_false]

/-- Outside the MSI-X table and the notification view, a write where a register stands goes by the register's width and the function. -/
theorem State.writeWindow0_of_register {w : Nat} (hw : window0Width f off = some w) : s.writeWindow0 f off width v =
    if w ≠ width then s.hostRegError f off
    else if f = 0 then
      (if [0x200, 0x208, 0x230, 0x820, 0x828].contains off then s.writeOwn f off v else s.writePhysical off v)
    else s.writeOwn f off v := by
  obtain ⟨hbeyond, hmsix, hntf⟩ := window0_register_range hout hown
  simp only [State.writeWindow0, hbeyond, hmsix, hntf, hw, if_false]

theorem State.writeWindow0_of_wrong_width {w : Nat} (hw : window0Width f off = some w) (hne : w ≠ width) :
    s.writeWindow0 f off width v = s.hostRegError f off := by
  rw [State.writeWindow0_of_register hout hown hw, if_pos hne]

/-- A register that every function has takes a write of its width, from the physical function as from a virtual one. -/
theorem State.writeWindow0_own (hw : window0Width f off = some width) (hmem : [0x200, 0x208, 0x230, 0x820, 0x828].contains off = true) :
    s.writeWindow0 f off width v = s.writeOwn f off v := by
  simp only [State.writeWindow0_of_register hout hown hw, hmem, ne_eq, not_true_eq_false, if_false, if_true, ite_self]

end Registers

/-- A virtual function's write of a register's width, which only the registers that every function has take. -/
theorem State.writeWindow0_virtual (hf : f ≠ 0) (hoff : off < 0x4000) (hw : window0Width f off = some width) :
    s.writeWindow0 f off width v = s.writeOwn f off v := by
  simp only [State.writeWindow0_of_register (.inl hoff) (.inr (by omega : off < 0x10000)) hw, hf, ne_eq, not_true_eq_false, if_false]

/-- The physical function's write of the width of a register that it alone has. -/
theorem State.writeWindow0_physical (hout : off < 0x4000 ∨ 0x10000 ≤ off) (hw : window0Width 0 off = some width)
    (hmem : [0x200, 0x208, 0x230, 0x820, 0x828].contains off = false) : s.writeWindow0 0 off width v = s.writePhysical off v := by
  simp only [State.writeWindow0_of_register hout (.inl rfl) hw, hmem, ne_eq, not_true_eq_false, Bool.false_eq_true, if_false, if_true]

/-! ### Reads of window 0 (R9, R35, R468) -/

theorem exec_hostRead_of_enabled (h : (s.fn f).enabled = true) :
    exec (.registerWrite (.hostRead f false) off width v) s = .next (s.hostReadReg f false off width) := by
  change execRegisterWrite (.hostRead f false) off width v s = _
  simp [execRegisterWrite, h]

theorem State.hostReadReg_of_word {w : Nat} (h : s.window0Read f off width = some w) :
    s.hostReadReg f false off width = s.send (.regData (.hostRead f false) off (BitVec.ofNat 64 w)) := by
  simp [State.hostReadReg, h]

theorem State.hostReadReg_of_error (h : s.window0Read f off width = none) :
    s.hostReadReg f false off width = (s.hostRegError f off).send (.regData (.hostRead f false) off 0) := by
  simp [State.hostReadReg, h]

end Window

theorem State.window0Read_identity (s : State) (f : Nat) : s.window0Read f 0 4 = some archId := by
  by_cases hf : f = 0 <;> simp [State.window0Read, window0Width, hf, State.physReg, State.ownReg]

theorem State.window0Read_time (s : State) (f : Nat) : s.window0Read f 0x100 8 = some s.time.toNat := by
  by_cases hf : f = 0 <;> simp [State.window0Read, window0Width, hf, State.physReg, State.ownReg]

/-! ### Where registers stand -/

/-- The registers of the ring base, the job image and the errors are of 8 bytes, in every function (R364, R415, R490). -/
theorem window0Width_low (f : Nat) {off : Nat} (h : off = 0x200 ∨ off = 0x400 ∨ off = 0x820 ∨ off = 0x828) :
    window0Width f off = some 8 := by
  rcases h with rfl | rfl | rfl | rfl <;> simp [window0Width]

/-! ### Register space written by a steward (R498, R518, R522) -/

section Steward
variable {s : State} {k : Fin 4} {off width : Nat} {v : BitVec 64}

theorem exec_stewardWrite_of_fenced (h : s.stwOn k.val = false) : exec (.registerWrite (.steward k) off width v) s = .next s := by
  change execRegisterWrite (.steward k) off width v s = _
  simp [execRegisterWrite, h]

/-- An enabled steward's aligned write of 8 bytes at an offset of the LDG_ block. -/
theorem exec_stewardWrite_lodge (h : s.stwOn k.val = true) (hoff : off < 0x10000) (hal : off % 8 = 0) :
    exec (.registerWrite (.steward k) (0x80000000 + off) 8 v) s = .next (s.writeLodge k.val off v) := by
  have hnarrow : ¬ 0x80000000 + off < 0x38000000 := by omega
  have hal' : (0x80000000 + off) % 8 = 0 := by omega
  have hstk : ¬ 0x80000000 + off < 0x30000000 + 8 * 0x100000 := by omega
  have hsem : ¬ 0x80000000 + off < 0x41000000 := by omega
  have htmb : ¬ 0x80000000 + off < 0x60000000 + 2 * 0x100000 := by omega
  have hlnk : ¬ 0x80000000 + off < 0x70100000 := by omega
  have hbnd : ¬ 0x80000000 + off < 0x78000000 + 2 * 0x100000 := by omega
  have hldg : 0x80000000 ≤ 0x80000000 + off ∧ 0x80000000 + off < 0x80010000 := by omega
  change execRegisterWrite (.steward k) (0x80000000 + off) 8 v s = _
  simp only [execRegisterWrite, h, State.writeSpace, hnarrow, hal', hstk, hsem, htmb, hlnk, hbnd, hldg, decide_false, Bool.and_false,
    Bool.false_and, Bool.false_eq_true, and_false, and_self, ne_eq, not_true_eq_false, or_self, if_false, if_true, Nat.add_sub_cancel_left]

end Steward

theorem State.writeLodge_intSrc (s : State) (k : Nat) {n : Nat} (hn : n < 2048) (v : BitVec 64) :
    s.writeLodge k (8 * n) v = s.setIntSrc n ((s.intSrc n).write v) := by
  have hal : 8 * n % 8 = 0 := by omega
  have hdiv : 8 * n / 8 = n := by omega
  have hlt : 8 * n < 0x4000 := by omega
  simp only [State.writeLodge, hal, hdiv, hlt, ne_eq, not_true_eq_false, if_false, if_true]

/-- The duties' offset is no steward's EOI or heartbeat register. -/
theorem State.writeLodge_duty (s : State) {k : Nat} (hk : k < 4) (v : BitVec 64) :
    s.writeLodge k 0x5030 v = { s with lodge := { s.lodge with duty := v.truncate 16 } } := by
  have heoi : ¬ 0x5030 = 0x4108 + 0x20 * k := by omega
  have hhb : ¬ 0x5030 = 0x5000 + 8 * k := by omega
  simp [State.writeLodge, heoi, hhb]

/-- Settles O52, by what the windows and register space do with an access of each kind. -/
theorem registerWritesFollowTheirAccessCodes : Obligations.RegisterWritesFollowTheirAccessCodes := by
  unfold Obligations.RegisterWritesFollowTheirAccessCodes
  intro s f off width v
  refine ⟨exec_hostWrite_of_disabled, fun hen => ?_, fun hen => ?_, fun k => ?_⟩
  · have own {o : Nat} (ho : o < 0x4000) (hw : window0Width f o = some 8)
        (hmem : [0x200, 0x208, 0x230, 0x820, 0x828].contains o = true) :
        exec (.registerWrite (.host f 0) o 8 v) s = .next (s.writeOwn f o v) := by
      rw [exec_hostWrite_of_enabled hen, State.writeWindow0_own (.inl ho) (.inr (by omega)) hw hmem]
    refine ⟨?_, ?_, ?_, ?_, ?_, ?_, ?_, ?_, ?_, ?_⟩
    · intro hout hown hw
      rw [exec_hostWrite_of_enabled hen, State.writeWindow0_of_no_register hout hown hw]
      rfl
    · intro w hout hown hw hne
      rw [exec_hostWrite_of_enabled hen, State.writeWindow0_of_wrong_width hout hown hw hne]
      rfl
    · intro hf hoff
      rw [exec_hostWrite_of_enabled hen, State.writeWindow0_of_beyond hf hoff]
    · exact own (by decide) (window0Width_low f (by decide)) rfl
    · exact own (by decide) (window0Width_low f (by decide)) rfl
    · exact own (by decide) (window0Width_low f (by decide)) rfl
    · intro hf
      rw [exec_hostWrite_of_enabled hen, State.writeWindow0_virtual hf (by decide) (window0Width_low f (by decide))]
      rfl
    · rw [exec_hostRead_of_enabled hen, State.hostReadReg_of_word (s.window0Read_identity f)]
      rfl
    · rw [exec_hostRead_of_enabled hen, State.hostReadReg_of_word (s.window0Read_time f), BitVec.ofNat_toNat, BitVec.setWidth_eq]
    · intro hnone
      rw [exec_hostRead_of_enabled hen, State.hostReadReg_of_error hnone]
      rfl
  · have physical {o : Nat} (ho : o < 0x4000 ∨ 0x10000 ≤ o) (hw : window0Width 0 o = some 8)
        (hmem : [0x200, 0x208, 0x230, 0x820, 0x828].contains o = false) :
        exec (.registerWrite (.host 0 0) o 8 v) s = .next (s.writePhysical o v) := by
      rw [exec_hostWrite_of_enabled hen, State.writeWindow0_physical ho hw hmem]
    refine ⟨fun hjob => ?_, ?_, ?_⟩
    · rw [physical (by decide) (by decide) rfl]
      exact congrArg Host.Outcome.next (if_neg hjob)
    · exact physical (by decide) (by decide) rfl
    · exact physical (by decide) (by decide) rfl
  · refine ⟨exec_stewardWrite_of_fenced, fun n hon hn => ?_, fun hon => ?_⟩
    · rw [exec_stewardWrite_lodge hon (by omega) (by omega), s.writeLodge_intSrc k.val hn]
    · rw [← s.writeLodge_duty k.isLt]
      exact exec_stewardWrite_lodge (off := 0x5030) hon (by decide) (by decide)

end Sys2Proof.Machine
end

section
/-! The state after a module reset, unit by unit, and what O57 says of it. -/

namespace Sys2Proof.Machine

/-! ### Nothing is listed after reset, so every unit reads as its reset value (R8, R555) -/

@[simp] theorem State.reset_unit (u : Nat) : State.reset.unit u = ustDefault u := rfl
@[simp] theorem State.reset_sema (n : Nat) : State.reset.sema n = Sem.zero := rfl
@[simp] theorem State.reset_quota (f : Nat) : State.reset.quota f = (0, 0) := rfl
@[simp] theorem State.reset_link (n : Nat) : State.reset.link n = Link.zero := rfl
@[simp] theorem State.reset_intSrc (n : Nat) : State.reset.intSrc n = IntSrc.zero := rfl
@[simp] theorem State.reset_stack (n : Nat) : State.reset.stack n = Stack.zero := rfl
@[simp] theorem State.reset_tile (n : Nat) : State.reset.tile n = Tile.zero := rfl

/-! ### Unit identifiers and the unit state table (R24, R25) -/

theorem unitCount_le (cls : Nat) : unitCount cls ≤ 512 := by
  unfold unitCount
  split <;> decide

/-- A unit's identifier gives back its class and its index. -/
theorem unitId_div_mod {cls i : Nat} (hi : i < unitCount cls) : unitId cls i / 4096 = cls ∧ unitId cls i % 4096 = i := by
  have hle := unitCount_le cls
  unfold unitId
  omega

theorem ustDefault_reported (u : Nat) : (ustDefault u).reported = 0 := rfl

/-- After reset a unit is ONLINE, but for the spare tile of each region. -/
theorem ustDefault_allowed {cls i : Nat} (hi : i < unitCount cls) :
    (ustDefault (unitId cls i)).allowed = if cls = 0 ∧ i % 13 = 12 then 1 else 2 := by
  obtain ⟨hcls, hidx⟩ := unitId_div_mod hi
  simp only [ustDefault, hcls, hidx, hi, if_true]

/-- Settles O57: every field at the value of its reset constant, and the unit state table by class and index. -/
theorem resetLeavesTheValuesOfTheRegisterTables : Obligations.ResetLeavesTheValuesOfTheRegisterTables := by
  unfold Obligations.ResetLeavesTheValuesOfTheRegisterTables
  refine ⟨fun i hi => ?_, fun c i hc _ hi => ⟨?_, ustDefault_reported _⟩, fun n => ?_, fun n => ?_, fun n => ?_, fun n page => ?_, fun n => ?_,
    rfl, rfl, rfl, rfl, rfl, rfl, rfl⟩
  · simpa using ustDefault_allowed (cls := 0) hi
  · have hne : c ≠ 0 := by omega
    simpa [hne] using ustDefault_allowed hi
  · simp [Sem.zero]
  · simp [Link.zero]
  · simp [IntSrc.zero]
  · simp [Stack.zero, memGet, mget]
  · simp [Tile.zero]

end Sys2Proof.Machine
end

section
/-! Waking and sleeping units, and what O16 says of them. -/

namespace Sys2Proof.Machine

section Units
variable {s : State} {unit : BitVec 16}

/-! ### A waking unit becomes ready (R32, R182) -/

theorem exec_unitWakeComplete_tile (hcls : unit.toNat / 4096 = 0) (hmapped : (s.unit unit.toNat).logical < 96)
    (hwaking : (s.tile (s.unit unit.toNat).logical).sleep = .waking) :
    exec (.unitWakeComplete unit) s = .next ((s.setTile (s.unit unit.toNat).logical
      { s.tile (s.unit unit.toNat).logical with sleep := .awake }).traceWake unit.toNat) := by
  change execUnitWakeComplete unit s = _
  simp only [execUnitWakeComplete, hcls, hmapped, hwaking, and_self, if_true]

theorem exec_unitWakeComplete_engine (hcls : unit.toNat / 4096 = 1)
    (hwaking : (s.engine (unit.toNat % 4096 / 64) (unit.toNat % 4096 % 64)).sleep = .waking) :
    exec (.unitWakeComplete unit) s = .next ((s.setEngine (unit.toNat % 4096 / 64) (unit.toNat % 4096 % 64)
      { Engine.zero with sleep := .awake, lastUse := (s.stack (unit.toNat % 4096 / 64)).cycle }).traceWake unit.toNat) := by
  change execUnitWakeComplete unit s = _
  simp only [execUnitWakeComplete, hcls, hwaking, if_true]

theorem exec_unitWakeComplete_copy (hcls : unit.toNat / 4096 = 2) (hwaking : (s.region (unit.toNat % 4096)).cpySleep = .waking) :
    exec (.unitWakeComplete unit) s = .next ((s.setRegion (unit.toNat % 4096)
      { s.region (unit.toNat % 4096) with cpySleep := .awake }).traceWake unit.toNat) := by
  change execUnitWakeComplete unit s = _
  simp only [execUnitWakeComplete, hcls, hwaking, if_true]

theorem exec_unitWakeComplete_hdma (hcls : unit.toNat / 4096 = 3) (hwaking : (s.region (unit.toNat % 4096)).hdmaSleep = .waking) :
    exec (.unitWakeComplete unit) s = .next ((s.traceWake unit.toNat).hdmaTurn (unit.toNat % 4096)
      { s.region (unit.toNat % 4096) with hdmaSleep := .awake }) := by
  change execUnitWakeComplete unit s = _
  simp only [execUnitWakeComplete, hcls, hwaking, if_true]

/-! ### An idle unit sleeps (R32, R33, R200) -/

theorem exec_unitSleep_tile (hcls : unit.toNat / 4096 = 0) (hmapped : (s.unit unit.toNat).logical < 96)
    (hawake : (s.tile (s.unit unit.toNat).logical).sleep = .awake) (hidle : (s.tile (s.unit unit.toNat).logical).noWork = true) :
    exec (.unitSleep unit) s = .next ((s.traceSleep unit.toNat).setTile (s.unit unit.toNat).logical
      { s.tile (s.unit unit.toNat).logical with sleep := .asleep }) := by
  change execUnitSleep unit s = _
  simp only [execUnitSleep, hcls, hmapped, hawake, hidle, and_self, if_true]

theorem exec_unitSleep_copy (hcls : unit.toNat / 4096 = 2) (hawake : (s.region (unit.toNat % 4096)).cpySleep = .awake)
    (hidle : (s.region (unit.toNat % 4096)).copyIdle = true) :
    exec (.unitSleep unit) s = .next ((s.setRegion (unit.toNat % 4096)
      { s.region (unit.toNat % 4096) with cpySleep := .asleep }).traceSleep unit.toNat) := by
  change execUnitSleep unit s = _
  simp only [execUnitSleep, hcls, hawake, hidle, and_self, if_true]

theorem exec_unitSleep_hdma (hcls : unit.toNat / 4096 = 3) (hawake : (s.region (unit.toNat % 4096)).hdmaSleep = .awake)
    (hidle : (s.region (unit.toNat % 4096)).hdmaIdle = true) :
    exec (.unitSleep unit) s = .next ((s.setRegion (unit.toNat % 4096)
      { s.region (unit.toNat % 4096) with hdmaSleep := .asleep }).traceSleep unit.toNat) := by
  change execUnitSleep unit s = _
  simp only [execUnitSleep, hcls, hawake, hidle, and_self, if_true]

end Units

theorem Stack.quiet_iff (k : Stack) : k.quiet = true ↔ k.prg = none ∧ k.startQ = [] := by
  simp [Stack.quiet]

/-- An engine that has had no row for 1,200 cycles of its stack, while no programme runs or waits there. -/
theorem exec_bankEngineSleep_of_idle {s : State} {k : StkAt} {pc : Fin 64} (hquiet : ((s.reachStk k).stack k.stack).quiet = true)
    (hawake : ((s.reachStk k).engine k.stack pc.val).sleep = .awake)
    (hlong : ((s.reachStk k).engine k.stack pc.val).lastUse + 1200 ≤ ((s.reachStk k).stack k.stack).cycle) :
    exec (.bankEngineSleep k pc) s =
      .next (((s.reachStk k).setEngine k.stack pc.val Engine.zero).traceSleep (unitId 1 (k.stack * 64 + pc.val))) := by
  change execBankEngineSleep k pc s = _
  simp only [execBankEngineSleep, hquiet, hawake, hlong, decide_true, Bool.and_self, if_true]

/-- Settles O16, class of unit by class of unit. -/
theorem unitsWakeAndSleep : Obligations.UnitsWakeAndSleep := by
  unfold Obligations.UnitsWakeAndSleep
  intro s unit
  refine ⟨exec_unitWakeComplete_tile, exec_unitWakeComplete_engine, exec_unitWakeComplete_copy, exec_unitWakeComplete_hdma,
    exec_unitSleep_tile, exec_unitSleep_copy, exec_unitSleep_hdma, ?_⟩
  intro k pc s1 c g hprg hstart hawake hlong
  exact exec_bankEngineSleep_of_idle (c.quiet_iff.mpr ⟨hprg, hstart⟩) hawake hlong

end Sys2Proof.Machine
end

section
/-! The step boundary, and what O30 says of it: its actions one by one, a run of them, and its end. -/

namespace Sys2Proof.Machine

section Actions
variable {s : State} {cons : List (Nat × BitVec 32 × BitVec 32)} {b : Boundary}

/-! ### What comes next in a boundary, action by action (R36, R37, R344) -/

theorem State.bndAction_one (h : b.next = 1) : s.bndAction cons b = some (s.action1, { b with next := 2, inStep := s.stepSeqs }) := by
  simp only [State.bndAction, h]

theorem State.bndAction_two (h : b.next = 2) : s.bndAction cons b = some (s.action2 cons, { b with next := 3 }) := by
  simp only [State.bndAction, h]

theorem State.bndAction_three (h : b.next = 3) :
    s.bndAction cons b = some ((s.noteDeadlines b.inStep).action3 cons, { b with next := 4, ending := s.serving.endPend }) := by
  simp only [State.bndAction, h]

theorem State.bndAction_four (h : b.next = 4) : s.bndAction cons b = some (s.action4, { b with next := 5 }) := by
  simp only [State.bndAction, h]

/-- The state in which action 5 has planned its page copies, once in a boundary, and asked for those that it can. -/
def State.bndCopying (s : State) (b : Boundary) : State := (if b.asked then s else s.planCopies).askCopies

theorem State.bndAction_five_of_copying (h : b.next = 5) (hwait : (s.bndCopying b).copiesDone = false) :
    s.bndAction cons b = some (s.bndCopying b, { b with asked := true }) := by
  unfold State.bndCopying at *
  simp only [State.bndAction, h, hwait, Bool.not_false, if_true]

theorem State.bndAction_five_of_copied (h : b.next = 5) (hdone : (s.bndCopying b).copiesDone = true) :
    s.bndAction cons b = some ((s.bndCopying b).action5.1.setServing fun v => { v with quarantine := v.quarantine ++ (s.bndCopying b).action5.2 },
      { b with next := 6, asked := false, release := s.serving.quarantine }) := by
  unfold State.bndCopying at *
  simp only [State.bndAction, h, hdone, Bool.not_true, Bool.false_eq_true, if_false]

/-- Action 5 where no earlier part of the boundary has asked for its copies and none remains to be made: `r` is what it answers. -/
theorem State.bndAction_five_at_once {r : State × List Nat} (h : b.next = 5) (hnew : b.asked = false)
    (hdone : s.planCopies.askCopies.copiesDone = true) (hr : s.planCopies.askCopies.action5 = r) :
    s.bndAction cons b = some (r.1.setServing fun v => { v with quarantine := v.quarantine ++ r.2 },
      { b with next := 6, asked := false, release := s.serving.quarantine }) := by
  have hcopying : s.bndCopying b = s.planCopies.askCopies := by rw [State.bndCopying, hnew, if_neg Bool.false_ne_true]
  rw [State.bndAction_five_of_copied h (hcopying.symm ▸ hdone), hcopying, hr]

theorem State.bndAction_six (h : b.next = 6) : s.bndAction cons b = some (s.releaseQuarantine b.release, { b with next := 7 }) := by
  simp only [State.bndAction, h]

theorem State.bndAction_seven (h : b.next = 7) :
    s.bndAction cons b = some (if b.ending then s else (s.applyQuotas false).action7 cons, { b with next := 8 }) := by
  simp only [State.bndAction, h]

theorem State.bndAction_eight (h : b.next = 8) :
    s.bndAction cons b = some (if b.ending then s.endServing else s.action8, { b with next := 9 }) := by
  simp only [State.bndAction, h]

/-! ### A run of actions -/

variable {t : State} {b' : Boundary} {last n cycles : Nat}

theorem State.bndRun_of_past (h : last < b.next) : State.bndRun cons last n s b = (s, b) := by
  cases n with
  | zero => rfl
  | succ n => rw [State.bndRun, if_pos h]

/-- An action that completes is recorded complete, and the run goes on with the next one (R36). -/
theorem State.bndRun_of_action (hle : b.next ≤ last) (ha : s.bndAction cons b = some (t, b')) (hnext : b'.next = b.next + 1) :
    State.bndRun cons last (n + 1) s b = State.bndRun cons last n (t.dutyBoundary 0) b' := by
  have hne : b'.next ≠ b.next := by omega
  rw [State.bndRun, if_neg (Nat.not_lt.mpr hle)]
  simp only [ha, hne, if_false]

/-- An action that has to wait ends the run, and is not recorded complete. -/
theorem State.bndRun_of_waiting (hle : b.next ≤ last) (ha : s.bndAction cons b = some (t, b')) (hnext : b'.next = b.next) :
    State.bndRun cons last (n + 1) s b = (t, b') := by
  rw [State.bndRun, if_neg (Nat.not_lt.mpr hle)]
  simp only [ha, hnext, if_true]

/-- A run up to the action that comes next performs that action alone. -/
theorem State.bndRun_single (hlast : b.next = last) (ha : s.bndAction cons b = some (t, b')) (hnext : b'.next = last + 1) :
    State.bndRun cons last (n + 1) s b = (t.dutyBoundary 0, b') := by
  rw [State.bndRun_of_action hlast.le ha (by omega), State.bndRun_of_past (by omega)]

/-! ### A part of a boundary, and its end (R345) -/

/-- The boundary as it stands after a part that took `cycles` Lodge cycles and led from `s` to `t`. -/
def Boundary.after (b : Boundary) (s t : State) (cycles : Nat) (b' : Boundary) : Boundary :=
  { b' with cycles := b.cycles + cycles, changed := (b.changed ++ s.changedSeqs t).eraseDups }

theorem State.bndStep_of_part (hrun : State.bndRun cons last 8 s b = (t, b')) (h : b'.next ≤ 8) :
    s.bndStep last cycles cons b = t.setServing fun v => { v with bnd := some (b.after s t cycles b') } := by
  simp only [State.bndStep, hrun, Nat.not_lt.mpr h, if_false, Boundary.after]

theorem State.bndStep_of_end (hrun : State.bndRun cons last 8 s b = (t, b')) (h : b'.next = 9) :
    s.bndStep last cycles cons b = t.bndClose (b.after s t cycles b') := by
  simp only [State.bndStep, hrun, h, Nat.lt_succ_self, if_true, Boundary.after]

theorem State.bndClose_after (s t : State) (b b' : Boundary) (cycles : Nat) : t.bndClose (b.after s t cycles b') =
    t.giveDuties.retirePending.setServing fun v => { v with
      bnd := none
      bndMax := BitVec.ofNat 32 (min (2 ^ 32 - 1) (max v.bndMax.toNat
        (min (b.cycles + cycles) (2000 + 100 * (b.changed ++ s.changedSeqs t).eraseDups.length)))) } := rfl

theorem Boundary.zero_cycles : Boundary.zero.cycles = 0 := rfl

/-- A part of a boundary that is the action that comes next, other than the last of them. -/
theorem State.bndStep_single (hlast : b.next = last) (ha : s.bndAction cons b = some (t, b')) (hnext : b'.next = last + 1) (h8 : last < 8) :
    s.bndStep last cycles cons b =
      (t.dutyBoundary 0).setServing fun v => { v with bnd := some (b.after s (t.dutyBoundary 0) cycles b') } :=
  State.bndStep_of_part (State.bndRun_single hlast ha hnext) (by omega)

theorem exec_stepBoundary_begin {run : BoundaryRun} (hserves : s.servingRuns = true) (hup : s.dutyUp 0 = true) (hnone : s.serving.bnd = none)
    (hbell : s.serving.stepOpen = true → s.serving.stepDone = true) :
    exec (.stepBoundary run cons) s = .next (s.bndStep run.last run.cycles cons Boundary.zero) := by
  have hgo : (s.serving.stepOpen && !s.serving.stepDone) = false := by
    cases hopen : s.serving.stepOpen with
    | false => rfl
    | true => rw [hbell hopen]; rfl
  change execStepBoundary run cons s = _
  simp only [execStepBoundary, hserves, hup, hnone, hgo, Bool.not_true, Bool.or_self, Bool.false_eq_true, if_false]

theorem exec_stepBoundary_resume {run : BoundaryRun} (hserves : s.servingRuns = true) (hup : s.dutyUp 0 = true) (hsome : s.serving.bnd = some b) :
    exec (.stepBoundary run cons) s = .next (s.bndStep run.last run.cycles cons b) := by
  change execStepBoundary run cons s = _
  simp only [execStepBoundary, hserves, hup, hsome, Bool.not_true, Bool.or_self, Bool.false_eq_true, if_false]

end Actions

/-- Settles O30: a whole boundary is the run of the eight actions from the first, each taken by its own lemma, and a part of one is the action
that comes next. -/
theorem stepBoundaryRunsTheEightActions : Obligations.StepBoundaryRunsTheEightActions := by
  unfold Obligations.StepBoundaryRunsTheEightActions
  intro s cycles cons hserves hup held longest isolate
  constructor
  · intro hnone hbell done t1 t2 t4 ending copied r t6 t7 t8 hcopied
    -- Their values stay out of sight below, where each record is compared field by field with the one before it.
    have hending : ending = t2.serving.endPend := rfl
    have ht4 : t4 = (done ((t2.noteDeadlines s.stepSeqs).action3 cons)).action4.dutyBoundary 0 := rfl
    clear_value ending t4
    have hrun := calc State.bndRun cons 8 8 s Boundary.zero
      _ = State.bndRun cons 8 7 t1 ⟨2, false, s.stepSeqs, [], false, 0, []⟩ :=
        State.bndRun_of_action (by decide) (State.bndAction_one rfl) rfl
      _ = State.bndRun cons 8 6 t2 ⟨3, false, s.stepSeqs, [], false, 0, []⟩ :=
        State.bndRun_of_action (by simp) (State.bndAction_two rfl) rfl
      _ = State.bndRun cons 8 5 (done ((t2.noteDeadlines s.stepSeqs).action3 cons)) ⟨4, ending, s.stepSeqs, [], false, 0, []⟩ :=
        hending ▸ State.bndRun_of_action (by simp) (State.bndAction_three rfl) rfl
      _ = State.bndRun cons 8 4 t4 ⟨5, ending, s.stepSeqs, [], false, 0, []⟩ :=
        ht4 ▸ State.bndRun_of_action (by simp) (State.bndAction_four rfl) rfl
      _ = State.bndRun cons 8 3 (done (r.1.setServing fun v => isolate v r.2)) ⟨6, ending, s.stepSeqs, t4.serving.quarantine, false, 0, []⟩ :=
        State.bndRun_of_action (by simp) (State.bndAction_five_at_once rfl rfl hcopied rfl) rfl
      _ = State.bndRun cons 8 2 t6 ⟨7, ending, s.stepSeqs, t4.serving.quarantine, false, 0, []⟩ :=
        State.bndRun_of_action (by simp) (State.bndAction_six rfl) rfl
      _ = State.bndRun cons 8 1 t7 ⟨8, ending, s.stepSeqs, t4.serving.quarantine, false, 0, []⟩ :=
        State.bndRun_of_action (by simp) (State.bndAction_seven rfl) rfl
      _ = (t8, ⟨9, ending, s.stepSeqs, t4.serving.quarantine, false, 0, []⟩) :=
        State.bndRun_single rfl (State.bndAction_eight rfl) rfl
    rw [exec_stepBoundary_begin hserves hup hnone hbell, State.bndStep_of_end hrun rfl, State.bndClose_after, Boundary.zero_cycles, Nat.zero_add]
    rfl
  · intro b hsome seen stands runs copying r
    have single {k : Nat} {t : State} {b' : Boundary} (hk : b.next = k) (h8 : k < 8)
        (ha : s.bndAction cons b = some (t, { b' with next := k + 1 })) : runs k t b' := by
      change exec _ s = _
      rw [exec_stepBoundary_resume hserves hup hsome, State.bndStep_single hk ha rfl h8]
      rfl
    refine ⟨fun h => single h (by decide) (State.bndAction_one h), fun h => single h (by decide) (State.bndAction_two h),
      fun h => single h (by decide) (State.bndAction_three h), fun h => single h (by decide) (State.bndAction_four h),
      fun h hwait => ?_, fun h hdone => single h (by decide) (State.bndAction_five_of_copied h hdone),
      fun h => single h (by decide) (State.bndAction_six h), fun h => single h (by decide) (State.bndAction_seven h), fun h => ?_⟩
    · have hrun : State.bndRun cons 5 8 s b = (copying, { b with asked := true }) :=
        State.bndRun_of_waiting h.le (State.bndAction_five_of_copying h hwait) rfl
      rw [exec_stepBoundary_resume hserves hup hsome, State.bndStep_of_part hrun (by simp [h])]
      rfl
    · intro t
      have hrun : State.bndRun cons 8 8 s b = (t, { b with next := 9 }) := State.bndRun_single h (State.bndAction_eight h) rfl
      rw [exec_stepBoundary_resume hserves hup hsome, State.bndStep_of_end hrun rfl, State.bndClose_after]

end Sys2Proof.Machine
end

section
/-! The interrupt controller, status events and the read-back of fenced units, and what O44 and O54 say of them. -/

namespace Sys2Proof.Machine

/-! ### An interrupt source fires and is offered (R501 to R503) -/

@[simp] theorem State.noteStep_lodge (s : State) (n : Nat) : (s.noteStep n).lodge = s.lodge := by
  unfold State.noteStep
  split <;> rfl

@[simp] theorem State.noteStep_ust (s : State) (n : Nat) : (s.noteStep n).ust = s.ust := by
  unfold State.noteStep
  split <;> rfl

@[simp] theorem State.noteStep_intSrc (s : State) (n j : Nat) : (s.noteStep n).intSrc j = s.intSrc j := by
  simp only [State.intSrc, State.noteStep_lodge]

theorem State.intSrc_setIntSrc_of_ne {s : State} {n : Nat} {x : IntSrc} (hx : x ≠ IntSrc.zero) : (s.setIntSrc n x).intSrc n = x := mget_mput_ne hx n

@[simp] theorem State.fireInt_evq (s : State) (n : Nat) : (s.fireInt n).lodge.evq = s.lodge.evq := by
  change (s.noteStep n).lodge.evq = _
  rw [State.noteStep_lodge]

@[simp] theorem State.fireInt_ust (s : State) (n : Nat) : (s.fireInt n).ust = s.ust := s.noteStep_ust n

/-- A firing counts up to 255. -/
theorem State.fireInt_intSrc_of_room {s : State} {n : Nat} (h : (s.intSrc n).count ≠ 255#8) :
    (s.fireInt n).intSrc n = { s.intSrc n with count := (s.intSrc n).count + 1 } := by
  have hne : ({ s.intSrc n with count := (s.intSrc n).count + 1 } : IntSrc) ≠ IntSrc.zero := fun he => by
    have hcount : (s.intSrc n).count + 1 = 0#8 := congrArg IntSrc.count he
    bv_omega
  rw [State.fireInt, State.noteStep_intSrc, if_neg h, State.intSrc_setIntSrc_of_ne hne]

/-- A firing beyond 255 sets SAT alone. -/
theorem State.fireInt_intSrc_of_full {s : State} {n : Nat} (h : (s.intSrc n).count = 255#8) :
    (s.fireInt n).intSrc n = { s.intSrc n with sat := true } := by
  have hne : ({ s.intSrc n with sat := true } : IntSrc) ≠ IntSrc.zero := fun he => Bool.noConfusion (congrArg IntSrc.sat he)
  rw [State.fireInt, State.noteStep_intSrc, if_pos h, State.intSrc_setIntSrc_of_ne hne]

theorem State.assignee_of_target {s : State} {x : IntSrc} (hrr : s.lodge.rr = false) (hon : s.stwOn x.target.toNat = true) :
    s.assignee x = some x.target.toNat := by
  simp only [State.assignee, hrr, hon, Bool.false_eq_true, if_false, if_true]

/-- Outside round-robin mode a source goes to its own steward, where that is enabled. -/
theorem exec_intOffer_of_target {s : State} {n : BitVec 11} {dt : Nat} (hoffer : (s.intSrc n.toNat).offerable = true) (hdt : 2 ≤ dt)
    (hrr : s.lodge.rr = false) (hon : s.stwOn (s.intSrc n.toNat).target.toNat = true) :
    exec (.intOffer n dt) s =
      let s1 := s.setIntSrc n.toNat
        { s.intSrc n.toNat with offered := true, owner := BitVec.ofNat 2 (s.intSrc n.toNat).target.toNat }
      .next { s1 with lodge := { s1.lodge with rrLast := (s.intSrc n.toNat).target.toNat } } := by
  have hlate : ¬ dt < 2 := by omega
  change execIntOffer n dt s = _
  simp only [execIntOffer, hoffer, hlate, State.assignee_of_target hrr hon, Bool.not_true, decide_false, Bool.or_self,
    Bool.false_eq_true, if_false]

/-! ### Claims, in the order of priority (R504, R520) -/

section Least
variable {α : Type} (p : α → Bool) (f : α → Nat)

/-- Of the best element so far and one more, the one with the smaller `f` of those that `p` allows; the earlier one on a tie. -/
def keepLeast (best : Option α) (e : α) : Option α :=
  if p e then
    match best with
    | some b => if f e < f b then some e else best
    | none => some e
  else best

/-- What a search for the smallest `f` in a list answers: an element that `p` allows and none undercuts, or none where `p` allows none. -/
def AnswersLeast (l : List α) : Option α → Prop
  | none => ∀ e ∈ l, p e = false
  | some m => m ∈ l ∧ p m = true ∧ ∀ e ∈ l, p e = true → f m ≤ f e

variable {p f}

/-- Adding an element to the list and to the search. -/
theorem AnswersLeast.keep {l : List α} {best : Option α} (h : AnswersLeast p f l best) (e : α) :
    AnswersLeast p f (l ++ [e]) (keepLeast p f best e) := by
  have mem_append_last {P : α → Prop} : (∀ a ∈ l ++ [e], P a) ↔ (∀ a ∈ l, P a) ∧ P e := by simp [or_imp, forall_and]
  unfold keepLeast
  cases hp : p e with
  | false =>
    cases best with
    | none => exact mem_append_last.mpr ⟨h, hp⟩
    | some b =>
      obtain ⟨hmem, hb, hle⟩ := h
      exact ⟨List.mem_append_left _ hmem, hb, mem_append_last.mpr ⟨hle, by simp [hp]⟩⟩
  | true =>
    have hlast : e ∈ l ++ [e] := List.mem_append_right _ (List.mem_singleton_self e)
    cases best with
    | none => exact ⟨hlast, hp, mem_append_last.mpr ⟨fun a ha hpa => absurd hpa (by simp [h a ha]), fun _ => le_rfl⟩⟩
    | some b =>
      obtain ⟨hmem, hb, hle⟩ := h
      by_cases hlt : f e < f b
      · simp only [if_true, hlt]
        exact ⟨hlast, hp, mem_append_last.mpr ⟨fun a ha hpa => hlt.le.trans (hle a ha hpa), fun _ => le_rfl⟩⟩
      · simp only [if_true, hlt, if_false]
        exact ⟨List.mem_append_left _ hmem, hb, mem_append_last.mpr ⟨hle, fun _ => Nat.not_lt.mp hlt⟩⟩

theorem answersLeast_foldl (l : List α) : AnswersLeast p f l (l.foldl (keepLeast p f) none) := by
  induction l using List.reverseRecOn with
  | nil => simp [AnswersLeast]
  | append_singleton l e ih =>
    rw [List.foldl_append]
    exact ih.keep e

end Least

/-- Whether steward `k` with a running priority may claim a source. -/
def claimableBy (k running : Nat) (e : Nat × IntSrc) : Bool :=
  e.2.offered && e.2.en && !e.2.inSvc && decide (e.2.owner.toNat = k) && decide (e.2.count ≠ 0#8) && decide (e.2.prio.toNat < running)

theorem claimableBy_iff {k running : Nat} {e : Nat × IntSrc} : claimableBy k running e = true ↔
    e.2.offered = true ∧ e.2.en = true ∧ e.2.inSvc = false ∧ e.2.owner.toNat = k ∧ e.2.count ≠ 0 ∧ e.2.prio.toNat < running := by
  simp [claimableBy, and_assoc]

theorem State.claimable_eq (s : State) (k : Nat) : s.claimable k =
    s.lodge.ints.foldl (keepLeast (claimableBy k (s.steward k).running) fun e => e.2.prio.toNat) none := by
  unfold State.claimable
  congr 1
  funext best e
  cases best <;> rfl

/-- The claim goes to a source of the smallest PRIO of those that the steward may claim. -/
theorem State.claimable_answersLeast (s : State) (k : Nat) :
    AnswersLeast (claimableBy k (s.steward k).running) (fun e => e.2.prio.toNat) s.lodge.ints (s.claimable k) :=
  State.claimable_eq s k ▸ answersLeast_foldl s.lodge.ints

section Claim
variable {s : State} {k : Fin 4} (hon : s.stwOn k.val = true)
include hon

theorem exec_intClaim_of_none (h : s.claimable k.val = none) : exec (.intClaim k) s = .next (s.send (.claim k.val 0)) := by
  change execIntClaim k s = _
  simp only [execIntClaim, hon, h, Bool.not_true, Bool.false_eq_true, if_false]

theorem exec_intClaim_of_some {n : Nat} {x : IntSrc} (h : s.claimable k.val = some (n, x)) :
    exec (.intClaim k) s =
      let w := s.steward k.val
      let s1 := s.setSteward k.val { w with running := x.prio.toNat, stack := (w.running, n) :: w.stack }
      .next ((s1.setIntSrc n { x with count := 0, inSvc := true, offered := false }).send
        (.claim k.val (BitVec.ofNat 64 (n + x.prio.toNat * 2 ^ 11 + 2 ^ 15 + x.count.toNat * 2 ^ 16)))) := by
  change execIntClaim k s = _
  simp only [execIntClaim, hon, h, Bool.not_true, Bool.false_eq_true, if_false]

/-- The end of a service gives the steward back the priority at which it was interrupted. -/
theorem exec_intEoi_of_service {n : BitVec 11} {p : Nat × Nat} {rest : List (Nat × Nat)} (hsvc : (s.intSrc n.toNat).inSvc = true)
    (hown : (s.intSrc n.toNat).owner.toNat = k.val) (hstack : (s.steward k.val).stack = p :: rest) :
    exec (.intEoi k n) s = .next ((s.setSteward k.val { s.steward k.val with running := p.1, stack := rest }).setIntSrc n.toNat
      { s.intSrc n.toNat with inSvc := false }) := by
  change execIntEoi k n s = _
  simp only [execIntEoi, hon, hsvc, hown, hstack, Bool.not_true, decide_true, Bool.and_self, Bool.false_eq_true, if_false, if_true]

theorem exec_intEoi_of_no_service {n : BitVec 11} (hsvc : (s.intSrc n.toNat).inSvc = false) :
    exec (.intEoi k n) s = .next (s.setSteward k.val { s.steward k.val with eoiErr := satInc (s.steward k.val).eoiErr }) := by
  change execIntEoi k n s = _
  simp only [execIntEoi, hon, hsvc, Bool.not_true, Bool.false_and, Bool.false_eq_true, if_false]

theorem exec_evqPop_of_event {e : BitVec 16 × BitVec 4 × BitVec 32} {rest : List (BitVec 16 × BitVec 4 × BitVec 32)}
    (h : s.lodge.evq = e :: rest) : exec (.evqPop k) s = .next (({ s with lodge := { s.lodge with evq := rest } }).send
      (.evq (BitVec.ofNat 64 (e.1.toNat + e.2.1.toNat * 2 ^ 16 + 2 ^ 20 + e.2.2.toNat * 2 ^ 32)))) := by
  change execEvqPop k s = _
  simp only [execEvqPop, hon, h, Bool.not_true, Bool.false_eq_true, if_false]

theorem exec_evqPop_of_empty (h : s.lodge.evq = []) : exec (.evqPop k) s = .next (s.send (.evq 0)) := by
  change execEvqPop k s = _
  simp only [execEvqPop, hon, h, Bool.not_true, Bool.false_eq_true, if_false]

end Claim

/-! ### Reports and status events (R27, R28, R505, R521) -/

theorem State.report_evq_of_room {s : State} (h : s.lodge.evq.length < 1024) (u rep kind : Nat) :
    (s.report u rep kind).lodge.evq = s.lodge.evq ++ [(BitVec.ofNat 16 u, BitVec.ofNat 4 kind, s.time.truncate 32)] := by
  simp only [State.report, State.pushEvent, State.setUnit_lodge, State.setUnit_time, h, if_true, State.fireInt_evq]

theorem State.report_lodge_of_full {s : State} (h : 1024 ≤ s.lodge.evq.length) (u rep kind : Nat) :
    (s.report u rep kind).lodge = { s.lodge with evLost := satInc s.lodge.evLost } := by
  simp only [State.report, State.pushEvent, State.setUnit_lodge, Nat.not_lt.mpr h, if_false]

theorem exec_statusEvent_of_consistent {s : State} {u : BitVec 16} {rep : BitVec 3} {kind : BitVec 4} (hu : isUnit u.toNat = true)
    (h : (s.report u.toNat rep.toNat kind.toNat).isMismatch u.toNat = false) :
    exec (.statusEvent u rep kind) s = .next (s.report u.toNat rep.toNat kind.toNat) := by
  change execStatusEvent u rep kind s = _
  simp only [execStatusEvent, hu, State.statusReport, State.checkUnit, h, Bool.false_eq_true, if_false, if_true]

theorem exec_statusEvent_of_mismatch {s : State} {u : BitVec 16} {rep : BitVec 3} {kind : BitVec 4} (hu : isUnit u.toNat = true)
    (h : (s.report u.toNat rep.toNat kind.toNat).isMismatch u.toNat = true) :
    exec (.statusEvent u rep kind) s = .next ((s.report u.toNat rep.toNat kind.toNat).fence u.toNat true) := by
  change execStatusEvent u rep kind s = _
  simp only [execStatusEvent, hu, State.statusReport, State.checkUnit, h, if_true]

/-! ### Read-back of a fenced unit (R17, R29, R210) -/

/-- A fenced unit after its drain: a copy or host-DMA engine has stopped, and the duty has recorded the end of an operation. -/
def State.drained (s : State) (u : Nat) : State :=
  (if u / 4096 = 2 then s.stopCopy (u % 4096) else if u / 4096 = 3 then s.stopHdma (u % 4096) else s).dutyBoundary 3

section ReadBack
variable {s : State} {u : BitVec 16} (hu : isUnit u.toNat = true) (hf : (s.unit u.toNat).allowed = 4)
include hu hf

theorem exec_fenceReadback_passed (hstw : u.toNat / 4096 ≠ 8) : exec (.fenceReadback u true) s = .next (
    let on := (s.drained u.toNat).allow u.toNat 2
    if u.toNat / 4096 = 5 then on.retrainLink (u.toNat % 4096)
    else if u.toNat / 4096 = 3 then on.hdmaTurn (u.toNat % 4096) (on.region (u.toNat % 4096))
    else on) := by
  change execFenceReadback u true s = _
  simp only [execFenceReadback, hu, hf, hstw, State.drained, Bool.not_true, ne_eq, not_true_eq_false, decide_false, Bool.or_self,
    Bool.false_eq_true, if_false, if_true]

theorem exec_fenceReadback_failed (hstw : u.toNat / 4096 ≠ 8) :
    exec (.fenceReadback u false) s = .next ((s.drained u.toNat).readbackFailed u.toNat) := by
  change execFenceReadback u false s = _
  simp only [execFenceReadback, hu, hf, hstw, State.drained, Bool.not_true, ne_eq, not_true_eq_false, decide_false, Bool.or_self,
    Bool.false_eq_true, if_false]

/-- A steward's read-back is its self-test (R500). -/
theorem exec_fenceReadback_steward {k : Fin 4} (hstw : u.toNat / 4096 = 8) (hk : u.toNat % 4096 = k.val) (passed : Bool) :
    exec (.fenceReadback u passed) s = exec (.stewardSelftestDone k passed) s := by
  change execFenceReadback u passed s = execStewardSelftestDone k passed s
  simp only [execFenceReadback, execStewardSelftestDone, hu, hf, hstw, hk, Bool.not_true, ne_eq, not_true_eq_false, decide_false, Bool.or_self,
    Bool.false_eq_true, if_false, if_true]

end ReadBack

theorem State.readbackFailed_controller {s : State} {u : Nat} (h : u / 4096 = 4) : s.readbackFailed u = (s.allow u 5).unitLost u := by
  simp only [State.readbackFailed, h]

/-- A unit that is neither a tile nor a controller is RETIRED and no more. -/
theorem State.readbackFailed_other {s : State} {u : Nat} (h0 : u / 4096 ≠ 0) (h4 : u / 4096 ≠ 4) : s.readbackFailed u = s.allow u 5 := by
  unfold State.readbackFailed
  split
  · contradiction
  · contradiction
  · rfl

/-- A mapped tile is lost where its region's spare is gone or claimed; else it waits for it. -/
theorem State.readbackFailed_tile {s : State} {u : Nat} (h : u / 4096 = 0) (hmapped : ((s.allow u 5).unit u).logical < 96) :
    s.readbackFailed u =
      if ((s.allow u 5).spareOf (u % 4096 / 13)).isNone = true ∨ (s.allow u 5).spareClaimed u = true then (s.allow u 5).unitLost u
      else s.allow u 5 := by
  simp only [State.readbackFailed, h, hmapped, true_and]

/-- Settles O44, rule by rule; the claimed source is the one that the search for the smallest PRIO answers. -/
theorem interruptsStatusEventsAndReadBack : Obligations.InterruptsStatusEventsAndReadBack := by
  unfold Obligations.InterruptsStatusEventsAndReadBack
  intro s
  refine ⟨fun n => ⟨rfl, State.fireInt_intSrc_of_room, State.fireInt_intSrc_of_full, rfl, rfl, fun dt => exec_intOffer_of_target, ?_, ?_⟩,
    fun k hon => ⟨exec_intClaim_of_none hon, ?_, fun e rest => exec_evqPop_of_event hon, exec_evqPop_of_empty hon⟩, fun u hu => ⟨?_, ?_⟩⟩
  · exact fun k hon hsvc hown p rest => exec_intEoi_of_service hon hsvc hown
  · exact fun k hon => exec_intEoi_of_no_service hon
  · intro n x hclaim
    have hleast := s.claimable_answersLeast k.val
    rw [hclaim] at hleast
    obtain ⟨hmem, hx, hle⟩ := hleast
    obtain ⟨-, -, -, -, -, hprio⟩ := claimableBy_iff.mp hx
    exact ⟨hmem, hprio, fun e he hoff hen hsvc hown hcount hlt => hle e he (claimableBy_iff.mpr ⟨hoff, hen, hsvc, hown, hcount, hlt⟩),
      exec_intClaim_of_some hon hclaim⟩
  · intro rep kind
    refine ⟨exec_statusEvent_of_consistent hu, exec_statusEvent_of_mismatch hu, fun hroom => State.report_evq_of_room hroom .., fun hfull => ?_⟩
    rw [State.report_lodge_of_full hfull]
    exact ⟨rfl, rfl⟩
  · intro hf i cls d on gone
    have hfailed (h8 : cls ≠ 8) : exec (.fenceReadback u false) s = .next (d.readbackFailed u.toNat) := exec_fenceReadback_failed hu hf h8
    have htile (h0 : cls = 0) (hmapped : (gone.unit u.toNat).logical < 96) := State.readbackFailed_tile h0 hmapped
    refine ⟨fun h3 h5 h8 => ?_, fun h3 => ?_, fun h5 => ?_, fun h0 h4 h8 => ?_, fun h4 => ?_,
      fun h0 hmapped => ⟨fun hlost => ?_, fun hspare hfree => ?_⟩, fun k h8 hk => exec_fenceReadback_steward hu hf h8 hk⟩
    · rw [exec_fenceReadback_passed hu hf h8, if_neg h5, if_neg h3]
      rfl
    · rw [exec_fenceReadback_passed hu hf (by omega), if_neg (by omega), if_pos h3]
      rfl
    · rw [exec_fenceReadback_passed hu hf (by omega), if_pos h5]
      rfl
    · rw [hfailed h8, State.readbackFailed_other h0 h4]
    · rw [hfailed (by omega), State.readbackFailed_controller h4]
    · rw [hfailed (by omega), htile h0 hmapped, if_pos hlost]
    · rw [hfailed (by omega), htile h0 hmapped, if_neg]
      rintro (hgone | hclaimed)
      · rw [Option.isNone_iff_eq_none] at hgone
        rw [hgone] at hspare
        exact Bool.noConfusion hspare
      · exact Bool.noConfusion (hfree.symm.trans hclaimed)

/-! ### A report soon after a change of the allowed state (R28) -/

theorem State.unit_setUnit_of_ne {s : State} {u : Nat} {x : UstEntry} (hx : x ≠ ustDefault u) : (s.setUnit u x).unit u = x := mget_mput_ne hx u

@[simp] theorem State.pushEvent_ust (s : State) (u kind : Nat) : (s.pushEvent u kind).ust = s.ust := by
  unfold State.pushEvent
  split
  · rw [State.fireInt_ust]
  · rfl

section Recent
variable {s : State} {u : Nat} (hchanged : (s.unit u).oldAllowed ≠ 0)
include hchanged

/-- What a report leaves in the entry of a unit whose allowed state was changed: the report, and when it arrived. -/
theorem State.report_unit (rep kind : Nat) :
    (s.report u rep kind).unit u = { s.unit u with reported := rep, reportedAt := s.time.toNat } := by
  have hne : ({ s.unit u with reported := rep, reportedAt := s.time.toNat } : UstEntry) ≠ ustDefault u := fun he =>
    hchanged (congrArg UstEntry.oldAllowed he)
  have hust : (s.report u rep kind).unit u = (s.setUnit u { s.unit u with reported := rep, reportedAt := s.time.toNat }).unit u :=
    congrArg (fun m => mget (ustDefault u) m u) (State.pushEvent_ust _ u kind)
  rw [hust, State.unit_setUnit_of_ne hne]

/-- Within 1 ms of the change a report is a mismatch where neither allowed state agrees with it. -/
theorem State.report_isMismatch_of_recent (hrecent : s.time.toNat ≤ (s.unit u).changedAt + 100000) (rep kind : Nat) :
    (s.report u rep kind).isMismatch u = (!reportConsistent (s.unit u).allowed rep && !reportConsistent (s.unit u).oldAllowed rep) := by
  simp only [State.isMismatch, State.report_unit hchanged, hchanged, Nat.not_lt.mpr hrecent, decide_false, Bool.or_false]

end Recent

/-- What R28 says of the model: the outcomes that O54 names, with the entry as the model keeps it. -/
theorem exec_statusEvent_of_recent {s : State} {u : BitVec 16} (rep : BitVec 3) (kind : BitVec 4) (hu : isUnit u.toNat = true)
    (hchanged : (s.unit u.toNat).oldAllowed ≠ 0) (hrecent : s.time.toNat ≤ (s.unit u.toNat).changedAt + 100000) :
    let x := s.unit u.toNat
    let t := s.report u.toNat rep.toNat kind.toNat
    t.unit u.toNat = { x with reported := rep.toNat, reportedAt := s.time.toNat } ∧
    exec (.statusEvent u rep kind) s = .next (
      if reportConsistent x.allowed rep.toNat = true ∨ reportConsistent x.oldAllowed rep.toNat = true then t else t.fence u.toNat true) := by
  intro x t
  have hmis : t.isMismatch u.toNat = (!reportConsistent x.allowed rep.toNat && !reportConsistent x.oldAllowed rep.toNat) :=
    State.report_isMismatch_of_recent hchanged hrecent rep.toNat kind.toNat
  refine ⟨State.report_unit hchanged rep.toNat kind.toNat, ?_⟩
  split
  · next hcons => exact exec_statusEvent_of_consistent hu (hmis.trans (by rcases hcons with h | h <;> simp [h]))
  · next hneither =>
    obtain ⟨hnew, hold⟩ := not_or.mp hneither
    exact exec_statusEvent_of_mismatch hu (hmis.trans (by simp [hnew, hold]))

/-- One Lodge cycle after unit 0, a tile, went from DRAINING to ONLINE. -/
def justOnline : State := { State.reset with time := 1 }.setUnit 0 { ustDefault 0 with oldAllowed := 3 }

/-- Refutes O54: the entry keeps when the report arrived as well, which the statement leaves as it was. Unit 0 reports IDLE at time 1, which
both allowed states allow, and its `reportedAt` goes from 0 to 1. What holds is `exec_statusEvent_of_recent`. -/
theorem not_aReportAfterAChangeIsJudgedAgainstBothStates : ¬ Obligations.AReportAfterAChangeIsJudgedAgainstBothStates := by
  unfold Obligations.AReportAfterAChangeIsJudgedAgainstBothStates
  intro h
  have hchanged : (justOnline.unit (0#16).toNat).oldAllowed ≠ 0 := by decide +kernel
  have hrecent : justOnline.time.toNat ≤ (justOnline.unit (0#16).toNat).changedAt + 100000 := by decide +kernel
  have hcons : reportConsistent (justOnline.unit (0#16).toNat).allowed (1#3).toNat = true := by decide +kernel
  obtain ⟨hconsistent, -⟩ := h justOnline 0 1 0 (by decide) hchanged hrecent
  obtain ⟨-, hentry⟩ := hconsistent (.inl hcons)
  have harrival : justOnline.time.toNat = (justOnline.unit (0#16).toNat).reportedAt :=
    congrArg UstEntry.reportedAt ((State.report_unit hchanged _ _).symm.trans hentry)
  exact absurd harrival (by decide +kernel)

end Sys2Proof.Machine
end

section
/-! What a slot that takes its turn leaves of its bundle and its tile, and the scalar slots: what O1 to O5 say of them. -/

namespace Sys2Proof.Machine

/-! ### A slot that takes its turn (R48, R106): the state in which its bundle issued stays with it -/

@[simp] theorem BundleIP.count_start (b : BundleIP) (i : SlotInfo) : (b.count i).start = b.start := rfl
@[simp] theorem BundleIP.name_start (b : BundleIP) (i : SlotInfo) : (b.name i).start = b.start := rfl

section Slot
variable {s s' : State} {u : Issue} {bit : Nat} {i : SlotInfo} {b b' : BundleIP}
  {info : Tile → BundleIP → SlotInfo} {body : State → BundleIP → SlotRes}

/-- The bundle whose slot takes its turn stands in the tile. -/
theorem slotTile_cur (h : SlotOk s u bit i b) : (slotTile s u bit).cur = some b := by
  have hturn := h.turn
  cases hcur : ((s.beginSlot u bit).tile u.tile).cur with
  | none => simp [State.slotBundle, hcur] at hturn
  | some c =>
    simp only [State.slotBundle, hcur, Option.ite_none_left_eq_some] at hturn
    exact hcur.trans hturn.2

/-- A slot whose body succeeds closes with what the body leaves. -/
theorem slot_of_done (h : SlotOk s u bit i b) (hi : info (slotTile s u bit) b = i)
    (hbody : body (s.beginSlot u bit) ((b.count i).name i) = .ok s' b') : s.slot u bit info body = s'.closeSlot u b' := by
  rw [slot_ok h info body hi, hbody]

/-- A slot whose body halts stops the bundle in the state in which the slot was taken. -/
theorem slot_of_halt (h : SlotOk s u bit i b) (hi : info (slotTile s u bit) b = i) {reason detail : Nat}
    (hbody : body (s.beginSlot u bit) ((b.count i).name i) = .halt reason detail) :
    s.slot u bit info body = (s.beginSlot u bit).closeSlot u (((b.count i).name i).stop reason detail) := by
  rw [slot_ok h info body hi, hbody]

/-- The A stream is the stream that a slot of the A stream alone asks for. -/
theorem stream_beq_A (hA : u.stream = .A) : (u.stream == .A) = true := by rw [hA]; rfl

end Slot

/-! ### Operations of the scalar slot (R44, R58) -/

section Scalar
variable {s : State} {u : Issue} {b : BundleIP} {rd ra : Fin 32} {src : Src2}

section Arithmetic
variable (h : SlotOk s u 0 (regSlot true (sKey u.stream ra.val :: src2Keys u.stream src) [sKey u.stream rd.val]) b)
include h

theorem exec_aluOp_of_ok (op : AluOp) : exec (.aluOp u op rd ra src) s = .next (scalarNext s u
    (regSlot true (sKey u.stream ra.val :: src2Keys u.stream src) [sKey u.stream rd.val]) b rd.val 1
    (aluVal op (b.s ra.val) (BundleIP.src2 b src))) :=
  congrArg Host.Outcome.next (scalar_ok h)

theorem exec_mul_of_ok : exec (.mul u rd ra src) s = .next (scalarNext s u
    (regSlot true (sKey u.stream ra.val :: src2Keys u.stream src) [sKey u.stream rd.val]) b rd.val 3
    (b.s ra.val * BundleIP.src2 b src)) :=
  congrArg Host.Outcome.next (scalar_ok h)

theorem exec_minMax_of_ok (op : MinMaxOp) : exec (.minMax u op rd ra src) s = .next (scalarNext s u
    (regSlot true (sKey u.stream ra.val :: src2Keys u.stream src) [sKey u.stream rd.val]) b rd.val 1
    (minMaxVal op (b.s ra.val) (BundleIP.src2 b src))) :=
  congrArg Host.Outcome.next (scalar_ok h)

theorem exec_setCompare_of_ok (op : SetOp) : exec (.setCompare u op rd ra src) s = .next (scalarNext s u
    (regSlot true (sKey u.stream ra.val :: src2Keys u.stream src) [sKey u.stream rd.val]) b rd.val 1
    (setVal op (b.s ra.val) (BundleIP.src2 b src))) :=
  congrArg Host.Outcome.next (scalar_ok h)

end Arithmetic

/-! The relations of the table on signed and unsigned values. -/

theorem minMaxVal_min (x y : Reg64) : minMaxVal .min x y = if x.toInt < y.toInt then x else y := by
  simp only [minMaxVal, BitVec.slt_iff_toInt_lt]
theorem minMaxVal_max (x y : Reg64) : minMaxVal .max x y = if x.toInt < y.toInt then y else x := by
  simp only [minMaxVal, BitVec.slt_iff_toInt_lt]
theorem minMaxVal_minu (x y : Reg64) : minMaxVal .minu x y = if x.toNat < y.toNat then x else y := by
  simp only [minMaxVal, BitVec.ult_iff_toNat_lt]
theorem minMaxVal_maxu (x y : Reg64) : minMaxVal .maxu x y = if x.toNat < y.toNat then y else x := by
  simp only [minMaxVal, BitVec.ult_iff_toNat_lt]
theorem setVal_slt (x y : Reg64) : setVal .slt x y = if x.toInt < y.toInt then 1 else 0 := by
  simp only [setVal, BitVec.slt_iff_toInt_lt]
theorem setVal_sltu (x y : Reg64) : setVal .sltu x y = if x.toNat < y.toNat then 1 else 0 := by
  simp only [setVal, BitVec.ult_iff_toNat_lt]
theorem setVal_seq (x y : Reg64) : setVal .seq x y = if x = y then 1 else 0 := by
  simp only [setVal, beq_iff_eq]

end Scalar

/-- Settles O1, by the value of each operation in the one scalar slot. -/
theorem scalarOperationsWriteTableValue : Obligations.ScalarOperationsWriteTableValue := by
  unfold Obligations.ScalarOperationsWriteTableValue
  intro s u b rd ra src i x y n next h
  refine ⟨exec_aluOp_of_ok h .add, exec_aluOp_of_ok h .sub, exec_aluOp_of_ok h .band, exec_aluOp_of_ok h .bor, exec_aluOp_of_ok h .bxor,
    exec_aluOp_of_ok h .shl, exec_aluOp_of_ok h .shr, exec_aluOp_of_ok h .sar, exec_mul_of_ok h, ?_, ?_, ?_, ?_, ?_, ?_, ?_⟩
  · exact minMaxVal_min x y ▸ exec_minMax_of_ok h .min
  · exact minMaxVal_max x y ▸ exec_minMax_of_ok h .max
  · exact minMaxVal_minu x y ▸ exec_minMax_of_ok h .minu
  · exact minMaxVal_maxu x y ▸ exec_minMax_of_ok h .maxu
  · exact setVal_slt x y ▸ exec_setCompare_of_ok h .slt
  · exact setVal_sltu x y ▸ exec_setCompare_of_ok h .sltu
  · exact setVal_seq x y ▸ exec_setCompare_of_ok h .seq

/-! ### Moves into a scalar register (R45, R58, R72) -/

section Moves
variable {s : State} {u : Issue} {b : BundleIP} {rd : Fin 32}

theorem liveCount_of_inactive {l : List LoopRec} {k : Nat} (h : ∀ x ∈ l, x.k ≠ k) : liveCount l k = 0 := by
  have hnone : l.find? (fun x => x.k == k) = none := List.find?_eq_none.mpr fun x hx => by simpa using h x hx
  rw [liveCount, hnone]

theorem liveCount_of_innermost {x : LoopRec} {l : List LoopRec} {k : Nat} (h : x.k = k) : liveCount (x :: l) k = x.remaining := by
  simp [liveCount, h]

/-- A register of the tile as rdreg reads it: 0 where none stands. -/
theorem exec_rdreg_of_ok (h : SlotOk s u 0 (regSlot true [] [sKey u.stream rd.val]) b) (imm : BitVec 40) :
    exec (.rdreg u rd imm) s = .next (scalarNext s u (regSlot true [] [sKey u.stream rd.val]) b rd.val 4
      (if imm.toInt < 0 then 0 else BitVec.ofNat 64 (((slotTile s u 0).tilReg imm.toNat).getD 0))) :=
  congrArg Host.Outcome.next (scalar_ok h)

theorem exec_rdlc_of_ok (h : SlotOk s u 0 (regSlot true [] [sKey u.stream rd.val]) b) (k : Fin 4) :
    exec (.rdlc u rd k) s = .next (scalarNext s u (regSlot true [] [sKey u.stream rd.val]) b rd.val 1
      (BitVec.ofNat 64 (liveCount (b.start.loops b.stream) k.val))) :=
  congrArg Host.Outcome.next (scalar_ok h)

theorem exec_rda_of_ok {n : Fin 16} (hA : u.stream = .A) (h : SlotOk s u 0 (regSlot true [64 + n.val] [sKey u.stream rd.val]) b) :
    exec (.rda u rd n) s = .next (scalarNext s u (regSlot true [64 + n.val] [sKey u.stream rd.val]) b rd.val 1
      ((b.start.getA n.val).signExtend 64)) := by
  change Host.Outcome.next (s.scalarOp u (u.stream == .A) _ _ _ _) = _
  rw [stream_beq_A hA, scalar_ok h]
  rfl

theorem exec_rdt_of_ok {n : Fin 16} (hA : u.stream = .A) (h : SlotOk s u 0 (regSlot true [80 + n.val] [sKey u.stream rd.val]) b) :
    exec (.rdt u rd n) s = .next (scalarNext s u (regSlot true [80 + n.val] [sKey u.stream rd.val]) b rd.val 1
      ((b.start.getT n.val).signExtend 64)) := by
  change Host.Outcome.next (s.scalarOp u (u.stream == .A) _ _ _ _) = _
  rw [stream_beq_A hA, scalar_ok h]
  rfl

end Moves

/-- Settles O2, source by source. -/
theorem scalarMovesReadTheirSource : Obligations.ScalarMovesReadTheirSource := by
  unfold Obligations.ScalarMovesReadTheirSource
  intro s u b rd i
  refine ⟨fun h => ⟨?_, ?_, ?_, ?_, ?_, ?_⟩, fun n hA => ⟨exec_rda_of_ok hA, exec_rdt_of_ok hA⟩⟩
  · intro imm
    exact congrArg Host.Outcome.next (scalar_ok h)
  · intro k hinactive
    rw [exec_rdlc_of_ok h, liveCount_of_inactive hinactive]
    rfl
  · intro k l ls hloops hk
    rw [exec_rdlc_of_ok h, hloops, liveCount_of_innermost hk]
  · intro imm v hpos hreg
    rw [exec_rdreg_of_ok h, if_neg (by omega), hreg]
    rfl
  · intro imm hnone
    rw [exec_rdreg_of_ok h]
    rcases hnone with hneg | hnone
    · rw [if_pos hneg]
    · simp [hnone, i]
  · intro q
    exact congrArg Host.Outcome.next (scalar_ok h)

/-! ### Address registers (R45, R46, R58) -/

section Address
variable {s : State} {u : Issue} {b : BundleIP}

/-- A write of an address or step register from a slot of the A stream. -/
theorem State.setAddr_of_ok {key : Nat} {src : Src2} (hA : u.stream = .A) (h : SlotOk s u 0 (regSlot true (src2Keys u.stream src) [key]) b) :
    s.setAddr u key src = slotNext s u 0
      ((slotTile s u 0).write key ((slotTile s u 0).cycle + 1) b.win b.seq (b.poisoned (src2Keys u.stream src))
        (.areg ((BundleIP.src2 b src).truncate 40)))
      ((b.count (regSlot true (src2Keys u.stream src) [key])).name (regSlot true (src2Keys u.stream src) [key])) :=
  slot_of_done h (by rw [stream_beq_A hA]; rfl) rfl

theorem exec_bind_of_ok {n : Fin 16} {imm : BitVec 40} (hA : u.stream = .A) (himm : imm.toNat % 8 ≤ 4) (h : SlotOk s u 0 (regSlot true [] []) b) :
    exec (.bind u n imm) s = .next (slotNext s u 0
      { slotTile s u 0 with core := { (slotTile s u 0).core with
          binds := mput 0 (slotTile s u 0).core.binds n.val (if imm.toNat % 8 = 4 then 0 else imm.toNat % 8 + 1) } }
      ((b.count (regSlot true [] [])).name (regSlot true [] []))) :=
  congrArg Host.Outcome.next (slot_of_done h (by simp [hA, himm, regSlot, SlotInfo.none_]) rfl)

end Address

/-- Settles O3, by the write that seta and sett leave pending and the binding that bind leaves. -/
theorem addressRegistersAreSetAndBound : Obligations.AddressRegistersAreSetAndBound := by
  unfold Obligations.AddressRegistersAreSetAndBound
  intro s u b n hA
  constructor
  · intro src v t
    constructor
    · rintro i rfl h
      exact congrArg Host.Outcome.next (State.setAddr_of_ok hA h)
    · rintro i rfl h
      exact congrArg Host.Outcome.next (State.setAddr_of_ok hA h)
  · intro imm himm h
    exact exec_bind_of_ok hA himm h

/-! ### Branches and loops (R58, R59, R65 to R70) -/

section Branches
variable {s : State} {u : Issue} {b : BundleIP}

/-- A branch whose target lies in the 23 bits of a program counter names it. -/
theorem BundleIP.take_of_inside {imm : BitVec 40} (h0 : 0 ≤ (b.pc : Int) + 8 * imm.toInt) (h1 : (b.pc : Int) + 8 * imm.toInt < 2 ^ 23) :
    b.take imm = { b with branch := some ((b.pc : Int) + 8 * imm.toInt).toNat } := by
  simp only [BundleIP.take, branchTarget, Int.emod_eq_of_lt h0 h1]

theorem exec_condBranch_of_ok {op : BranchOp} {ra rb : Fin 32} {imm : BitVec 40} {i : SlotInfo}
    (hi : i = regSlot true [sKey u.stream ra.val, sKey u.stream rb.val] []) (h : SlotOk s u 0 i b) :
    exec (.condBranch u op ra rb false imm) s = .next ((s.beginSlot u 0).closeSlot u
      (if branchTaken op (b.s ra.val) (b.s rb.val) then ((b.count i).name i).take imm else (b.count i).name i)) :=
  congrArg Host.Outcome.next (slot_of_done h hi.symm rfl)

/-- The loop entry that loop `k` leaves from the bundle `b`, which ends at `endA` after `trips` trips (R65, R66). -/
def BundleIP.loopEntry (b : BundleIP) (k : Nat) (endA trips : Int) : LoopRec :=
  { k := k, first := b.pc + 8 * hdrLength b.hdr, endAddr := endA.toNat, remaining := trips.toNat, exit := false }

/-- A tile whose stream has entered one more loop. -/
def Tile.enterLoop (t : Tile) (st : Stream) (l : LoopRec) : Tile := { t with core := t.core.setLoops st (l :: t.core.loops st) }

section Loop
variable {k : Fin 4} {ra : Fin 32} {immediate : Bool} {imm : BitVec 40} {i : SlotInfo} {trips : Int}
  (hi : i = regSlot true (if immediate then [] else [sKey u.stream ra.val]) [])
  (htrips : trips = if immediate then (imm.toNat : Int) % 2 ^ 16 else (b.s ra.val).toInt)
  (h : SlotOk s u 0 i b)
include hi htrips h

theorem exec_loop_of_outside (hout : trips < 0 ∨ 65535 < trips) : exec (.loop u k ra immediate imm) s =
    .next ((s.beginSlot u 0).closeSlot u (((b.count i).name i).stop 0x12 (ucode 32 trips))) := by
  subst htrips
  exact congrArg Host.Outcome.next (slot_of_halt h hi.symm (if_pos hout))

/-- A loop of at least one trip that R68 allows. -/
theorem exec_loop_of_entered (h1 : 1 ≤ trips) (h2 : trips ≤ 65535) (hlen : (hdrLength b.hdr : Int) ≤ (imm.extractLsb' 16 24).toInt)
    (hfour : (b.start.loops b.stream).length < 4)
    (hinside : ∀ l ∈ b.start.loops b.stream, l.k ≠ k.val ∧ (b.pc : Int) + 8 * (imm.extractLsb' 16 24).toInt ≤ l.endAddr) :
    exec (.loop u k ra immediate imm) s = .next (slotNext s u 0
      ((slotTile s u 0).enterLoop b.stream (b.loopEntry k.val ((b.pc : Int) + 8 * (imm.extractLsb' 16 24).toInt) trips))
      ((b.count i).name i)) := by
  have hrange : ¬ (trips < 0 ∨ 65535 < trips) := by omega
  have hzero : ¬ trips = 0 := by omega
  have hlegal : ¬ (((b.start.loops b.stream).any fun l => l.k == k.val) || decide ((imm.extractLsb' 16 24).toInt < hdrLength b.hdr) ||
      ((b.start.loops b.stream).any fun l => decide ((l.endAddr : Int) < (b.pc : Int) + 8 * (imm.extractLsb' 16 24).toInt)) ||
      decide (4 ≤ (b.start.loops b.stream).length)) = true := by
    simp only [Bool.or_eq_true, List.any_eq_true, beq_iff_eq, decide_eq_true_eq, not_or, not_exists, not_and, not_lt, not_le]
    exact ⟨⟨⟨fun l hl => (hinside l hl).1, hlen⟩, fun l hl => (hinside l hl).2⟩, hfour⟩
  subst htrips
  exact congrArg Host.Outcome.next (slot_of_done h hi.symm ((if_neg hrange).trans ((if_neg hlegal).trans (if_neg hzero))))

end Loop

theorem exec_lexit_of_inside {i : SlotInfo} (hi : i = regSlot true [] []) (h : SlotOk s u 0 i b) {l : LoopRec} {ls : List LoopRec}
    (hloops : (slotTile s u 0).core.loops b.stream = l :: ls) : exec (.lexit u) s = .next (slotNext s u 0
      { slotTile s u 0 with core := (slotTile s u 0).core.setLoops b.stream ({ l with exit := true } :: ls) } ((b.count i).name i)) := by
  refine congrArg Host.Outcome.next (slot_of_done h hi.symm ?_)
  have hstands : ((s.beginSlot u 0).tile u.tile).core.loops ((b.count i).name i).stream = l :: ls := hloops
  simp only [hstands]
  rfl

theorem exec_lexit_of_outside {i : SlotInfo} (hi : i = regSlot true [] []) (h : SlotOk s u 0 i b)
    (hloops : (slotTile s u 0).core.loops b.stream = []) :
    exec (.lexit u) s = .next ((s.beginSlot u 0).closeSlot u ((b.count i).name i)) := by
  refine congrArg Host.Outcome.next (slot_of_done h hi.symm ?_)
  have hstands : ((s.beginSlot u 0).tile u.tile).core.loops ((b.count i).name i).stream = [] := hloops
  simp only [hstands]

end Branches

/-- Settles O4, by what each bundle's slot leaves: nothing, the branch that it takes, the loop that it enters or marks, or its halt. -/
theorem branchesLoopsAndEmptyBundles : Obligations.BranchesLoopsAndEmptyBundles := by
  unfold Obligations.BranchesLoopsAndEmptyBundles
  constructor
  · intro s u b plain b'
    refine ⟨?_, ?_, ?_, ?_⟩
    · intro h
      exact congrArg Host.Outcome.next (slot_of_done h rfl rfl)
    · intro imm h h0 h1
      exact congrArg Host.Outcome.next (slot_of_done h rfl (congrArg _ (BundleIP.take_of_inside h0 h1)))
    · intro op ra rb imm i x y taken h
      have htaken : branchTaken op x y = true ↔ taken := by
        cases op <;> simp [branchTaken, taken, BitVec.slt_eq_decide, BitVec.ult_eq_decide]
      constructor
      · intro hno
        rw [exec_condBranch_of_ok rfl h, if_neg (htaken.not.mpr hno)]
      · intro hyes h0 h1
        rw [exec_condBranch_of_ok rfl h, if_pos (htaken.mpr hyes)]
        exact congrArg _ (congrArg _ (BundleIP.take_of_inside h0 h1))
    · intro h t
      exact ⟨fun l ls hloops => exec_lexit_of_inside rfl h hloops, fun hloops => exec_lexit_of_outside rfl h hloops⟩
  · intro s u b k ra immediate imm i trips endA entry t h
    exact ⟨fun h1 h2 hlen hfour hinside => exec_loop_of_entered rfl rfl h h1 h2 hlen hfour hinside, exec_loop_of_outside rfl rfl h⟩

/-! ### Queue slots (R58, R74) -/

/-- Settles O5: each slot starts one operation on its queue. -/
theorem queueSlotsStartPushAndPop : Obligations.QueueSlotsStartPushAndPop := by
  unfold Obligations.QueueSlotsStartPushAndPop
  intro s u b q r t act lq sq
  have hpush : pushQueue u.stream q.val = if u.stream = .A then lq else sq := by
    unfold pushQueue
    cases u.stream <;> rfl
  have hpop : popQueue u.stream q.val = if u.stream = .A then sq else lq := by
    unfold popQueue
    cases u.stream <;> rfl
  rw [← hpush, ← hpop]
  constructor
  · rintro i rfl h
    exact congrArg Host.Outcome.next (slot_of_done h rfl rfl)
  · rintro i rfl h
    exact congrArg Host.Outcome.next (slot_of_done h rfl rfl)

end Sys2Proof.Machine
end

section
/-! The sync slot, and what O6 says of it: effects that the turnstile holds, and stalls. -/

namespace Sys2Proof.Machine

/-- A tile in which a bundle is open is not a tile that nothing has happened to. -/
theorem Tile.ne_zero_of_cur {t : Tile} {b : BundleIP} (h : t.cur = some b) : t ≠ Tile.zero := by
  rintro rfl
  cases h

section Sync
variable {s : State} {u : Issue} {b : BundleIP} {i : SlotInfo}

/-- A sync slot whose effect the turnstile holds (R93). -/
theorem syncSlot_of_held {srcs : List Nat} {e : BundleIP → Effect} (hi : i = regSlot true srcs []) (h : SlotOk s u 5 i b) :
    s.syncSlot u true srcs (fun s b => .ok (s.holdSync u b (e b)) b) =
      slotNext s u 5 ((slotTile s u 5).hold b.win (2 * b.seq + 1) b.origin (e ((b.count i).name i))) ((b.count i).name i) :=
  slot_of_done h hi.symm rfl

/-- A sync slot that stalls its stream, and closes its window where `closes` says so (R43, R89). -/
theorem syncSlot_of_stalled {legal closes : Bool} {srcs : List Nat} {x : BundleIP → Stall} (hi : i = regSlot true srcs [])
    (hlegal : legal = true) (h : SlotOk s u 5 i b) :
    s.syncSlot u legal srcs (fun s b => s.stallFor u b (x b) closes) =
      slotNext s u 5 { slotTile s u 5 with core := (slotTile s u 5).core.setStall b.stream (x ((b.count i).name i)) }
        { (b.count i).name i with closes := b.closes || closes } :=
  slot_of_done h (by rw [hi, hlegal]; rfl) rfl

/-- A stall in a tile that was just set. -/
theorem State.stallFor_setTile {t : Tile} (ht : t ≠ Tile.zero) (x : Stall) (closes : Bool) :
    (s.setTile u.tile t).stallFor u b x closes =
      .ok (s.setTile u.tile { t with core := t.core.setStall b.stream x }) { b with closes := b.closes || closes } := by
  simp only [State.stallFor, State.tile_setTile ht, State.setTile_setTile ht]

/-- A sync slot whose operation the turnstile holds while its stream stalls for it, its window closing (R60, R89). -/
theorem syncSlot_of_held_stalled {srcs : List Nat} {e : BundleIP → Effect} {x : Stall} (hi : i = regSlot true srcs []) (h : SlotOk s u 5 i b) :
    s.syncSlot u true srcs (fun s b => (s.holdSync u b (e b)).stallFor u b x true) =
      slotNext s u 5 { (slotTile s u 5).hold b.win (2 * b.seq + 1) b.origin (e ((b.count i).name i)) with
          core := (slotTile s u 5).core.setStall b.stream x }
        { (b.count i).name i with closes := true } := by
  have hopen : ((slotTile s u 5).hold b.win (2 * b.seq + 1) b.origin (e ((b.count i).name i))).cur = some b := slotTile_cur h
  refine slot_of_done h hi.symm ((State.stallFor_setTile (Tile.ne_zero_of_cur hopen) x true).trans ?_)
  rw [Bool.or_true]
  rfl

theorem exec_sigT_of_beyond {ra rb : Fin 32} {imm : BitVec 14} (hi : i = regSlot true [sKey u.stream ra.val, sKey u.stream rb.val] [])
    (h : SlotOk s u 5 i b) (hfar : 96 ≤ fld (b.s ra.val).toNat 16 10) : exec (.sigT u ra rb imm) s =
      .next ((s.beginSlot u 5).closeSlot u (((b.count i).name i).stop 0x20 (fld (b.s ra.val).toNat 0 32))) :=
  congrArg Host.Outcome.next (slot_of_halt h hi.symm (if_pos hfar))

theorem exec_sigT_of_tile {ra rb : Fin 32} {imm : BitVec 14} (hi : i = regSlot true [sKey u.stream ra.val, sKey u.stream rb.val] [])
    (h : SlotOk s u 5 i b) (hnear : fld (b.s ra.val).toNat 16 10 < 96) : exec (.sigT u ra rb imm) s =
      .next (slotNext s u 5 ((slotTile s u 5).hold b.win (2 * b.seq + 1) b.origin (.sigT (b.s ra.val) imm.toNat ((b.s rb.val).truncate 32)))
        ((b.count i).name i)) :=
  congrArg Host.Outcome.next (slot_of_done h hi.symm (if_neg (Nat.not_le.mpr hnear)))

theorem exec_fence_of_legal {imm : BitVec 14} (hi : i = regSlot true [] []) (h : SlotOk s u 5 i b) (hscope : imm.toNat % 4 ≠ 3) :
    exec (.fence u imm) s = .next (slotNext s u 5
      { slotTile s u 5 with fences := (slotTile s u 5).fences ++
          [{ stream := b.stream, scope := imm.toNat % 4, win := b.win, issued := (slotTile s u 5).cycle }] }
      { (b.count i).name i with closes := true }) :=
  congrArg Host.Outcome.next (slot_of_done h (by rw [hi, decide_eq_true hscope]; rfl) rfl)

end Sync

/-- Settles O6: the effects that the turnstile holds, then the stalls. -/
theorem syncSlotsHoldEffectsOrStall : Obligations.SyncSlotsHoldEffectsOrStall := by
  unfold Obligations.SyncSlotsHoldEffectsOrStall
  constructor
  · intro s u b ra rb imm t a r amount held
    refine ⟨?_, ?_, ?_⟩
    · intro i hi h
      exact ⟨congrArg Host.Outcome.next (syncSlot_of_held hi h), exec_sigT_of_tile hi h, exec_sigT_of_beyond hi h⟩
    · intro i hi h
      exact congrArg Host.Outcome.next (syncSlot_of_held hi h)
    · intro i hi h
      exact congrArg Host.Outcome.next (syncSlot_of_held hi h)
  · intro s u b ra rb imm t a r amount stalled closing
    have hcloses : (b.closes || true) = true := Bool.or_true _
    have hstays : (b.closes || false) = b.closes := Bool.or_false _
    refine ⟨?_, ?_, ?_⟩
    · intro i hi h
      exact ⟨congrArg Host.Outcome.next (syncSlot_of_held_stalled hi h), congrArg Host.Outcome.next (syncSlot_of_held_stalled hi h)⟩
    · intro i hi h
      exact congrArg Host.Outcome.next ((syncSlot_of_stalled hi rfl h).trans (by rw [hcloses]; rfl))
    · intro i hi h
      refine ⟨exec_fence_of_legal hi h, fun hitems => ?_, ?_⟩
      · exact congrArg Host.Outcome.next ((syncSlot_of_stalled hi (decide_eq_true hitems) h).trans (by rw [hstays]; rfl))
      · exact congrArg Host.Outcome.next ((syncSlot_of_stalled hi rfl h).trans (by rw [hstays]; rfl))

end Sys2Proof.Machine
end

section
/-! The load and store slots, and what O7 to O9 say of them. -/

namespace Sys2Proof.Machine

section Memory
variable {s s' : State} {u : Issue} {bit : Nat} {b b' : BundleIP} {i : SlotInfo}

/-- A slot of the memory slots whose checks pass closes with what its body leaves. -/
theorem slot_of_checked {info : Tile → BundleIP → SlotInfo} {body : State → BundleIP → SlotRes} {failure : Option Failure}
    (h : SlotOk s u bit i b) (hi : info (slotTile s u bit) b = i) (hpass : failure = none)
    (hbody : body (s.beginSlot u bit) ((b.count i).name i) = orHalt failure (.ok s' b')) : s.slot u bit info body = s'.closeSlot u b' :=
  slot_of_done h hi (by rw [hbody, hpass]; rfl)

/-- A memory slot of the A stream, of the form that its opcode has, is legal (R51, R83). -/
theorem memoryLegal (hA : u.stream = .A) {p : Prop} [Decidable p] (hp : p) : (u.stream == .A && decide p) = true := by
  rw [stream_beq_A hA, decide_eq_true hp]
  rfl

/-! ### Loads (R61, R63, R83, R86) -/

theorem exec_ldQ_of_checked {h : Fin 1024} {n : Fin 16} {q : Fin 4} {count : BitVec 8} {vol : Bool} {imm : BitVec 24}
    (hA : u.stream = .A) (hform : hdrLong u.hdr ≠ 1)
    (hi : i = { regSlot true (memSrcs b n imm h (256 * (count.toNat + 1))) [] with loads := [q.val] }) (hs : SlotOk s u 3 i b)
    (hpass : (s.beginSlot u 3).accessFailure u.tile h.val (parseDesc (b.start.descBytes h.val) u.tile) (.move false) (b.offset n imm)
      (count.toNat + 1) = none) :
    exec (.ldQ u h n q count vol imm) s = .next (((s.beginSlot u 3).startLoad u.tile ((b.count i).name i) q.val (b.start.descBytes h.val) h.val
      (b.offset n imm) (count.toNat + 1)).closeSlot u ((b.count i).name i)) :=
  congrArg Host.Outcome.next (slot_of_checked hs (by rw [hi, memoryLegal hA hform]; rfl) hpass rfl)

theorem exec_ldS_of_checked {h : Fin 1024} {n : Fin 16} {r : Fin 32} {w : Width} {vol : Bool} {imm : BitVec 24}
    (hA : u.stream = .A) (hform : hdrLong u.hdr ≠ 1) (hi : i = regSlot true (memSrcs b n imm h (widthBytes w)) [r.val])
    (hs : SlotOk s u 3 i b)
    (hpass : (s.beginSlot u 3).scalarFailure u.tile h.val (parseDesc (b.start.descBytes h.val) u.tile) false (b.offset n imm)
      (widthBytes w) = none) :
    exec (.ldS u h n r w vol imm) s = .next (((s.beginSlot u 3).loadScalar u.tile ((b.count i).name i)
      (parseDesc (b.start.descBytes h.val) u.tile) h.val r.val (widthBytes w) vol (b.offset n imm)).closeSlot u ((b.count i).name i)) :=
  congrArg Host.Outcome.next (slot_of_checked hs (by rw [hi, memoryLegal hA hform]; rfl) hpass rfl)

/-- The load of rows that a bundle issues (R83). -/
def Tile.rowLoad (t : Tile) (f : LongForm) (b : BundleIP) : LoadIP :=
  { id := t.nextLoad, win := b.win, seq := b.seq, q := f.queue.val, pc := b.pc, nextAt := t.cycle + 5, cls := 6, rate := 1, pushed := 0
    count := longItems f, items := t.rowItems f (longBase f b), desc := [], index := 0, data := [], poison := [], missing := [] }

theorem exec_ldQL_of_checked {f : LongForm} (hA : u.stream = .A) (hform : hdrLong u.hdr = 1)
    (hi : i = { regSlot true [64 + f.areg.val] [] with loads := [f.queue.val] }) (hs : SlotOk s u 3 i b)
    (hpass : longFailure f (longBase f b) = none) : exec (.ldQL u f) s = .next (slotNext s u 3
      { slotTile s u 3 with nextLoad := (slotTile s u 3).nextLoad + 1, loads := (slotTile s u 3).loads ++ [(slotTile s u 3).rowLoad f b] }
      ((b.count i).name i)) :=
  congrArg Host.Outcome.next (slot_of_checked hs (by rw [hi, memoryLegal hA hform]; rfl) hpass rfl)

end Memory

/-- Settles O7, load by load. -/
theorem loadsIssueAfterTheirChecks : Obligations.LoadsIssueAfterTheirChecks := by
  unfold Obligations.LoadsIssueAfterTheirChecks
  intro s u b h n imm hA desc d o t
  refine ⟨?_, ?_, ?_⟩
  · intro q count vol i hi hform hs hpass
    exact exec_ldQ_of_checked hA hform hi hs hpass
  · intro r w vol i hi hform hs hpass
    exact exec_ldS_of_checked hA hform hi hs hpass
  · intro f i hi hform hs hpass
    exact exec_ldQL_of_checked hA hform hi hs hpass

/-! ### Stores of items and copies (R62, R83, R168) -/

section Stores
variable {s : State} {u : Issue} {b : BundleIP} {i : SlotInfo}

/-- A tile in which a bundle of the A stream starts an operation in the current cycle. -/
def Tile.startAct (t : Tile) (b : BundleIP) (k : ActKind) : Tile :=
  { t with core := { t.core with acts := t.core.acts ++ [{ start := t.cycle, win := b.win, seq := b.seq, pc := b.pc, stream := .A, kind := k }] } }

theorem exec_stQ_of_checked {h : Fin 1024} {n : Fin 16} {q : Fin 4} {count : BitVec 8} {acid : Fin 64} {imm : BitVec 24}
    {desc : List Byte} {d : Desc} {o : Int} {c : Nat} (hdesc : desc = b.start.descBytes h.val) (hd : d = parseDesc desc u.tile)
    (ho : o = b.offset n imm) (hc : c = count.toNat + 1) (hA : u.stream = .A) (hform : hdrLong u.hdr ≠ 2)
    (hi : i = { regSlot true [64 + n.val, 1024 + h.val] [] with pops := [4 + q.val], bytes := ownBytes u.tile d (256 * c) })
    (hs : SlotOk s u 4 i b) (haccess : (s.beginSlot u 4).accessFailure u.tile h.val d (.move true) o c = none)
    (hport : (s.beginSlot u 4).portFailure u.tile h.val (4 + q.val) d o c = none) :
    exec (.stQ u h n q count acid imm) s = .next (slotNext s u 4
      (((slotTile s u 4).invalidate (d.storeLines o c)).startAct b
        (.popStore (4 + q.val) c [] (.desc { desc := desc, h := h.val, index := o, acid := acid.val })))
      ((b.count i).name i)) := by
  have hpass : firstFailure [(s.beginSlot u 4).accessFailure u.tile h.val d (.move true) o c,
      (s.beginSlot u 4).portFailure u.tile h.val (4 + q.val) d o c] = none := by
    rw [haccess, hport]
    rfl
  subst hdesc hd ho hc
  exact congrArg Host.Outcome.next (slot_of_checked hs (by rw [hi, memoryLegal hA hform]; rfl) hpass rfl)

theorem exec_stQL_of_checked {f : LongForm} (hA : u.stream = .A) (hform : hdrLong u.hdr = 2)
    (hi : i = { regSlot true [64 + f.areg.val] [] with pops := [4 + f.queue.val], bytes := (f.rowbytes.toNat + 1) * (f.rows.toNat + 1) })
    (hs : SlotOk s u 4 i b) (hpass : longFailure f (longBase f b) = none) : exec (.stQL u f) s = .next (slotNext s u 4
      ((slotTile s u 4).startAct b (.popStore (4 + f.queue.val) (longItems f) [] (.long f (longBase f b)))) ((b.count i).name i)) :=
  congrArg Host.Outcome.next (slot_of_checked hs (by rw [hi, memoryLegal hA hform]; rfl) hpass rfl)

end Stores

/-- Settles O8: both stores start the operation that pops their queue. -/
theorem storesStartAfterTheirChecks : Obligations.StoresStartAfterTheirChecks := by
  unfold Obligations.StoresStartAfterTheirChecks
  intro s u b hA t run
  constructor
  · intro h n q count acid imm i desc d o c hi hform hs haccess hport
    exact exec_stQ_of_checked rfl rfl rfl rfl hA hform hi hs haccess hport
  · intro f i hi hform hs hpass
    exact exec_stQL_of_checked hA hform hi hs hpass

/-! ### Scalar stores (R62, R63, R93, R159) -/

/-- A tile after the scalar store of `bs` at offset `o` of a descriptor, for the bundle `b`: by the place of the address. -/
def Tile.storeScalar (t : Tile) (n : Nat) (b : BundleIP) (d : Desc) (h : Nat) (o : Int) (w : Nat) (bs : List Byte) (p : Bool) (acid : Nat) : Tile :=
  if d.inFootprint (if d.table then o else d.scalarAddr o) w = false then { t with core := t.core.countOob true b.stream h [o] }
  else if d.table then
    (granulePieces o.toNat bs).foldl (fun y g => y.write (1024 + g.1 / 64) (t.cycle + 3) b.win b.seq p (.table g.1 g.2 0xFF#8)) t
  else if spaceOf (d.scalarAddr o).toNat = 2 ∧ fld (d.scalarAddr o).toNat 23 10 = n then
    t.write 8192 (t.cycle + 3) b.win b.seq p (.bytes ((d.scalarAddr o).toNat % 2 ^ 23) bs 0xFF#8)
  else (t.invalidate (if spaceOf (d.scalarAddr o).toNat = 0 then granulesOf (d.scalarAddr o).toNat w else [])).hold b.win (2 * b.seq) b.origin
    (.write (d.scalarAddr o).toNat bs 0xFF#8 p acid)

section StoreScalar
variable {t : Tile} {n : Nat} {b : BundleIP} {d : Desc} {h : Nat} {o : Int} {w : Nat} {bs : List Byte} {p : Bool} {acid : Nat}

theorem Tile.storeScalar_of_out (hout : d.inFootprint (if d.table then o else d.scalarAddr o) w = false) :
    t.storeScalar n b d h o w bs p acid = { t with core := t.core.countOob true b.stream h [o] } :=
  if_pos hout

theorem Tile.storeScalar_of_table (hin : d.inFootprint o w = true) (htable : d.table = true) :
    t.storeScalar n b d h o w bs p acid = (granulePieces o.toNat bs).foldl (fun y g =>
      y.write (1024 + g.1 / 64) (t.cycle + 3) b.win b.seq p (.table g.1 g.2 0xFF#8)) t := by
  simp only [Tile.storeScalar, htable, hin, if_true, Bool.true_eq_false, if_false]

section Memory
variable (hin : d.inFootprint (d.scalarAddr o) w = true) (htable : d.table = false)
include hin htable

theorem Tile.storeScalar_of_own (hown : spaceOf (d.scalarAddr o).toNat = 2 ∧ fld (d.scalarAddr o).toNat 23 10 = n) :
    t.storeScalar n b d h o w bs p acid =
      t.write 8192 (t.cycle + 3) b.win b.seq p (.bytes ((d.scalarAddr o).toNat % 2 ^ 23) bs 0xFF#8) := by
  simp only [Tile.storeScalar, htable, hin, hown, Bool.false_eq_true, Bool.true_eq_false, and_self, if_false, if_true]

theorem Tile.storeScalar_of_outside (hother : ¬ (spaceOf (d.scalarAddr o).toNat = 2 ∧ fld (d.scalarAddr o).toNat 23 10 = n)) :
    t.storeScalar n b d h o w bs p acid =
      (t.invalidate (if spaceOf (d.scalarAddr o).toNat = 0 then granulesOf (d.scalarAddr o).toNat w else [])).hold b.win (2 * b.seq) b.origin
        (.write (d.scalarAddr o).toNat bs 0xFF#8 p acid) := by
  simp only [Tile.storeScalar, htable, hin, hother, Bool.false_eq_true, Bool.true_eq_false, if_false]

end Memory

end StoreScalar

section Stores
variable {s : State} {u : Issue} {b : BundleIP} {i : SlotInfo}

theorem exec_stS_of_checked {h : Fin 1024} {n : Fin 16} {r : Fin 32} {w : Width} {acid : Fin 64} {imm : BitVec 24} {d : Desc} {o : Int}
    (hd : d = parseDesc (b.start.descBytes h.val) u.tile) (ho : o = b.offset n imm) (hA : u.stream = .A) (hform : hdrLong u.hdr ≠ 2)
    (hi : i = { regSlot true [64 + n.val, 1024 + h.val, r.val] [] with bytes := ownBytes u.tile d (widthBytes w) })
    (hs : SlotOk s u 4 i b) (hpass : (s.beginSlot u 4).scalarFailure u.tile h.val d true o (widthBytes w) = none) :
    exec (.stS u h n r w acid imm) s = .next (slotNext s u 4
      ((slotTile s u 4).storeScalar u.tile b d h.val o (widthBytes w) (toBytes (widthBytes w) (b.s r.val).toNat) (b.poisoned [r.val]) acid.val)
      ((b.count i).name i)) := by
  subst hd ho
  exact congrArg Host.Outcome.next (slot_of_checked hs (by rw [hi, memoryLegal hA hform]; rfl) hpass rfl)

/-! ### Copies of items (R62, R168) -/

/-- Where the source of a copy lies in stack memory, the state once its reads have gone out. -/
def State.copyReads (s : State) (u : Issue) (b : BundleIP) (hs : Nat) (index : Int) (c : Nat) : State :=
  if !(parseDesc (b.start.descBytes hs) u.tile).table && spaceOf (parseDesc (b.start.descBytes hs) u.tile).base == 0 then
    s.startLoad u.tile b 99 (b.start.descBytes hs) hs index c
  else s

theorem exec_stCp_of_checked {hs hd : Fin 1024} {as ad : Fin 16} {count : BitVec 8} {acid : Fin 64} {c : Nat} {sd dd : Desc} {js jd : Int}
    (hc : c = count.toNat + 1) (hsd : sd = parseDesc (b.start.descBytes hs.val) u.tile) (hdd : dd = parseDesc (b.start.descBytes hd.val) u.tile)
    (hjs : js = b.offset as 0) (hjd : jd = b.offset ad 0) (hA : u.stream = .A) (hform : hdrLong u.hdr ≠ 2)
    (hi : i = { regSlot true (memSrcs b as 0 hs (256 * c) ++ [64 + ad.val, 1024 + hd.val]) [] with bytes := ownBytes u.tile dd (256 * c) })
    (hok : SlotOk s u 4 i b) (hfmt : sd.fmt = dd.fmt)
    (hpass : firstFailure [sd.verify hs.val (.copyItems false) u.tile, dd.verify hd.val (.copyItems true) u.tile, dd.verifyWrite hd.val, none,
      (s.beginSlot u 4).verifySpace sd, (s.beginSlot u 4).verifySpace dd, (s.beginSlot u 4).streamBad sd js c,
      (s.beginSlot u 4).streamBad dd jd c] = none) :
    exec (.stCp u hs hd as ad count acid) s = .next (
      let s2 := (s.beginSlot u 4).copyReads u ((b.count i).name i) hs.val js c
      (s2.setTile u.tile (((s2.tile u.tile).invalidate (dd.storeLines jd c)).startAct b
        (.copy (b.start.descBytes hs.val) hs.val js { desc := b.start.descBytes hd.val, h := hd.val, index := jd, acid := acid.val } c 0 []
          (if !sd.table && spaceOf sd.base == 0 then some (slotTile s u 4).nextLoad else none)))).closeSlot u ((b.count i).name i)) := by
  have hall : firstFailure [sd.verify hs.val (.copyItems false) u.tile, dd.verify hd.val (.copyItems true) u.tile, dd.verifyWrite hd.val,
      if sd.fmt = dd.fmt then none else some (0x33, hs.val + hd.val * 2 ^ 16),
      (s.beginSlot u 4).verifySpace sd, (s.beginSlot u 4).verifySpace dd, (s.beginSlot u 4).streamBad sd js c,
      (s.beginSlot u 4).streamBad dd jd c] = none := by
    rw [if_pos hfmt]
    exact hpass
  subst hc hsd hdd hjs hjd
  exact congrArg Host.Outcome.next (slot_of_checked hok (by rw [hi, memoryLegal hA hform]; rfl) hall rfl)

end Stores

/-- Settles O9: the scalar store by the place of its address, and the start of a copy. -/
theorem scalarStoresAndCopiesStart : Obligations.ScalarStoresAndCopiesStart := by
  unfold Obligations.ScalarStoresAndCopiesStart
  constructor
  · intro s u b h n r w acid imm i hA d o a bs p t hi hform hs hpass next
    have hexec := exec_stS_of_checked (acid := acid) rfl rfl hA hform hi hs hpass
    refine ⟨?_, ?_, ?_, ?_⟩
    · intro hout
      exact hexec.trans (congrArg next (Tile.storeScalar_of_out hout))
    · intro hin htable
      exact hexec.trans (congrArg next (Tile.storeScalar_of_table hin htable))
    · intro hin htable hspace htile
      exact hexec.trans (congrArg next (Tile.storeScalar_of_own hin htable ⟨hspace, htile⟩))
    · intro hin htable hother
      exact hexec.trans (congrArg next (Tile.storeScalar_of_outside hin htable hother))
  · intro s u b hs hd as ad count acid i hA n c sb db sd dd js jd s1 far s2 t hi hform hok hfmt hpass
    exact exec_stCp_of_checked rfl rfl rfl (Int.add_zero _).symm (Int.add_zero _).symm hA hform hi hok hfmt hpass

end Sys2Proof.Machine
end

section
/-! The slots of the engines, and what O10 and O12 say of them: an operation starts at once or waits. -/

namespace Sys2Proof.Machine

section Vector
variable {s : State} {u : Issue} {op : VOp} {v : VSlot} {b : BundleIP}

/-! ### The vector engine (R87, R88) -/

theorem Tile.issueVector_at_once {t : Tile} {n : Nat} {out : Reader} {w : VWait} (hnone : t.core.vwait = []) (hfree : t.vectorFree = true)
    (hready : t.vectorReady w.op = true) : t.issueVector n out w = t.startVector n out w := by
  simp [Tile.issueVector, hnone, hfree, hready]

theorem Tile.issueVector_behind {t : Tile} {n : Nat} {out : Reader} {w : VWait} (hsome : t.core.vwait ≠ []) (hroom : t.core.vwait.length < 4) :
    t.issueVector n out w = { t with core := { t.core with vwait := t.core.vwait ++ [w] } } := by
  simp [Tile.issueVector, hsome, hroom]

/-- A vector slot whose descriptor passes its checks issues its operation with the operands that it reads at issue. -/
theorem State.vectorSlot_of_checked (hs : SlotOk s u 1 (vectorInfo u op v b) b)
    (hpass : (s.beginSlot u 1).vectorFailure u op v (parseDesc (b.start.descBytes v.handle.val) u.tile) = none) :
    s.vectorSlot u op v = slotNext s u 1 ((slotTile s u 1).issueVector u.tile (s.beginSlot u 1).outside (vectorWait op v b))
      (vectorBundle u op v b) := by
  refine slot_of_done hs rfl ?_
  simp only [BundleIP.name_start, BundleIP.count_start, hpass]
  rfl

theorem State.vectorSlot_at_once (h : VectorOk s u op v b) : s.vectorSlot u op v = vectorNext s u op v b := by
  rw [State.vectorSlot_of_checked h.slot h.checks, Tile.issueVector_at_once h.alone h.free h.ready]
  rfl

theorem State.vectorSlot_behind (hs : SlotOk s u 1 (vectorInfo u op v b) b)
    (hpass : (s.beginSlot u 1).vectorFailure u op v (parseDesc (b.start.descBytes v.handle.val) u.tile) = none)
    (hsome : (slotTile s u 1).core.vwait ≠ []) (hroom : (slotTile s u 1).core.vwait.length < 4) :
    s.vectorSlot u op v = slotNext s u 1
      { slotTile s u 1 with core := { (slotTile s u 1).core with vwait := (slotTile s u 1).core.vwait ++ [vectorWait op v b] } }
      (vectorBundle u op v b) := by
  rw [State.vectorSlot_of_checked hs hpass, Tile.issueVector_behind hsome hroom]

end Vector

/-- Settles O10: every vector command is the vector slot of its operation, which starts at once or waits. -/
theorem vectorSlotsIssueTheirOperation : Obligations.VectorSlotsIssueTheirOperation := by
  unfold Obligations.VectorSlotsIssueTheirOperation
  intro s u b v t waits
  have starts {c : Instr} {op : VOp} (hc : exec c s = .next (s.vectorSlot u op v)) (h : VectorOk s u op v b) :
      exec c s = .next (vectorNext s u op v b) := hc.trans (congrArg _ (State.vectorSlot_at_once h))
  have behind {c : Instr} {op : VOp} (hc : exec c s = .next (s.vectorSlot u op v)) : waits c op := fun hs hpass hsome hroom =>
    hc.trans (congrArg _ (State.vectorSlot_behind hs hpass hsome hroom))
  exact ⟨starts rfl, starts rfl, starts rfl, starts rfl, starts rfl, starts rfl, starts rfl, starts rfl, starts rfl, starts rfl,
    starts rfl, starts rfl, starts rfl, starts rfl, starts rfl, starts rfl, starts rfl, starts rfl, starts rfl, starts rfl,
    starts rfl, starts rfl, starts rfl, starts rfl, starts rfl, starts rfl, starts rfl, starts rfl, starts rfl, starts rfl,
    fun _ => starts rfl, starts rfl, starts rfl, starts rfl, starts rfl, starts rfl, starts rfl, starts rfl, starts rfl,
    fun _ => starts rfl, fun _ => starts rfl,
    behind rfl, behind rfl, behind rfl, behind rfl, behind rfl, behind rfl, behind rfl, behind rfl, behind rfl, behind rfl,
    behind rfl, behind rfl, behind rfl, behind rfl, behind rfl, behind rfl, behind rfl, behind rfl, behind rfl, behind rfl,
    behind rfl, behind rfl, behind rfl, behind rfl, behind rfl, behind rfl, behind rfl, behind rfl, behind rfl, behind rfl,
    fun _ => behind rfl, behind rfl, behind rfl, behind rfl, behind rfl, behind rfl, behind rfl, behind rfl, behind rfl,
    fun _ => behind rfl, fun _ => behind rfl⟩

section Matrix
variable {s : State} {u : Issue} {op : MOp} {m : MSlot} {b : BundleIP}

/-! ### The matrix engine (R87, R128) -/

theorem Tile.issueMatrix_at_once {t : Tile} {n : Nat} {out : Reader} {w : MWait} (halone : t.matrixAhead w.op = false)
    (hfree : t.matrixCanStart w = true) (hready : t.matrixReady w = true) : t.issueMatrix n out w = t.startMatrix n out w := by
  simp [Tile.issueMatrix, halone, hfree, hready]

theorem Tile.issueMatrix_behind {t : Tile} {n : Nat} {out : Reader} {w : MWait} (hahead : t.matrixAhead w.op = true)
    (hroom : t.core.mwait.length < 4) : t.issueMatrix n out w = { t with core := { t.core with mwait := t.core.mwait ++ [w] } } := by
  simp [Tile.issueMatrix, hahead, hroom]

/-- A matrix slot whose checks pass issues its operation with the descriptor that it names. -/
theorem State.matrixSlot_of_checked (hs : SlotOk s u 2 (matrixInfo u op m (slotTile s u 2) b) b)
    (hpass : (s.beginSlot u 2).matrixFailure u op m (parseDesc (b.start.descBytes m.ha.val) u.tile)
      (parseDesc (b.start.descBytes m.hb.toNat) u.tile) = none) :
    s.matrixSlot u op m = slotNext s u 2 ((slotTile s u 2).issueMatrix u.tile (s.beginSlot u 2).outside (matrixWait op m b))
      (matrixBundle s u op m b) := by
  refine slot_of_done hs rfl ?_
  simp only [BundleIP.name_start, BundleIP.count_start, hpass]
  rfl

theorem State.matrixSlot_at_once (h : MatrixOk s u op m b) : s.matrixSlot u op m = matrixNext s u op m b := by
  rw [State.matrixSlot_of_checked h.slot h.checks, Tile.issueMatrix_at_once h.alone h.free h.ready]
  rfl

theorem State.matrixSlot_behind (hs : SlotOk s u 2 (matrixInfo u op m (slotTile s u 2) b) b)
    (hpass : (s.beginSlot u 2).matrixFailure u op m (parseDesc (b.start.descBytes m.ha.val) u.tile)
      (parseDesc (b.start.descBytes m.hb.toNat) u.tile) = none)
    (hahead : (slotTile s u 2).matrixAhead op = true) (hroom : (slotTile s u 2).core.mwait.length < 4) :
    s.matrixSlot u op m = slotNext s u 2
      { slotTile s u 2 with core := { (slotTile s u 2).core with mwait := (slotTile s u 2).core.mwait ++ [matrixWait op m b] } }
      (matrixBundle s u op m b) := by
  rw [State.matrixSlot_of_checked hs hpass, Tile.issueMatrix_behind hahead hroom]

end Matrix

/-- Settles O12: every matrix command is the matrix slot of its operation, which starts at once or waits. -/
theorem matrixSlotsIssueTheirOperation : Obligations.MatrixSlotsIssueTheirOperation := by
  unfold Obligations.MatrixSlotsIssueTheirOperation
  intro s u b m t waits
  have starts {c : Instr} {op : MOp} (hc : exec c s = .next (s.matrixSlot u op m)) (h : MatrixOk s u op m b) :
      exec c s = .next (matrixNext s u op m b) := hc.trans (congrArg _ (State.matrixSlot_at_once h))
  have behind {c : Instr} {op : MOp} (hc : exec c s = .next (s.matrixSlot u op m)) : waits c op := fun hs hpass hahead hroom =>
    hc.trans (congrArg _ (State.matrixSlot_behind hs hpass hahead hroom))
  exact ⟨fun _ => starts rfl, fun _ _ => starts rfl, fun _ => starts rfl, fun _ => behind rfl, fun _ _ => behind rfl, fun _ => behind rfl⟩

end Sys2Proof.Machine
end

section
/-! Waiting operations and the load return path, and what O13 says of them. -/

namespace Sys2Proof.Machine

/-! ### Waiting operations (R87, R128) -/

section Start
variable {t : Tile} {n : Nat} {out : Reader}

theorem Tile.startWaiting_vector {w : VWait} {ws : List VWait} (hwait : t.core.vwait = w :: ws) (hfree : t.vectorFree = true)
    (hready : t.vectorReady w.op = true) : t.startWaiting n out .vector =
      ({ t with core := { t.core with vwait := ws } } : Tile).startVector n out w := by
  simp only [Tile.startWaiting, hwait, hfree, hready, Bool.true_or, Bool.and_self, if_true]

theorem Tile.startWaiting_matrixLoad {w : MWait} {ws : List MWait} {b : Bool} (hwait : t.core.mwait = w :: ws) (hop : w.op = .mld b)
    (hfree : t.matrixCanStart w = true) : t.startWaiting n out .matrixLoad =
      ({ t with core := { t.core with mwait := ws } } : Tile).startMatrix n out w := by
  have hready : t.matrixReady w = true := by simp only [Tile.matrixReady, hop]
  simp only [Tile.startWaiting, hwait, takeFirst, hop, beq_self_eq_true, hfree, hready, Bool.true_or, Bool.and_self, if_true]

theorem Tile.startWaiting_matrixMul {w : MWait} {ws : List MWait} (hwait : t.core.mwait = w :: ws) (hop : ∀ b, w.op ≠ .mld b)
    (hfree : t.matrixCanStart w = true) (hready : t.matrixReady w = true) : t.startWaiting n out .matrixMul =
      ({ t with core := { t.core with mwait := ws } } : Tile).startMatrix n out w := by
  cases hkind : w.op with
  | mld b => exact absurd hkind (hop b)
  | _ =>
    simp only [Tile.startWaiting, hwait, takeFirst, hkind, beq_self_eq_true, hfree, hready, Bool.true_or, Bool.and_self, if_true]

end Start

/-- A mode that is no rollback is one of the two in which a tile acts. -/
theorem TileMode.of_ne_rollback {m : TileMode} (h : ∀ c, m ≠ .rollback c) : m = .normal ∨ m = .conservative := by
  cases m with
  | normal => exact .inl rfl
  | rollback c => exact absurd rfl (h c)
  | conservative => exact .inr rfl

section Events
variable {s : State} {k : TileAt} (hruns : ((s.reach k).tile k.tile).runs = true) (hmode : ∀ c, ((s.reach k).tile k.tile).mode ≠ .rollback c)
include hruns hmode

theorem exec_engineOpStart_of_running {e : EngineSel} {y : Tile}
    (hstart : ((s.reach k).tile k.tile).startWaiting k.tile (s.reach k).outside e = y) :
    exec (.engineOpStart k e) s = .next ((s.reach k).setTile k.tile y) := by
  change execEngineOpStart k e s = _
  rcases TileMode.of_ne_rollback hmode with hm | hm <;>
    simp only [execEngineOpStart, hruns, hm, Bool.and_self, if_true, hstart]

theorem exec_loadItemPush_of_running (q : Fin 4) : exec (.loadItemPush k q) s = .next ((s.reach k).setTile k.tile
    { (s.reach k).tile k.tile with pathReq := setIns q.val ((s.reach k).tile k.tile).pathReq }) := by
  change execLoadItemPush k q s = _
  rcases TileMode.of_ne_rollback hmode with hm | hm <;>
    simp only [execLoadItemPush, hruns, hm, Bool.and_self, if_true]

end Events

/-! ### The load return path (R61, R91, R615) -/

/-- A load after one more of its items was pushed in cycle `c`. -/
def LoadIP.pushedOne (l : LoadIP) (c : Nat) : LoadIP := { l with pushed := l.pushed + 1, nextAt := c + l.rate }

/-- The loads and the path classes of a tile after it took one item of load `l` in the current cycle. -/
def Tile.takeItem (t : Tile) (l : LoadIP) : Tile :=
  { t with
    loads := t.loads.filterMap fun y =>
      if y.id = l.id then (if (l.pushedOne t.cycle).pushed < (l.pushedOne t.cycle).count then some (l.pushedOne t.cycle) else none) else some y
    pathFree := if l.cls = 6 then t.pathFree else mput 0 t.pathFree l.cls (t.cycle + l.rate) }

/-- The item that the return path pushes for load `l` stands in the log of the newest window, if an earlier one issued the load. -/
def Tile.logItem (t : Tile) (newest : Nat) (l : LoadIP) (it : QItem) : Tile :=
  { t with windows := t.windows.map fun w => if w.id = newest ∧ l.win < w.id then { w with items := w.items ++ [(l.q, l.win, it)] } else w }

/-- The return path pushes the next item of the oldest load of a queue that has room, when its path class is free. -/
theorem Tile.pathPush_of_free {t : Tile} {n : Nat} {l : LoadIP} {it : QItem} {done : List Nat} (hitem : l.nextItem n = some it)
    (hdue : l.nextAt ≤ t.cycle) (hnew : done.contains l.q = false)
    (hfirst : (t.loads.find? fun y => y.q == l.q && decide (y.pushed < y.count)).map (·.id) = some l.id)
    (hclass : l.cls = 6 ∨ mget 0 t.pathFree l.cls ≤ t.cycle) (hroom : (t.core.queue l.q).length < 16) :
    t.pathPush n l done = ((((t.takeItem l).push l.q it).1.logItem t.newest l ((t.takeItem l).push l.q it).2), l.q :: done) := by
  have hfull : decide (16 ≤ (t.core.queue l.q).length) = false := decide_eq_false (Nat.not_le.mpr hroom)
  have hgoes : ¬ (t.cycle < l.nextAt ∨ done.contains l.q = true ∨
      (t.loads.find? fun y => y.q == l.q && decide (y.pushed < y.count)).map (·.id) ≠ some l.id ∨
      (l.cls ≠ 6 ∧ t.cycle < mget 0 t.pathFree l.cls) ∨
      (t.conservative = true ∧ decide (16 ≤ (t.core.queue l.q).length) = true)) := by
    rw [hnew, hfirst, hfull]
    rintro (hearly | hdone | hother | ⟨hshared, hbusy⟩ | ⟨-, hno⟩)
    · omega
    · cases hdone
    · exact hother rfl
    · rcases hclass with hown | hfree
      · exact hshared hown
      · omega
    · cases hno
  have hpushes : ¬ decide (16 ≤ (t.core.queue l.q).length) = true := by
    rw [hfull]
    exact Bool.false_ne_true
  simp only [Tile.pathPush, hitem]
  exact (if_neg hgoes).trans (if_neg hpushes)

/-- Settles O13: what starts, what is asked of the return path, and what it pushes. -/
theorem waitingOperationsStartAndLoadsPush : Obligations.WaitingOperationsStartAndLoadsPush := by
  unfold Obligations.WaitingOperationsStartAndLoadsPush
  intro s k n s1 x
  refine ⟨fun hruns hmode => ⟨?_, ?_, ?_⟩, ?_, ?_⟩
  · intro w ws hwait hfree hready
    exact exec_engineOpStart_of_running hruns hmode (Tile.startWaiting_vector hwait hfree hready)
  · intro b w ws hwait hop hfree
    exact exec_engineOpStart_of_running hruns hmode (Tile.startWaiting_matrixLoad hwait hop hfree)
  · intro w ws hwait hop hfree hready
    exact exec_engineOpStart_of_running hruns hmode (Tile.startWaiting_matrixMul hwait hop hfree hready)
  · intro q hruns hmode
    exact exec_loadItemPush_of_running hruns hmode q
  · intro t l it done hitem hdue hnew hfirst hclass hroom l1 t1 u
    exact Tile.pathPush_of_free hitem hdue hnew hfirst hclass hroom

end Sys2Proof.Machine
end

section
/-! The counts of slips, and what O55 says of them. -/

namespace Sys2Proof.Machine

/-! ### The kernel range of an address (R101, R102) -/

/-- Whether kernel range `i` is valid and holds an address. -/
def Tile.rangeHolds (t : Tile) (pc i : Nat) : Bool :=
  let r := (mget 0 t.krange i).toNat
  r.testBit 23 && decide (fld r 0 23 ≤ pc) && decide (pc ≤ fld r 32 23)

theorem Tile.rangeHolds_iff {t : Tile} {pc i : Nat} : t.rangeHolds pc i = true ↔ (mget 0 t.krange i).toNat.testBit 23 = true ∧
    fld (mget 0 t.krange i).toNat 0 23 ≤ pc ∧ pc ≤ fld (mget 0 t.krange i).toNat 32 23 := by
  simp only [Tile.rangeHolds, Bool.and_eq_true, decide_eq_true_eq, and_assoc]

theorem Tile.kernelOf_eq (t : Tile) (pc : Nat) : t.kernelOf pc = ((List.range 16).find? (t.rangeHolds pc)).getD 15 := rfl

theorem Tile.kernelOf_of_first {t : Tile} {pc i : Nat} (h16 : i < 16) (hi : t.rangeHolds pc i = true)
    (hfirst : ∀ j, j < i → t.rangeHolds pc j = false) : t.kernelOf pc = i := by
  have hfind : (List.range 16).find? (t.rangeHolds pc) = some i :=
    List.find?_range_eq_some.mpr ⟨hi, List.mem_range.mpr h16, fun j hj => by simp [hfirst j hj]⟩
  rw [Tile.kernelOf_eq, hfind, Option.getD_some]

theorem Tile.kernelOf_of_none {t : Tile} {pc : Nat} (h : ∀ i, i < 16 → t.rangeHolds pc i = false) : t.kernelOf pc = 15 := by
  have hfind : (List.range 16).find? (t.rangeHolds pc) = none :=
    List.find?_range_eq_none.mpr fun i hi => by simp [h i hi]
  rw [Tile.kernelOf_eq, hfind, Option.getD_none]

/-! ### The counts (R101, R103, R104) -/

/-- One more in a 16-bit field that is not full, without a carry into the field above it. -/
theorem fld_add_pow {x i : Nat} (hroom : fld x (16 * i) 16 ≠ 65535) (k : Nat) :
    fld (x + 2 ^ (16 * i)) (16 * k) 16 = if k = i then fld x (16 * k) 16 + 1 else fld x (16 * k) 16 := by
  have hpos : 0 < 2 ^ (16 * i) := Nat.two_pow_pos _
  unfold fld at *
  rcases Nat.lt_trichotomy k i with hlt | rfl | hgt
  · obtain ⟨d, rfl⟩ := Nat.exists_eq_add_of_lt hlt
    have hpow : 2 ^ (16 * (k + d + 1)) = 2 ^ (16 * k) * (2 ^ (16 * d) * 2 ^ 16) := by rw [← pow_add, ← pow_add]; congr 1; ring
    rw [hpow, Nat.add_mul_div_left _ _ (Nat.two_pow_pos _), Nat.add_mul_mod_self_right, if_neg hlt.ne]
  · rw [Nat.add_div_right _ hpos, if_pos rfl]
    omega
  · obtain ⟨d, rfl⟩ := Nat.exists_eq_add_of_lt hgt
    have hpow : 2 ^ (16 * (i + d + 1)) = 2 ^ (16 * i) * 2 ^ 16 * 2 ^ (16 * d) := by rw [← pow_add, ← pow_add]; congr 1; ring
    have hcarry : (x / 2 ^ (16 * i) + 1) / 2 ^ 16 = x / 2 ^ (16 * i) / 2 ^ 16 := by omega
    rw [if_neg hgt.ne', hpow]
    simp only [← Nat.div_div_eq_div_mul, Nat.add_div_right _ hpos, hcarry]

/-- A saturating 16-bit count among four of a register rises by one, and the other three stay. -/
theorem fld_bump16 (x : BitVec 64) {i : Nat} (hi : i < 4) (k : Nat) : fld (bump16 x i).toNat (16 * k) 16 =
    if k = i then min (fld x.toNat (16 * k) 16 + 1) 65535 else fld x.toNat (16 * k) 16 := by
  have hfield (n : Nat) : fld x.toNat n 16 < 65536 := Nat.mod_lt _ (by decide)
  unfold bump16
  split
  · next hfull =>
    split
    · next hki => rw [hki, hfull]; rfl
    · rfl
  · next hroom =>
    have hsum : (x + BitVec.ofNat 64 (2 ^ (16 * i))).toNat = x.toNat + 2 ^ (16 * i) := by
      have hx := x.isLt
      unfold fld at hroom
      rw [BitVec.toNat_add, BitVec.toNat_ofNat, Nat.add_mod_mod, Nat.mod_eq_of_lt]
      interval_cases i <;> omega
    rw [hsum, fld_add_pow hroom]
    split
    · next hki =>
      have hk := hfield (16 * k)
      rw [← hki] at hroom
      omega
    · rfl

/-- A slip is counted in the entry of its kernel range, and every other entry stays. -/
theorem Tile.countSlip_slips {t : Tile} {x : SlipRec} {i : Nat} (hwf : mwf SlipCnt.zero t.slips = true) (hi : t.kernelOf x.pc = i) :
    (mget SlipCnt.zero (t.countSlip x).slips i).count = satInc (mget SlipCnt.zero t.slips i).count ∧
    ∀ j, j ≠ i → mget SlipCnt.zero (t.countSlip x).slips j = mget SlipCnt.zero t.slips j := by
  subst hi
  exact ⟨congrArg SlipCnt.count (mget_mput_self hwf _ _), fun j hj => mget_mput_other hwf hj _⟩

/-- Settles O55: the entry is the one that the search for a range finds, and the kind's count is one of three in a register. -/
theorem aSlipIsCountedByKernelAndByKind : Obligations.ASlipIsCountedByKernelAndByKind := by
  unfold Obligations.ASlipIsCountedByKernelAndByKind
  intro t x hwf hkind1 hkind3 y range holds counted
  have holds_iff (i : Nat) : holds i ↔ i < 16 ∧ t.rangeHolds x.pc i = true := and_congr_right' Tile.rangeHolds_iff.symm
  refine ⟨fun i hi hfirst => ?_, fun hnone => ?_, fun k hk => ?_⟩
  · obtain ⟨h16, hholds⟩ := (holds_iff i).mp hi
    refine Tile.countSlip_slips hwf (Tile.kernelOf_of_first h16 hholds fun j hj => ?_)
    exact Bool.eq_false_of_not_eq_true fun hj' => hfirst j hj ((holds_iff j).mpr ⟨hj.trans h16, hj'⟩)
  · refine Tile.countSlip_slips hwf (Tile.kernelOf_of_none fun i hi => ?_)
    exact Bool.eq_false_of_not_eq_true fun hi' => hnone i ((holds_iff i).mpr ⟨hi, hi'⟩)
  · have hsame : k = x.kind - 1 ↔ k + 1 = x.kind := by omega
    have hcount : fld y.slipKind.toNat (16 * k) 16 = _ := fld_bump16 t.slipKind (show x.kind - 1 < 4 by omega) k
    simpa only [hsame] using hcount

end Sys2Proof.Machine
end

section
/-! The windows of a tile from their close to the release of their effects, and what O14 says of them. -/

namespace Sys2Proof.Machine

/-- A tile of a job is not a tile that nothing has happened to. -/
theorem Tile.ne_zero_of_active {t : Tile} (h : t.active = true) : t ≠ Tile.zero := by
  rintro rfl
  cases h

theorem Tile.active_of_runs {t : Tile} (h : t.runs = true) : t.active = true := by
  simp only [Tile.runs, Bool.and_eq_true] at h
  exact h.1.1

/-- The tile of an event, whose clock has reached it. -/
abbrev reachedTile (s : State) (k : TileAt) : Tile := (s.reach k).tile k.tile

section Windows
variable {s : State} {k : TileAt}

/-! ### A window closes (R89) -/

theorem exec_windowIdleClose_of_idle {w : Window} (hopen : (reachedTile s k).openWin = some w)
    (hidle : w.lastIssue + 1024 ≤ (reachedTile s k).cycle) (hruns : (reachedTile s k).runs = true) :
    exec (.windowIdleClose k) s =
      .next ((s.reach k).setTile k.tile ((reachedTile s k).setLast { w with closing := true })) := by
  change execWindowIdleClose k s = _
  simp only [execWindowIdleClose, hopen, hidle, hruns, and_self, if_true]

/-! ### A window is confirmed (R90, R93) -/

/-- A tile in which effects have joined the queue of the releases. -/
def Tile.queueReleases (t : Tile) (l : List Held) : Tile := { t with releaseQ := t.releaseQ ++ l }

/-- Effects other than an acset join the queue of the releases in their order. -/
theorem State.confirmHeld_of_no_acset {n : Nat} {l : List Held} (hl : ∀ e ∈ l, ∀ c v, e.eff ≠ .acset c v) {t : Tile} (ht : t.active = true) :
    (s.setTile n t).confirmHeld n l = s.setTile n (t.queueReleases l) := by
  induction l generalizing t with
  | nil =>
    rw [Tile.queueReleases, List.append_nil]
    rfl
  | cons e l ih =>
    obtain ⟨hhead, htail⟩ := List.forall_mem_cons.mp hl
    have hjoins : (s.setTile n t).confirmHeld n (e :: l) = (s.setTile n (t.queueReleases [e])).confirmHeld n l := by
      rw [State.confirmHeld]
      split
      · next c v heff => exact absurd heff (hhead c v)
      · rw [State.tile_setTile (Tile.ne_zero_of_active ht), State.setTile_setTile (Tile.ne_zero_of_active ht)]
        rfl
    have hactive : (t.queueReleases [e]).active = true := ht
    rw [hjoins, ih htail hactive]
    simp only [Tile.queueReleases, List.append_assoc, List.singleton_append]

/-- Outside a replay and with no slip to inject, the oldest window is confirmed when it is closed and its actions are done. -/
theorem exec_windowConfirm_of_done {w : Window} {ws : List Window} (hws : (reachedTile s k).windows = w :: ws)
    (hclosed : w.closed = true) (hdone : (reachedTile s k).actionsDone w.id = true)
    (hruns : (reachedTile s k).runs = true) (hmode : (reachedTile s k).mode = .normal)
    (hslip : (reachedTile s k).slipN = 0) :
    exec (.windowConfirm k) s = .next ((((s.reach k).setTile k.tile
      ({ reachedTile s k with windows := ws } : Tile).dropCopies).confirmHeld k.tile (w.held.map (·.2))).settleTile k.tile) := by
  have hreplay : (reachedTile s k).conservative = false := by rw [Tile.conservative, hmode]; rfl
  change execWindowConfirm k s = _
  simp only [execWindowConfirm, hws, hclosed, hdone, hruns, hslip, hreplay, hmode, Nat.lt_irrefl, decide_false, Bool.and_self, Bool.not_true,
    Bool.or_self, Bool.false_and, Bool.false_eq_true, if_false]

/-! ### Effects leave (R94) -/

theorem exec_effectRelease_of_released {e : Held} {rest : List Held} {s' : State} (hq : (reachedTile s k).releaseQ = e :: rest)
    (hgoes : ((s.reach k).setTile k.tile { (reachedTile s k).acknowledge with releaseQ := rest }).releaseOne k.tile e = some s') :
    exec (.effectRelease k) s = .next (s'.settleTile k.tile) := by
  change execEffectRelease k s = _
  simp only [execEffectRelease, hq, hgoes]

/-! ### A rollback ends (R97, R98) -/

/-- A tile that resumes from the checkpoint of its rollback in conservative mode; a window's checkpoint goes on from there too. -/
def Tile.resumed (t : Tile) : Tile :=
  let d := t.cycle - ((t.windows.find? fun w => decide (w.id = t.consWin)).elim t.cycle (·.opened))
  { t with
    mode := .conservative, core := t.core.resume t.cycle d
    windows := t.windows.map fun w =>
      if w.id = t.consWin then { w with opened := t.cycle, lastIssue := t.cycle, ckpt := w.ckpt.resume t.cycle d } else w }

theorem exec_replayResume_of_over {c : Nat} (hmode : (reachedTile s k).mode = .rollback c)
    (hover : c ≤ (reachedTile s k).cycle) :
    exec (.replayResume k) s = .next ((s.reach k).setTile k.tile (reachedTile s k).resumed) := by
  change execReplayResume k s = _
  simp only [execReplayResume, hmode, Nat.not_lt.mpr hover, if_false]
  rfl

end Windows

/-- Settles O14, event by event; the effects of the confirmed window join the releases one after the other. -/
theorem windowsCloseConfirmAndRelease : Obligations.WindowsCloseConfirmAndRelease := by
  unfold Obligations.WindowsCloseConfirmAndRelease
  intro s k n s1 x
  refine ⟨fun w => exec_windowIdleClose_of_idle, ?_, fun e rest s2 => exec_effectRelease_of_released, ?_⟩
  · intro w ws hws hclosed hdone hruns hmode hslip hheld
    have hplain : ∀ e ∈ w.held.map (·.2), ∀ c v, e.eff ≠ .acset c v := List.forall_mem_map.mpr hheld
    refine ⟨_, exec_windowConfirm_of_done hws hclosed hdone hruns hmode hslip, ?_⟩
    exact State.confirmHeld_of_no_acset hplain (Tile.active_of_runs hruns)
  · intro c hmode hover
    exact ⟨x.resumed, exec_replayResume_of_over hmode hover, rfl, rfl, rfl, rfl, rfl⟩

end Sys2Proof.Machine
end

section
/-! What the reports, fences and traces that follow a halt leave of the halted tile. -/

namespace Sys2Proof.Machine

/-! ### Updates outside the tiles -/

theorem State.tile_of_tiles {s s' : State} (h : s'.tiles = s.tiles) (n : Nat) : s'.tile n = s.tile n := by rw [State.tile, h, State.tile]

theorem foldl_tiles {α : Type} {f : State → α → State} (hf : ∀ s a, (f s a).tiles = s.tiles) (l : List α) (s : State) :
    (l.foldl f s).tiles = s.tiles :=
  List.foldlRecOn (motive := fun t => t.tiles = s.tiles) l f rfl fun _ ht a _ => (hf _ a).trans ht

section Outside
variable (s : State)

@[simp] theorem State.msix_tiles (f v : Nat) : (s.msix f v).tiles = s.tiles := by
  unfold State.msix
  split_ifs <;> rfl

@[simp] theorem State.hostEvent_tiles (bit : Nat) : (s.hostEvent bit).tiles = s.tiles := by
  unfold State.hostEvent
  split
  · rfl
  · rw [State.msix_tiles]

@[simp] theorem State.hostError_tiles (f bit code detail : Nat) (job : Bool) : (s.hostError f bit code detail job).tiles = s.tiles := by
  simp only [State.hostError]
  split
  · rfl
  · rw [State.msix_tiles, State.setFn_tiles]

@[simp] theorem State.allow_tiles (u st : Nat) : (s.allow u st).tiles = s.tiles := by
  simp only [State.allow, State.hostEvent_tiles]
  split <;> rfl

@[simp] theorem State.noteStep_tiles (n : Nat) : (s.noteStep n).tiles = s.tiles := by
  unfold State.noteStep
  split <;> rfl

@[simp] theorem State.fireInt_tiles (n : Nat) : (s.fireInt n).tiles = s.tiles := s.noteStep_tiles n

@[simp] theorem State.report_tiles (u rep kind : Nat) : (s.report u rep kind).tiles = s.tiles := by
  simp only [State.report, State.pushEvent]
  split
  · rw [State.fireInt_tiles, State.setUnit_tiles]
  · rfl

@[simp] theorem State.requestTeardown_tiles (cause : Nat) (tile : Option Nat) : (s.requestTeardown cause tile).tiles = s.tiles := by
  unfold State.requestTeardown
  split <;> rfl

/-- A write to host memory that performs no effect of a tile. -/
@[simp] theorem State.hostWrite_tiles (f a : Nat) (bs : List Byte) (ep : Bool) : (s.hostWrite f a bs ep none).tiles = s.tiles := by
  simp only [State.hostWrite, State.refuseHost, Option.map_none]
  split
  · rw [State.hostError_tiles]
  · split <;> rfl

@[simp] theorem State.unitCycle_tiles (u : Nat) : (s.unitCycle u).2.tiles = s.tiles := by
  unfold State.unitCycle
  split <;> rfl

@[simp] theorem State.trace_tiles (u kind data : Nat) : (s.trace u kind data).tiles = s.tiles := by
  simp only [State.trace]
  split
  · rfl
  · split
    · rfl
    · rw [State.hostWrite_tiles, State.unitCycle_tiles]

@[simp] theorem State.traceHalt_tiles (n : Nat) (h : HaltRec) : (s.traceHalt n h).tiles = s.tiles := by
  simp only [State.traceHalt, State.traceTile]
  split
  · rw [State.trace_tiles]
  · rfl

@[simp] theorem State.holdSteward_tiles (k : Nat) : (s.holdSteward k).tiles = s.tiles := by
  simp only [State.holdSteward]
  refine (foldl_tiles (fun acc e => ?_) _ _).trans ?_
  · split_ifs <;> rfl
  · rw [State.hostEvent_tiles, State.setSteward_tiles]

@[simp] theorem State.acquireTest_tiles (sem scope party : Nat) : (s.acquireTest sem scope party).tiles = s.tiles := by
  simp only [State.acquireTest]
  split_ifs <;> rfl

@[simp] theorem State.fireNtf_tiles (m : Nat) : (s.fireNtf m).tiles = s.tiles := by
  simp only [State.fireNtf]
  split
  · rw [State.msix_tiles, State.acquireTest_tiles]
  · rw [State.hostWrite_tiles, State.acquireTest_tiles]

@[simp] theorem State.fireNtfs_tiles (sem : Nat) : (s.fireNtfs sem).tiles = s.tiles := by
  refine foldl_tiles (fun acc e => ?_) _ _
  dsimp only
  split
  · rw [State.fireNtf_tiles]
  · rfl

@[simp] theorem State.sendFlits_tiles (n : Nat) (l : List (BitVec 12 × BitVec 2048)) : (s.sendFlits n l).tiles = s.tiles :=
  foldl_tiles (fun _ _ => State.send_tiles ..) l s

@[simp] theorem State.transmit_tiles (n : Nat) (p : Packet) : (s.transmit n p).tiles = s.tiles := by
  rw [State.transmit, State.sendFlits_tiles, State.setLink_tiles]

@[simp] theorem State.drainLink_tiles (n : Nat) : (s.drainLink n).tiles = s.tiles := by
  refine List.foldlRecOn (motive := fun acc : State × List Nat => acc.1.tiles = s.tiles) _ _ rfl fun acc hacc p _ => ?_
  dsimp only
  split
  · rw [State.transmit_tiles, hacc]
  · rw [State.setLink_tiles, hacc]

@[simp] theorem State.queueOn_tiles (n : Nat) (ps : List Packet) : (s.queueOn n ps).tiles = s.tiles := by
  rw [State.queueOn, State.drainLink_tiles, State.setLink_tiles]

end Outside

/-! ### A halted tile (R107, R108) -/

/-- A read that finds an entry is not changed by a write of another key, whatever the map. -/
theorem mget_mput_other_of_found {α : Type} [DecidableEq α] {d : α} (m : SMap α) {i j : Nat} (hfound : mget d m j ≠ d) (hij : j ≠ i) (v : α) :
    mget d (mput d m i v) j = mget d m j := by
  by_cases hv : v = d
  · subst hv
    induction m with
    | nil => exact absurd rfl hfound
    | cons p m ih =>
      obtain ⟨k, w⟩ := p
      rcases Nat.lt_trichotomy i k with hlt | rfl | hgt
      · simp [mput, hlt]
      · by_cases hji : j < i
        · exact absurd (by simp [mget, hij, hji]) hfound
        · simp [mput, mget, hij, hji]
      · simp only [mput, Nat.not_lt.mpr hgt.le, hgt.ne', if_false, mget] at hfound ⊢
        split
        · rfl
        · next hjk =>
          split
          · rfl
          · next hlow =>
            rw [if_neg hjk, if_neg hlow] at hfound
            exact ih hfound
  · exact mget_mput_other_of_ne hv m hij

/-- A tile that a halt has stopped: the record of the halt, no effect held or on its way out, and the refusals that are still to come. -/
structure Tile.Stopped (h : HaltRec) (rest : List HaltRec) (t : Tile) : Prop where
  reason : h.reason ≠ 0
  halt : t.halt = h
  released : t.releaseQ = []
  held : ∀ w ∈ t.windows, w.held = []
  refusals : t.refusals = rest

namespace Tile.Stopped
variable {h : HaltRec} {rest : List HaltRec} {t : Tile}

theorem ne_zero (ht : t.Stopped h rest) : t ≠ Tile.zero := by
  rintro rfl
  exact ht.reason (congrArg HaltRec.reason ht.halt).symm

theorem heldEffects (ht : t.Stopped h rest) : t.heldEffects = [] := by
  rw [Tile.heldEffects, ← List.flatMap_eq_foldl, List.flatMap_eq_nil_iff]
  exact fun w hw => by rw [ht.held w hw, List.map_nil]

theorem remoteWrite (ht : t.Stopped h rest) (a : Nat) (bs : List Byte) (mask : Byte) (p : Bool) : (t.remoteWrite a bs mask p).Stopped h rest :=
  ⟨ht.reason, ht.halt, ht.released, List.forall_mem_map.mpr ht.held, ht.refusals⟩

theorem undoOne (ht : t.Stopped h rest) (r : UndoRec) : (t.undoOne r).Stopped h rest := by
  obtain ⟨hreason, hhalt, hreleased, hheld, hrefusals⟩ := ht
  cases r with
  | buf b old => cases b <;> exact ⟨hreason, hhalt, hreleased, hheld, hrefusals⟩
  | _ => exact ⟨hreason, hhalt, hreleased, hheld, hrefusals⟩

theorem withoutOpen (ht : t.Stopped h rest) : t.withoutOpen.Stopped h rest := by
  refine List.foldlRecOn _ _ ht fun x hx w _ => List.foldlRecOn _ _ hx fun y hy e _ => ?_
  split
  · exact hy.undoOne _
  · exact hy

/-! ### What follows the halt outside the tile -/

variable {s s' : State} {n : Nat}

theorem of_tiles (hs : (s.tile n).Stopped h rest) (ht : s'.tiles = s.tiles) : (s'.tile n).Stopped h rest :=
  (State.tile_of_tiles ht n).symm ▸ hs

/-- An update of a tile that would leave the halted tile halted, of whichever tile it is. -/
theorem setTile (hs : (s.tile n).Stopped h rest) {l : Nat} {y : Tile} (hy : (s.tile l).Stopped h rest → y.Stopped h rest) :
    ((s.setTile l y).tile n).Stopped h rest := by
  by_cases hl : n = l
  · subst hl
    rw [State.tile_setTile (hy hs).ne_zero]
    exact hy hs
  · rw [State.tile, State.setTile, mget_mput_other_of_found s.tiles hs.ne_zero hl]
    exact hs

theorem landed (hs : (s.tile n).Stopped h rest) (l effId : Nat) : ((s.landed l effId).tile n).Stopped h rest :=
  hs.setTile fun hl => ⟨hl.reason, hl.halt, hl.released, hl.held, hl.refusals⟩

theorem remoteDone (hs : (s.tile n).Stopped h rest) (tag : Nat) : ((s.remoteDone tag).tile n).Stopped h rest := by
  unfold State.remoteDone
  split
  · exact landed (of_tiles hs rfl) _ _
  · exact hs

theorem noRoute (hs : (s.tile n).Stopped h rest) (p : Packet) : ((s.noRoute p).tile n).Stopped h rest := by
  unfold State.noRoute
  split_ifs
  · exact hs
  · exact hs.remoteDone _
  · exact hs

theorem passWait (hs : (s.tile n).Stopped h rest) : (s.passWait.tile n).Stopped h rest := by
  refine List.foldlRecOn (motive := fun acc : State => (acc.tile n).Stopped h rest) _ _ (of_tiles hs rfl) fun acc hacc p _ => ?_
  dsimp only
  split
  · exact hacc
  · split
    · exact hacc.noRoute p
    · exact hacc
    · split
      · exact hacc
      · exact of_tiles hacc (State.queueOn_tiles ..)

theorem drainWait (hs : (s.tile n).Stopped h rest) : (s.drainWait.tile n).Stopped h rest := hs.passWait.passWait

theorem linkDown (hs : (s.tile n).Stopped h rest) (l st phase fail : Nat) : ((s.linkDown l st phase fail).tile n).Stopped h rest := by
  simp only [State.linkDown]
  split
  · exact hs
  · split
    · exact drainWait (of_tiles hs (State.queueOn_tiles ..))
    · exact drainWait (of_tiles hs rfl)

theorem releaseWaiter (hs : (s.tile n).Stopped h rest) (sem : Nat) (w : Waiter) (c : Int) :
    ((s.releaseWaiter sem w c).tile n).Stopped h rest := by
  have htest := of_tiles hs (s.acquireTest_tiles sem w.scope (partyId 0 w.tile))
  exact setTile htest fun hl => ⟨hl.reason, hl.halt, hl.released, hl.held, hl.refusals⟩

theorem serveQueue (hs : (s.tile n).Stopped h rest) (sem : Nat) (ws : List Waiter) : ((s.serveQueue sem ws).tile n).Stopped h rest := by
  induction ws generalizing s with
  | nil => exact hs
  | cons w ws ih =>
    rw [State.serveQueue]
    split
    · refine ih (releaseWaiter ?_ _ _ _)
      exact of_tiles hs rfl
    · exact hs

theorem evalSem (hs : (s.tile n).Stopped h rest) (sem : Nat) : ((s.evalSem sem).tile n).Stopped h rest := by
  refine serveQueue (of_tiles ?_ (State.fireNtfs_tiles ..)) _ _
  exact List.foldlRecOn (motive := fun acc : State => (acc.tile n).Stopped h rest) _ _ (of_tiles hs rfl)
    fun acc hacc w _ => hacc.releaseWaiter _ _ _

theorem withdrawTile (hs : (s.tile n).Stopped h rest) (l : Nat) : ((s.withdrawTile l).tile n).Stopped h rest := by
  refine List.foldlRecOn (motive := fun acc : State => (acc.tile n).Stopped h rest) _ _ ?_ fun acc hacc w _ => ?_
  · exact setTile (of_tiles hs rfl) fun hl => ⟨hl.reason, hl.halt, hl.released, hl.held, hl.refusals⟩
  · split
    · refine evalSem ?_ _
      exact of_tiles hacc rfl
    · exact hacc

theorem closeTurnstile (hs : (s.tile n).Stopped h rest) (l : Nat) : ((s.closeTurnstile l).tile n).Stopped h rest := by
  refine withdrawTile (hs.setTile fun hl => ?_) l
  exact ⟨hl.reason, hl.withoutOpen.halt, rfl, List.forall_mem_nil _, hl.withoutOpen.refusals⟩

theorem loseShare (hs : (s.tile n).Stopped h rest) (k : Nat) (d : DrainRun) : ((s.loseShare k d).tile n).Stopped h rest := by
  simp only [State.loseShare]
  split
  · refine hs.setTile fun hl => remoteWrite ?_ _ _ _ _
    exact ⟨hl.reason, hl.halt, hl.released, hl.held, hl.refusals⟩
  · exact hs
  · exact hs

/-- A fence of whichever unit leaves a halted tile halted: of the tiles it closes turnstiles, delivers notices and poisons bytes alone. -/
theorem fenceInside (hs : (s.tile n).Stopped h rest) (u : Nat) : ((s.fenceInside u).tile n).Stopped h rest := by
  simp only [State.fenceInside]
  split -- by the class of the unit (R24): 0 a tile, 1 a bank engine, 5 a link, 8 a steward
  case h_1 =>
    split
    · exact hs.closeTurnstile _
    · exact hs
  case h_2 =>
    exact List.foldlRecOn (motive := fun acc : State => (acc.tile n).Stopped h rest) _ _ (of_tiles hs rfl) fun acc hacc d _ => hacc.loseShare _ d
  case h_3 => split <;> exact hs
  case h_4 =>
    split
    · split <;> exact hs
    · exact hs
  case h_5 => exact hs
  case h_6 => exact hs.linkDown _ _ _ _
  case h_7 => split <;> exact hs
  case h_8 => split <;> exact hs
  case h_9 => exact hs.of_tiles (s.holdSteward_tiles _)
  case h_10 => exact hs

theorem fence (hs : (s.tile n).Stopped h rest) (u : Nat) (mismatch : Bool) : ((s.fence u mismatch).tile n).Stopped h rest := by
  have hin (x : UstEntry) := fenceInside (of_tiles (s' := (s.allow u 4).setUnit u x) hs (by simp)) u
  exact of_tiles (hin _) (State.trace_tiles ..)

theorem statusTile (hs : (s.tile n).Stopped h rest) (l rep kind : Nat) : ((s.statusTile l rep kind).tile n).Stopped h rest := by
  simp only [State.statusTile, State.statusReport, State.checkUnit]
  split
  · next u _ =>
    have hreport := of_tiles hs (s.report_tiles u rep kind)
    split
    · exact hreport.fence u true
    · exact hreport
  · exact hs

end Tile.Stopped

/-- A deferred halt stops its tile for good, even where the report of the halt has the tile fenced. -/
theorem State.recordDeferred_stopped {s : State} {n : Nat} {h : HaltRec} {rest : List HaltRec} (hreason : h.reason ≠ 0)
    (hq : (s.tile n).refusals = h :: rest) : ((s.recordDeferred n h).tile n).Stopped h rest := by
  refine Tile.Stopped.of_tiles (Tile.Stopped.statusTile (Tile.Stopped.of_tiles ?_ (State.traceHalt_tiles _ n h)) n 3 2) (State.requestTeardown_tiles ..)
  have hstopped (t : Tile) (ht : t.Stopped h rest) : ((s.setTile n t).tile n).Stopped h rest := by
    rw [State.tile_setTile ht.ne_zero]
    exact ht
  exact hstopped _ ⟨hreason, rfl, rfl, List.forall_mem_map.mpr fun w _ => rfl, by simp [hq]⟩

end Sys2Proof.Machine
end

section
/-! What halts a tile and what arrives at it, and what O15 says of them. -/

namespace Sys2Proof.Machine

theorem Tile.conservative_of_mode {t : Tile} (h : t.mode = .conservative) : t.conservative = true := by
  rw [Tile.conservative, h]
  rfl

section Halts
variable {s : State} {k : TileAt}

/-! ### Halts (R100, R107) -/

section Stuck
variable (hruns : (reachedTile s k).runs = true) (hmode : (reachedTile s k).mode = .conservative) (hA : (reachedTile s k).stuck .A = true)
  (hE : (reachedTile s k).stuck .E = true) (hfed : (reachedTile s k).fed = false) (hmoving : (reachedTile s k).moving = false)
include hruns hmode hA hE hfed hmoving

theorem exec_replayDeadlock_of_waiting_A {q p : Nat} (hwait : (reachedTile s k).waitOf .A = some (q, p)) :
    exec (.replayDeadlock k) s = .next (((s.reach k).setTile k.tile ((reachedTile s k).haltHere
      { reason := 0x60#8, streamE := false, pc := BitVec.ofNat 23 p, detail := BitVec.ofNat 32 q })).settleTile k.tile) := by
  change execReplayDeadlock k s = _
  simp only [execReplayDeadlock, hruns, Tile.conservative_of_mode hmode, hA, hE, hfed, hmoving, hwait, Bool.not_false, Bool.and_self, if_true]

theorem exec_replayDeadlock_of_waiting_E {q p : Nat} (hnone : (reachedTile s k).waitOf .A = none)
    (hwait : (reachedTile s k).waitOf .E = some (q, p)) :
    exec (.replayDeadlock k) s = .next (((s.reach k).setTile k.tile ((reachedTile s k).haltHere
      { reason := 0x60#8, streamE := true, pc := BitVec.ofNat 23 p, detail := BitVec.ofNat 32 q })).settleTile k.tile) := by
  change execReplayDeadlock k s = _
  simp only [execReplayDeadlock, hruns, Tile.conservative_of_mode hmode, hA, hE, hfed, hmoving, hnone, hwait, Bool.not_false, Bool.and_self,
    if_true]

end Stuck

theorem exec_deferredHalt_of_first {h : HaltRec} {rest : List HaltRec} (hq : (reachedTile s k).refusals = h :: rest)
    (hfree : (reachedTile s k).halt.reason = 0#8) : exec (.deferredHalt k) s = .next ((s.reach k).recordDeferred k.tile h) := by
  change execDeferredHalt k s = _
  simp only [execDeferredHalt, hq, hfree, ne_eq, not_true_eq_false, if_false]

end Halts

/-! ### Remote writes (R96, R304) -/

/-- The module after message `i` of a tile's port was written into its scratchpad and counted. -/
def State.takeGranule (s : State) (n i : Nat) (m : InMsg) : State :=
  let x := s.tile n
  let s1 := s.setTile n { x.remoteWrite m.addr m.bs m.mask m.poison with inbox := listDrop x.inbox i }
  match m.acid with
  | some ac => s1.arrive n ac m.bs.length
  | none => s1

section Arrivals
variable {s : State} {k : TileAt} {i : Nat} (hawake : (reachedTile s k).sleep = .awake)
include hawake

section Granule
variable {m : InMsg} (hm : (reachedTile s k).inbox[i]? = some m)
  (hfirst : ∀ e ∈ (reachedTile s k).inbox.take i, ¬ (e.addr / 64 = m.addr / 64 ∧ e.tile = m.tile))
include hm hfirst

/-- A granule that no earlier one of its sender precedes is taken; its sender learns of it, another module with its last granule. -/
theorem exec_remoteWriteArrive_of_first : exec (.remoteWriteArrive k i) s = .next (
    let t := (s.reach k).takeGranule k.tile i m
    if m.tile = peerSender then
      if (t.tile k.tile).inbox.any fun e => decide (e.tile = peerSender) && decide (e.effId = m.effId) then t
      else t.sendPacket (t.reply 3 (m.effId / 2 ^ 20) (m.effId % 2 ^ 20) 0)
    else t.landed m.tile m.effId) := by
  have hearlier : (((reachedTile s k).inbox.take i).any fun e => decide (e.addr / 64 = m.addr / 64) && decide (e.tile = m.tile) &&
      (decide (m.tile ≠ peerSender) || decide (e.effId / 2 ^ 20 = m.effId / 2 ^ 20))) = false := by
    refine List.any_eq_false.mpr fun e he hsame => ?_
    simp only [Bool.and_eq_true, decide_eq_true_eq] at hsame
    exact hfirst e he hsame.1
  change execRemoteWriteArrive k i s = _
  simp only [execRemoteWriteArrive, hm, hearlier, hawake, Bool.false_eq_true, ne_eq, not_true_eq_false, if_false]
  rfl

theorem exec_remoteWriteArrive_of_module (hown : m.tile ≠ peerSender) :
    exec (.remoteWriteArrive k i) s = .next (((s.reach k).takeGranule k.tile i m).landed m.tile m.effId) := by
  simp only [exec_remoteWriteArrive_of_first hawake hm hfirst, hown, if_false]

theorem exec_remoteWriteArrive_of_peer (hpeer : m.tile = peerSender)
    (hlast : ∀ e ∈ (((s.reach k).takeGranule k.tile i m).tile k.tile).inbox, ¬ (e.tile = peerSender ∧ e.effId = m.effId)) :
    exec (.remoteWriteArrive k i) s = .next (((s.reach k).takeGranule k.tile i m).sendPacket
      (((s.reach k).takeGranule k.tile i m).reply 3 (m.effId / 2 ^ 20) (m.effId % 2 ^ 20) 0)) := by
  have hnone : ((((s.reach k).takeGranule k.tile i m).tile k.tile).inbox.any fun e =>
      decide (e.tile = peerSender) && decide (e.effId = m.effId)) = false := by
    refine List.any_eq_false.mpr fun e he hsame => hlast e he ?_
    simpa only [Bool.and_eq_true, decide_eq_true_eq] using hsame
  simp only [exec_remoteWriteArrive_of_first hawake hm hfirst, hpeer, hnone, Bool.false_eq_true, if_false, if_true]

end Granule

/-! ### Threshold signals, notices and fences (R297, R306, R316) -/

theorem exec_sigTArrive_of_room {h : ThrSig} (hport : (reachedTile s k).thrPort[i]? = some h) (hroom : (reachedTile s k).thr.length < 16) :
    exec (.sigTArrive k i) s = .next (((s.reach k).setTile k.tile { reachedTile s k with
      thrPort := listDrop (reachedTile s k).thrPort i, thr := (reachedTile s k).thr ++ [h] }).passThresholds k.tile) := by
  change execSigTArrive k i s = _
  simp only [execSigTArrive, hport, Nat.not_le.mpr hroom, hawake, ne_eq, not_true_eq_false, if_false]

theorem exec_releaseNotice_of_awake {st : Stream} {scope sem : Nat} {c : Int} {rest : List (Stream × Nat × Nat × Int)}
    (hnotice : (reachedTile s k).notices = (st, scope, sem, c) :: rest) :
    exec (.releaseNotice k) s = .next ((s.reach k).setTile k.tile
      (if 1 ≤ scope then (({ reachedTile s k with notices := rest } : Tile).resumeWait st).clearCache
        else ({ reachedTile s k with notices := rest } : Tile).resumeWait st)) := by
  change execReleaseNotice k s = _
  simp only [execReleaseNotice, hnotice, hawake, ne_eq, not_true_eq_false, if_false]

end Arrivals

theorem exec_fenceComplete_of_holding {s : State} {k : TileAt} {f : FenceRec} {rest : List FenceRec}
    (hfences : (reachedTile s k).fences = f :: rest) (hholds : (reachedTile s k).fenceHolds f = true) :
    exec (.fenceComplete k) s = .next ((s.reach k).setTile k.tile
      (if 1 ≤ f.scope then ({ (reachedTile s k).acknowledge with fences := rest } : Tile).clearCache
        else { (reachedTile s k).acknowledge with fences := rest })) := by
  change execFenceComplete k s = _
  simp only [execFenceComplete, hfences, takeFirst, hholds, if_true]

/-- Settles O15: the halts, the deferred one with the tile that it leaves, then what arrives. -/
theorem tilesHaltAndTakeWhatArrives : Obligations.TilesHaltAndTakeWhatArrives := by
  unfold Obligations.TilesHaltAndTakeWhatArrives
  refine ⟨fun s k => ⟨?_, ?_, ?_⟩, fun s k i hawake => ⟨?_, ?_, ?_, ?_⟩⟩
  · intro q p hruns hmode hA hE hwait hfed hmoving
    exact exec_replayDeadlock_of_waiting_A hruns hmode hA hE hfed hmoving hwait
  · intro q p hruns hmode hA hE hnone hwait hfed hmoving
    exact exec_replayDeadlock_of_waiting_E hruns hmode hA hE hfed hmoving hnone hwait
  · intro h rest hq hfree hreason
    have hstopped := State.recordDeferred_stopped hreason hq
    exact ⟨_, exec_deferredHalt_of_first hq hfree, rfl, hstopped.halt, hstopped.released, hstopped.heldEffects, hstopped.refusals⟩
  · intro m hm hfirst
    exact ⟨exec_remoteWriteArrive_of_module hawake hm hfirst, exec_remoteWriteArrive_of_peer hawake hm hfirst⟩
  · intro h hport hroom
    exact exec_sigTArrive_of_room hawake hport hroom
  · intro st scope sem c rest hnotice
    exact exec_releaseNotice_of_awake hawake hnotice
  · intro f rest hfences hholds
    exact exec_fenceComplete_of_holding hfences hholds

end Sys2Proof.Machine
end

section
/-! What the lanes of a vector operation become, and what O11 says of them. -/

namespace Sys2Proof.Machine

/-! ### Saturation, and the smaller and larger of two lanes (R133) -/

theorem clampInt_eq_max_min {lo hi : Int} (h : lo ≤ hi) (x : Int) : clampInt lo hi x = max lo (min hi x) := by
  unfold clampInt
  split
  · omega
  · split <;> omega

theorem toInt_satS32 (i : Int) : (satS32 i).toInt = max (-2147483648) (min 2147483647 i) := by
  rw [satS32, clampInt_eq_max_min (by decide), BitVec.toInt_ofInt, Int.bmod_eq_of_le (by omega) (by omega)]
  rfl

theorem toNat_satU32 (n : Nat) : (satU32 n).toNat = min 4294967295 n := by
  rw [satU32, clampInt_eq_max_min (by decide), BitVec.toNat_ofInt]
  omega

section Order
variable (md i : Nat) (curve : SMap Memory) (a b c : Lane)

theorem toInt_laneOp_imin : (laneOp .imin md curve i a b c).toInt = min a.toInt b.toInt := by
  simp only [laneOp, BitVec.slt_iff_toInt_lt]
  split <;> omega

theorem toInt_laneOp_imax : (laneOp .imax md curve i a b c).toInt = max a.toInt b.toInt := by
  simp only [laneOp, BitVec.slt_iff_toInt_lt]
  split <;> omega

theorem toNat_laneOp_uminI : (laneOp .uminI md curve i a b c).toNat = min a.toNat b.toNat := by
  simp only [laneOp, BitVec.ult_iff_toNat_lt]
  split <;> omega

theorem toNat_laneOp_umaxI : (laneOp .umaxI md curve i a b c).toNat = max a.toNat b.toNat := by
  simp only [laneOp, BitVec.ult_iff_toNat_lt]
  split <;> omega

end Order

/-! ### Operands that are at hand in the first busy cycle (R132, R612) -/

/-- The selectors that name neither a queue nor a stream. -/
def Sel.atHand : Sel → Bool
  | .queue _ => false
  | .stream => false
  | _ => true

theorem Sel.atHand_of_register {x : Sel} (h : ∃ k, x = .vreg k ∨ x = .sreg k) : x.atHand = true := by
  obtain ⟨k, rfl | rfl⟩ := h <;> rfl

theorem Sel.atHand_getD {l : List Sel} (h : ∀ x ∈ l, x.atHand = true) (j : Nat) : (l.getD j .bad).atHand = true := by
  rw [List.getD_eq_getElem?_getD]
  cases hx : l[j]? with
  | none => rfl
  | some x => exact h x (List.mem_of_getElem? hx)

theorem selPops_of_atHand {l : List Sel} (h : ∀ x ∈ l, x.atHand = true) : selPops l = [] := by
  refine (congrArg List.eraseDups (List.filterMap_eq_nil_iff.mpr fun x hx => ?_)).trans List.eraseDups_nil
  have hx := h x hx
  cases x with
  | queue q => cases hx
  | _ => rfl

theorem delivered_first_of_atHand {x : Sel} (h : x.atHand = true) (w : Nat) : delivered x w 0 = 256 := by
  cases x with
  | queue q => cases h
  | stream => cases h
  | _ => rfl

/-- With every source at hand, the first busy cycle has all of up to 256 elements to work on. -/
theorem available_first_of_atHand {l : List Sel} (h : ∀ x ∈ l, x.atHand = true) {cnt : Nat} (hcnt : cnt ≤ 256) (op : VOp) (d : Desc)
    (idx : List Nat) : idx.foldl (fun m k => min m (delivered (l.getD k .bad) (operandWidth op false (l.getD k .bad) d) 0)) cnt = cnt := by
  refine List.foldl_fixed' (fun k => ?_) idx
  rw [delivered_first_of_atHand (Sel.atHand_getD h k), Nat.min_eq_left hcnt]

theorem TileCore.countOob_nil (c : TileCore) (write : Bool) (st : Stream) (h : Nat) : c.countOob write st h [] = c := rfl

/-! ### Lists -/

/-- A fold that appends the entries of a list one by one collects the list. -/
theorem foldl_range_copy {α γ : Type} {f : List α × γ → Nat → List α × γ} {l : List α} {d : α}
    (h : ∀ acc k, f acc k = (acc.1 ++ [l.getD k d], acc.2)) (c : γ) : (List.range l.length).foldl f ([], c) = (l, c) := by
  have collected (n : Nat) : (List.range n).foldl f ([], c) = ((List.range n).map fun k => l.getD k d, c) := by
    induction n with
    | zero => rfl
    | succ n ih => rw [List.range_succ, List.foldl_append, ih, List.map_append]; exact h _ n
  rw [collected]
  exact congrArg (·, c) (List.ext_getElem (by simp) (by simp +contextual))

theorem filter_lt_range {n m : Nat} (h : n ≤ m) : ((List.range m).filter fun k => decide (k < n)) = List.range n := by
  rw [← List.Ico.zero_bot, List.Ico.filter_lt, Nat.min_eq_right h, List.Ico.zero_bot]

/-! ### The one busy cycle of an operation over registers (R132, R133, R612) -/

theorem groupRegs_of_one {r n : Nat} (h1 : 1 ≤ n) (h2 : n ≤ 256) : groupRegs r n = [r] := by
  have hone : cdiv n 256 = 1 := by unfold cdiv; omega
  simp [groupRegs, hone]

/-- The elements of a vector operation over operands at hand, each with its poison flag. -/
def vectorLanes (op : VOp) (v : VSlot) (curve : SMap Memory) (srcs : List (List (Lane × Bool))) : List (Lane × Bool) :=
  let src (j e : Nat) := srcLane ((vSources op v).getD j .bad) (srcs.getD j []) e
  (List.range v.count.toNat).map fun e =>
    (laneOp op v.md.toNat curve e (src 0 e).1 (src 1 e).1 (src 2 e).1, (List.range (vSources op v).length).any fun j => (src j e).2)

/-- The tile with the first `cnt` of an operation's elements on their way to a register, poisoned where one of them is. -/
def Tile.writeLanes (t : Tile) (a : Act) (key due cnt : Nat) (l : List (Lane × Bool)) : Tile :=
  t.write key due a.win a.seq ((List.range cnt).any fun k => (l.getD k (0#32, false)).2)
    (.lanes ((List.range cnt).map fun k => (k, (l.getD k (0#32, false)).1)))

section Cycle
variable {n : Nat} {out : Reader} {io : CycleIO} {a : Act} {op : VOp} {v : VSlot} {desc : List Byte} {srcs : List (List (Lane × Bool))}
  (hstart : io.tile.cycle = a.start)
include hstart

theorem stepAct_vector {outs : List (Lane × Bool)} (hkind : a.kind = .vector op v desc srcs outs) :
    stepAct n out io a = vectorCycle n out io a op v desc srcs outs := by
  simp only [stepAct, hkind, hstart, Nat.lt_irrefl, if_false]

/-- No queue is popped and no stream read, so that the sources stay as they were read at issue; all elements are at hand, and the
group of the destination is one register. -/
theorem vectorCycle_of_atHand {r : Nat} (hred : op.reduces = false) (hdst : selOf v.dst = .vreg r) (h1 : 1 ≤ v.count.toNat)
    (h2 : v.count.toNat ≤ 256) (hsrc : ∀ x ∈ vSources op v, x.atHand = true) (hlen : srcs.length = (vSources op v).length) :
    vectorCycle n out io a op v desc srcs [] =
      ({ io with tile := io.tile.writeLanes a (96 + r) (a.start + op.lat) v.count.toNat (vectorLanes op v io.tile.curve srcs) }, none) := by
  have hnow : io.tile.cycle - a.start = 0 := by omega
  have hdelivered (w : Nat) : delivered (.vreg r) w 0 = 256 := rfl
  have hsome : (List.range v.count.toNat).isEmpty = false := List.isEmpty_eq_false_iff.mpr (List.range_eq_nil.not.mpr (by omega))
  simp only [vectorCycle, hnow, hred, hdst, selPops_of_atHand hsrc, List.foldl_nil, groupRegs_of_one h1 h2, hdelivered,
    available_first_of_atHand hsrc h2, Nat.min_eq_left h2]
  rw [← hlen, foldl_range_copy (d := []) ?sources]
  case sources =>
    intro acc k
    have hk := Sel.atHand_getD hsrc k
    cases hx : (vSources op v).getD k .bad with
    | queue q => rw [hx] at hk; cases hk
    | stream => rw [hx] at hk; cases hk
    | _ => rfl
  simp only [TileCore.countOob_nil, List.nil_append, List.foldl_cons, List.foldl_nil, List.length_nil, Nat.sub_self, Nat.zero_mul, Nat.zero_add,
    Nat.add_zero, Nat.sub_zero, Nat.zero_le, decide_true, Bool.true_and, filter_lt_range h2, hsome, Bool.false_eq_true, if_false, if_true,
    Tile.writeLanes, vectorLanes, ← hlen]

end Cycle

/-- Settles O11, by the order and the saturation of the table's lanes and by the one busy cycle of an operation over registers. -/
theorem integerLanesFollowTheTable : Obligations.IntegerLanesFollowTheTable := by
  unfold Obligations.IntegerLanesFollowTheTable
  refine ⟨fun md i curve a b c => ⟨rfl, rfl, rfl, rfl, rfl, rfl, rfl, rfl, rfl, rfl, rfl, rfl, rfl, rfl, ?_, ?_, ?_, ?_, ?_, ?_, ?_⟩, ?_⟩
  · exact toInt_laneOp_imin md i curve a b c
  · exact toInt_laneOp_imax md i curve a b c
  · exact toNat_laneOp_uminI md i curve a b c
  · exact toNat_laneOp_umaxI md i curve a b c
  · exact toInt_satS32 (a.toInt + b.toInt)
  · exact toInt_satS32 (a.toInt - b.toInt)
  · exact toNat_satU32 (a.toNat + b.toNat)
  · intro n out io a op v desc srcs r cnt src lanes written hkind hstart hred hdst h1 h2 hregs hlen
    rw [stepAct_vector hstart hkind]
    exact vectorCycle_of_atHand hstart hred hdst h1 h2 (fun x hx => Sel.atHand_of_register (hregs x hx)) hlen

end Sys2Proof.Machine
end

section
/-! The atomics of a region, and what O17 says of them. -/

namespace Sys2Proof.Machine

/-! ### A dispatched record in its turn (R294, R324) -/

/-- A dispatched record that no earlier one to its granule precedes, its port open: it is performed unless a write that its tile released
before it to the same granule is still on its way. -/
theorem exec_atomicPerform_of_first {s : State} {g : Fin 8} {i : Nat} {a : AtomRec} (ha : (s.region g.val).atoms[i]? = some a)
    (hfirst : ∀ b ∈ (s.region g.val).atoms.take i, b.addr / 64 ≠ a.addr / 64) (hopen : s.portOpen a.addr = true) :
    exec (.atomicPerform g i) s = .next (
      if s.writeAhead a = true then s
      else (s.setRegion g.val { s.region g.val with atoms := listDrop (s.region g.val).atoms i }).performAtom a) := by
  have hnone : (((s.region g.val).atoms.take i).any fun b => decide (b.addr / 64 = a.addr / 64)) = false :=
    List.any_eq_false.mpr fun b hb hsame => hfirst b hb (of_decide_eq_true hsame)
  change execAtomicPerform g i s = _
  simp only [execAtomicPerform, ha, hnone, hopen, Bool.false_or, Bool.not_true, Bool.false_eq_true, if_false]

/-- What R294 says of O17's clause: its outcome, where no write that the same tile released earlier is on its way to the granule. -/
theorem exec_atomicPerform_of_turn {s : State} {g : Fin 8} {i : Nat} {a : AtomRec} (ha : (s.region g.val).atoms[i]? = some a)
    (hfirst : ∀ b ∈ (s.region g.val).atoms.take i, b.addr / 64 ≠ a.addr / 64) (hopen : s.portOpen a.addr = true)
    (hturn : s.writeAhead a = false) :
    let s1 := s.setRegion g.val { s.region g.val with atoms := listDrop (s.region g.val).atoms i }
    let w := atomBytes a.width
    let cells := (List.range w).map fun j => s1.outside (a.addr + j)
    let old := ofBytes (cells.map (·.1))
    exec (.atomicPerform g i) s = .next ((s1.performPiece a.addr (toBytes w (atomValue a.op a.width old a.operand.toNat)) 0xFF#8 false).atomReturn
      a old (cells.any (·.2))) := by
  intro s1 w cells old
  rw [exec_atomicPerform_of_first ha hfirst hopen, hturn, if_neg Bool.false_ne_true]
  rfl

/-! ### A performed record is counted (R332) -/

theorem satInc_ne_zero (x : BitVec 32) : satInc x ≠ 0 := by
  unfold satInc
  split
  · next hx => subst hx; decide
  · next hx =>
    intro hzero
    exact hx ((eq_neg_of_add_eq_zero_left hzero).trans BitVec.neg_one_eq_allOnes)

/-- An atomic is counted in the region of the tile that sent it, whatever else its return does. -/
theorem State.atomReturn_atomDone (s : State) (a : AtomRec) (old : Nat) (poison : Bool) :
    ((s.atomReturn a old poison).region (tileRegion a.tile)).atomDone = satInc (s.region (tileRegion a.tile)).atomDone := by
  have hcounted : ({ s.region (tileRegion a.tile) with atomDone := satInc (s.region (tileRegion a.tile)).atomDone } : Region) ≠ Region.zero :=
    fun hzero => satInc_ne_zero _ (congrArg Region.atomDone hzero)
  unfold State.atomReturn
  split <;> exact congrArg Region.atomDone (mget_mput_ne hcounted _)

/-! ### An atomic behind a write of its own tile -/

/-- The atomic that tile 1 sends to the first granule of tile 0's scratchpad: one is added to the word there. -/
def addToTileZero : AtomRec :=
  { tile := 1, addr := 2 * 2 ^ 52, op := 1, width := 1, ret := false, operand := 1, raddr := 0, racid := 0, effId := 1 }

/-- Tile 1 has released a write to a granule of tile 0, which runs, and then an atomic to the same granule; neither has arrived. -/
def atomicBehindWrite : State :=
  (State.reset.setTile 0 { Tile.zero with
    sleep := .awake, inbox := [{ addr := 0, bs := [7#8], mask := 0xFF#8, poison := false, acid := none, tile := 1, effId := 0 }] }).setRegion 0
    { Region.zero with atoms := [addToTileZero] }

/-- Refutes O17: ATOMIC_PERFORM also holds a record back behind the earlier writes of its own tile to its granule (R294), which the
statement does not name. Tile 1's write to tile 0 has not arrived, so its atomic to that granule stays where it is and RGN_ATOM_CNT.DONE
stays 0, where the statement has it performed and counted. What holds of the clause is `exec_atomicPerform_of_turn`. -/
theorem not_copyAndAtomicCommands : ¬ Obligations.CopyAndAtomicCommands := by
  unfold Obligations.CopyAndAtomicCommands
  rintro ⟨-, -, hperform, -⟩
  have ha : (atomicBehindWrite.region (0 : Fin 8).val).atoms[0]? = some addToTileZero := by decide +kernel
  have hfirst : ∀ b ∈ (atomicBehindWrite.region (0 : Fin 8).val).atoms.take 0, b.addr / 64 ≠ addToTileZero.addr / 64 :=
    List.forall_mem_nil _
  have hopen : atomicBehindWrite.portOpen addToTileZero.addr = true := by decide +kernel
  have hahead : atomicBehindWrite.writeAhead addToTileZero = true := by decide +kernel
  have hstays : exec (.atomicPerform 0 0) atomicBehindWrite = .next atomicBehindWrite := by
    rw [exec_atomicPerform_of_first ha hfirst hopen, if_pos hahead]
  have hdone := Host.Outcome.next.inj (hstays.symm.trans (hperform atomicBehindWrite 0 0 addToTileZero ha hfirst hopen))
  have hcounted := congrArg (fun s : State => (s.region (tileRegion addToTileZero.tile)).atomDone) hdone
  exact satInc_ne_zero _ ((hcounted.trans (State.atomReturn_atomDone ..)).symm.trans (by decide +kernel))

end Sys2Proof.Machine
end

section
/-! The rows of a running programme, and what O19 says of them. -/

namespace Sys2Proof.Machine

/-- The stack of an event, whose clock has reached it. -/
abbrev reachedStack (s : State) (k : StkAt) : Stack := (s.reachStk k).stack k.stack

section Rows
variable {s : State} {k : StkAt} {op : Nat} {x : RowCtx}

/-- A row that has its turn: its wait alone where it acts on nothing, else its effect unless a sleeping engine, a refresh, an occupied part or
a busy engine keeps it (R193, R198, R201, R206). -/
theorem State.issueRow_of_turn (h : RowTurn (s.reachStk k) k.stack op x) (effect : State → RowCtx → State) :
    s.issueRow k op effect =
      if x.waitOnly then ((s.reachStk k).useFetched x).advanceRow k.stack
      else if !(s.reachStk k).enginesAwake x then (s.reachStk k).wakeEngines k.stack x.targets
      else if x.refreshFirst || !(s.reachStk k).partsFree x then s.reachStk k
      else if (s.reachStk k).refuses x then (s.reachStk k).refuseRow x
      else (((effect (s.reachStk k) x).noteOp x).useFetched x).advanceRow k.stack := by
  obtain ⟨⟨p, hprg, hended, rfl⟩, ⟨hrefused, hpre, hup⟩, hcode, hlegal, hdue⟩ := h
  simp only [State.issueRow, hprg, hended, hrefused, hpre, hup, hcode, hlegal, hdue, Option.isSome_none, Bool.not_true, Bool.or_self,
    Bool.false_or, ne_eq, not_true_eq_false, decide_false, Bool.false_and, Bool.false_eq_true, if_false, if_true]

/-- A command that issues the row of an opcode gives that row its effect where it can issue, and the sequencer moves on. -/
theorem exec_row_of_ok {c : Instr} {effect : State → RowCtx → State} (hc : exec c s = .next (s.issueRow k op effect))
    (h : RowOk (s.reachStk k) k.stack op x) :
    exec c s = .next ((((effect (s.reachStk k) x).noteOp x).useFetched x).advanceRow k.stack) := by
  obtain ⟨hturn, hacts, hawake, hfirst, hfree, hidle⟩ := h
  simp only [hc, State.issueRow_of_turn hturn, hacts, hawake, hfirst, hfree, hidle, Bool.not_true, Bool.or_self, Bool.false_eq_true, if_false]

/-- A row that acts on nothing has only its wait, whatever its effect would be. -/
theorem exec_row_of_waitOnly {c : Instr} {effect : State → RowCtx → State} (hc : exec c s = .next (s.issueRow k op effect))
    (h : RowTurn (s.reachStk k) k.stack op x) (hwait : x.waitOnly = true) :
    exec c s = .next (((s.reachStk k).useFetched x).advanceRow k.stack) := by
  rw [hc, State.issueRow_of_turn h, if_pos hwait]

/-- The walker takes the tables of one more AWALK row of the running programme, at most four ahead (R272; log entry 33). -/
theorem exec_walkerTableFetch_of_running {p : Programme} (hprg : (reachedStack s k).prg = some p) :
    exec (.walkerTableFetch k) s = .next ((s.reachStk k).setStack k.stack
      { reachedStack s k with prg := some { p with fetched := min 4 (p.fetched + 1) } }) := by
  change execWalkerTableFetch k s = _
  simp only [execWalkerTableFetch, hprg, Option.map_some]

end Rows

/-- Settles O19: each command issues the row of its opcode. -/
theorem programmeRowsTakeEffect : Obligations.ProgrammeRowsTakeEffect := by
  unfold Obligations.ProgrammeRowsTakeEffect
  intro s k x n s1 done waits
  have takesEffect {op : Nat} {c : Instr} (effect : State → RowCtx → State) (hc : exec c s = .next (s.issueRow k op effect)) :
      done op c (effect s1 x) := exec_row_of_ok hc
  have onlyWaits {op : Nat} {c : Instr} (effect : State → RowCtx → State) (hc : exec c s = .next (s.issueRow k op effect)) :
      waits op c := exec_row_of_waitOnly hc
  exact ⟨takesEffect (fun t _ => t) rfl, takesEffect State.rowAct rfl, takesEffect State.rowPre rfl, takesEffect State.rowWake rfl,
    takesEffect State.rowVload rfl, takesEffect State.rowSload rfl, takesEffect State.rowMac rfl, takesEffect State.rowAclr rfl,
    takesEffect State.rowDrain rfl, takesEffect State.rowCmove rfl, takesEffect State.rowAcfg rfl, takesEffect State.rowAwalk rfl,
    takesEffect State.rowSig rfl, takesEffect State.rowLoop rfl, takesEffect State.rowEnd rfl,
    onlyWaits State.rowAct rfl, onlyWaits State.rowPre rfl, onlyWaits State.rowWake rfl, onlyWaits State.rowVload rfl,
    onlyWaits State.rowSload rfl, onlyWaits State.rowMac rfl, onlyWaits State.rowAclr rfl, onlyWaits State.rowDrain rfl,
    onlyWaits State.rowAcfg rfl, onlyWaits State.rowAwalk rfl, fun p => exec_walkerTableFetch_of_running⟩

end Sys2Proof.Machine
end

section
/-! What a record of the trace leaves of the stacks. -/

namespace Sys2Proof.Machine

section Trace
variable (s : State)

@[simp] theorem State.msix_stk (f v : Nat) : (s.msix f v).stk = s.stk := by
  unfold State.msix
  split_ifs <;> rfl

@[simp] theorem State.hostError_stk (f bit code detail : Nat) (job : Bool) : (s.hostError f bit code detail job).stk = s.stk := by
  simp only [State.hostError]
  split
  · rfl
  · rw [State.msix_stk, State.setFn_stk]

/-- A write to host memory that performs no effect of a tile. -/
@[simp] theorem State.hostWrite_stk (f a : Nat) (bs : List Byte) (ep : Bool) : (s.hostWrite f a bs ep none).stk = s.stk := by
  simp only [State.hostWrite, State.refuseHost, Option.map_none]
  split
  · rw [State.hostError_stk]
  · split <;> rfl

@[simp] theorem State.unitCycle_stk (u : Nat) : (s.unitCycle u).2.stk = s.stk := by
  unfold State.unitCycle
  split <;> rfl

@[simp] theorem State.trace_stk (u kind data : Nat) : (s.trace u kind data).stk = s.stk := by
  simp only [State.trace]
  split
  · rfl
  · split
    · rfl
    · rw [State.hostWrite_stk, State.unitCycle_stk]

@[simp] theorem State.cmdEnd_stack (u tag n : Nat) : (s.cmdEnd u tag).stack n = s.stack n :=
  congrArg (mget Stack.zero · n) (s.trace_stk u 5 _)

end Trace

end Sys2Proof.Machine
end

section
/-! The commands and memories of a stack controller and the ends of its programmes, and what O18 says of them. -/

namespace Sys2Proof.Machine

/-! ### Start commands and apertures (R189 to R191, R211) -/

section Commands
variable {s : State} {k : StkAt}

/-- A start command that no earlier aperture store of its tile precedes, with room in the queue. -/
theorem exec_startCmdAccept_of_room {x : StartCmd} {rest : List StartCmd} (hport : (reachedStack s k).startPort = x :: rest)
    (hroom : (reachedStack s k).startQ.length < 16)
    (hfirst : ∀ a ∈ (reachedStack s k).aperPort, a.1 = x.tile → x.effId ≤ a.2.2.2.2) :
    exec (.startCmdAccept k) s = .next (((s.reachStk k).setStack k.stack
      { reachedStack s k with startPort := rest, startQ := (reachedStack s k).startQ ++ [x] }).landed x.tile x.effId) := by
  have hnone : ((reachedStack s k).aperPort.any fun a => a.1 == x.tile && decide (a.2.2.2.2 < x.effId)) = false := by
    simpa only [List.any_eq_false, Bool.and_eq_true, beq_iff_eq, decide_eq_true_eq, not_and, Nat.not_lt] using hfirst
  change execStartCmdAccept k s = _
  simp only [execStartCmdAccept, hport, hnone, Nat.not_le.mpr hroom, decide_false, Bool.or_self, Bool.false_eq_true, if_false]

/-- The programme that a start command begins in a cycle. -/
def StartCmd.begin (x : StartCmd) (now : Nat) : Programme :=
  { cmd := x, row := x.entry, loops := [], lastIssue := now, doneAt := now, ended := false, failedEng := 0, fetched := 0, configured := 0
    walks := [], drains := [] }

theorem exec_prgStart_of_idle {x : StartCmd} {rest : List StartCmd} (hprg : (reachedStack s k).prg = none)
    (hq : (reachedStack s k).startQ = x :: rest) (hkv : (reachedStack s k).kvGo = false) (hup : (s.reachStk k).stackUp k.stack = true) :
    exec (.prgStart k) s = .next (((s.reachStk k).setStack k.stack
      { reachedStack s k with startQ := rest, prg := some (x.begin (reachedStack s k).cycle) }).cmdStart (unitId 4 k.stack) x.tag.toNat) := by
  change execPrgStart k s = _
  simp only [execPrgStart, hprg, hq, hkv, hup, Bool.not_true, Bool.or_self, Bool.false_eq_true, if_false, StartCmd.begin]

/-- The first aperture store of one kind leaves its port and acts on the stack. -/
theorem State.takeAperture_of_next {prgMem : Bool} {a : Nat × Bool × Nat × BitVec 2048 × Nat}
    (ha : (reachedStack s k).nextAperture prgMem = some a) (f : Stack → Nat → List Byte → Stack) :
    s.takeAperture k prgMem f = ((s.reachStk k).setStack k.stack
      (f { reachedStack s k with aperPort := (reachedStack s k).aperPort.filter fun b => decide (b ≠ a) } a.2.2.1
        (toBytes 256 a.2.2.2.1.toNat))).landed a.1 a.2.2.2.2 := by
  simp only [State.takeAperture, ha]

/-! ### A refused row is issued again (R206) -/

/-- The effect of a row that an engine can refuse. -/
def State.rowAgain (s : State) (x : RowCtx) : State :=
  match x.r.op with
  | 0x11 => s.rowSload x
  | 0x12 => s.rowMac x
  | 0x13 => s.rowAclr x
  | 0x14 => s.rowDrain x
  | _ => s

theorem exec_rowReissue_of_free {p : Programme} {m : Nat × BitVec 64} {x : RowCtx} (hrefused : (reachedStack s k).refusedRow = some m)
    (hprg : (reachedStack s k).prg = some p) (hx : x = rowCtx k.stack (reachedStack s k) p ((reachedStack s k).row p.row))
    (hpre : (reachedStack s k).preempt = false) (hidle : (s.reachStk k).refuses x = false) (hfirst : x.refreshFirst = false)
    (hfree : (s.reachStk k).partsFree x = true) :
    exec (.rowReissue k) s = .next (((((s.reachStk k).setStack k.stack { reachedStack s k with refusedRow := none }).rowAgain x).noteOp
      x).advanceRow k.stack) := by
  subst hx
  change execRowReissue k s = _
  simp only [execRowReissue, hrefused, hprg, hpre, hidle, hfirst, hfree, Bool.not_true, Bool.or_self, Bool.false_eq_true, if_false]
  rfl

/-! ### A programme completes (R197; log entry 29) -/

/-- A bank as the end of a programme leaves it. -/
def Bank.close (b : Bank) (now : Nat) : Bank := if b.page.isSome then { b with page := none, preAt := now } else b

theorem Bank.close_page (b : Bank) (now : Nat) : (b.close now).page = none := by
  unfold Bank.close
  split
  · rfl
  · next h => exact Option.not_isSome_iff_eq_none.mp h

/-- The banks of a stack, all closed; those left as nobody has opened them are not listed. -/
def closeBanks (banks : SMap Bank) (now : Nat) : SMap Bank :=
  banks.filterMap fun b => if b.2.close now = Bank.zero then none else some (b.1, b.2.close now)

theorem page_of_mem_closeBanks {banks : SMap Bank} {now : Nat} {b : Nat × Bank} (hb : b ∈ closeBanks banks now) : b.2.page = none := by
  obtain ⟨a, -, ha⟩ := List.mem_filterMap.mp hb
  obtain ⟨-, ha⟩ := Option.ite_none_left_eq_some.mp ha
  rw [← Option.some.inj ha]
  exact Bank.close_page ..

/-- A stack whose programme has completed. -/
def Stack.completed (c : Stack) (p : Programme) : Stack :=
  { c with prg := none, lastTag := p.cmd.tag, prgDone := satInc c.prgDone, banks := closeBanks c.banks c.cycle, preempt := false
           preemptPages := [] }

theorem exec_prgComplete_of_coherent {p : Programme} (hprg : (reachedStack s k).prg = some p) (hended : p.ended = true)
    (hdone : p.doneAt ≤ (reachedStack s k).cycle) (hrefused : (reachedStack s k).refusedRow = none)
    (hdrained : (s.reachStk k).drainsFlying k.stack = false) :
    exec (.prgComplete k) s = .next (((s.reachStk k).setStack k.stack ((reachedStack s k).completed p).beginCopy).cmdEnd
      (unitId 4 k.stack) p.cmd.tag.toNat) := by
  have hends : (p.ended && (decide (p.doneAt ≤ (reachedStack s k).cycle) && !(s.reachStk k).drainsFlying k.stack) &&
      (reachedStack s k).refusedRow.isNone) = true := by
    simp only [hended, hdone, hrefused, hdrained, decide_true, Bool.not_false, Bool.and_self, Option.isNone_none]
  change execPrgComplete k s = _
  simp only [execPrgComplete, hprg, hends, if_true]
  rfl

end Commands

/-- A page copy that begins sets its times and occupies its two data paths. -/
theorem Stack.beginCopy_eq (c : Stack) : ∃ until_ runs paths, c.beginCopy = { c with kvUntil := until_, kvRuns := runs, dpFree := paths } := by
  unfold Stack.beginCopy
  split
  · exact ⟨c.kvUntil, c.kvRuns, c.dpFree, rfl⟩
  · exact ⟨_, _, _, rfl⟩

/-- A counter of any width that has counted is not 0. -/
theorem satInc_ne_zero_of_pos {w : Nat} (hw : 0 < w) (x : BitVec w) : satInc x ≠ 0 := by
  unfold satInc
  split
  · next hx => exact fun hzero => hw.ne' (BitVec.allOnes_eq_zero_iff.mp (hx.symm.trans hzero))
  · next hx => exact fun hzero => hx ((eq_neg_of_add_eq_zero_left hzero).trans BitVec.neg_one_eq_allOnes)

/-- A stack that has counted the end of a programme is not the one of reset. -/
theorem Stack.ne_zero_of_prgDone {c : Stack} {x : Reg64} (h : c.prgDone = satInc x) : c ≠ Stack.zero :=
  fun hzero => satInc_ne_zero_of_pos (by decide) x (h.symm.trans (congrArg Stack.prgDone hzero))

/-- Settles O18, command by command; what a completed programme leaves is what a page copy that begins, and the trace, leave of the stack. -/
theorem programmesStartAndComplete : Obligations.ProgrammesStartAndComplete := by
  unfold Obligations.ProgrammesStartAndComplete
  intro s k n s1 c
  refine ⟨fun x rest => exec_startCmdAccept_of_room, fun x rest => exec_prgStart_of_idle,
    fun a ha => congrArg Host.Outcome.next (State.takeAperture_of_next ha _),
    fun a ha => congrArg Host.Outcome.next (State.takeAperture_of_next ha _), ?reissue, ?complete⟩
  case reissue =>
    intro p m hrefused hprg x again s2 hpre hidle hfirst hfree
    have hagain := exec_rowReissue_of_free hrefused hprg rfl hpre hidle hfirst hfree
    have hissues {op : Nat} {t : State} (ht : x.r.op = op → s2.rowAgain x = t) : again op t := fun hop => by rw [← ht hop]; exact hagain
    exact ⟨hissues fun hop => by simp only [State.rowAgain, hop], hissues fun hop => by simp only [State.rowAgain, hop],
      hissues fun hop => by simp only [State.rowAgain, hop], hissues fun hop => by simp only [State.rowAgain, hop]⟩
  case complete =>
    intro p hprg hended hdone hrefused hdrained
    refine ⟨_, exec_prgComplete_of_coherent hprg hended hdone hrefused hdrained, ?_⟩
    obtain ⟨until_, runs, paths, hcopy⟩ := (c.completed p).beginCopy_eq
    rw [State.cmdEnd_stack, hcopy, State.stack, State.setStack, mget_mput_ne (Stack.ne_zero_of_prgDone rfl)]
    exact ⟨rfl, rfl, rfl, rfl, rfl, fun b hb => page_of_mem_closeBanks hb, rfl⟩

end Sys2Proof.Machine
end

section
/-! Ordinary accesses at a stack controller and the pre-emptions that they cause, and what O21 says of them. -/

namespace Sys2Proof.Machine

/-! ### What holds an access back (R201, R203, R294) -/

theorem earlierSame_eq_false {l : List StkAcc} {x : StkAcc} (h : ∀ z ∈ l, z.addr / 32 ≠ x.addr / 32) : earlierSame l x = false :=
  List.any_eq_false.mpr fun z hz hsame => h z hz (of_decide_eq_true hsame)

@[simp] theorem Stack.behind_nil (c : Stack) (x : StkAcc) : c.behind [] x = false := rfl

/-- The stack once access `i` is no longer on its way to its controller. -/
def Stack.dropInflight (c : Stack) (i : Nat) : Stack := { c with inflight := listDrop c.inflight i }

/-- The stack once its controller no longer holds access `i`. -/
def Stack.dropHeld (c : Stack) (i : Nat) : Stack := { c with held := listDrop c.held i }

/-- No bank is closed for an access while no pre-emption is in progress. -/
theorem Stack.yieldBank_of_no_preempt {c : Stack} (h : c.preempt = false) (a : Nat) : c.yieldBank a = c := by
  simp only [Stack.yieldBank, h, Bool.false_and, Bool.false_eq_true, if_false]
  split <;> rfl

section Accesses
variable {s : State} {k : StkAt} {i : Nat} {x : StkAcc}

/-! ### An access reaches its controller (R203) -/

section Arrival
variable (hup : (s.reachStk k).stackUp k.stack = true) (hheld : (reachedStack s k).held = []) (hx : (reachedStack s k).inflight[i]? = some x)
  (hfirst : ∀ z ∈ (reachedStack s k).inflight.take i, z.addr / 32 ≠ x.addr / 32)
include hup hheld hx hfirst

/-- An access that no earlier one to its codeword precedes arrives where none is held. -/
theorem exec_ordinaryAccess_of_first (ev : AccEvent) : exec (.ordinaryAccess k i ev) s = .next (
    let c1 := (reachedStack s k).dropInflight i
    let y : StkAcc := { x with reached := some (reachedStack s k).cycle }
    if (reachedStack s k).holds x.addr then
      (s.reachStk k).setStack k.stack { c1 with held := (reachedStack s k).held ++ [y], heldCnt := satInc (reachedStack s k).heldCnt }
    else if !(reachedStack s k).ordReady x.addr x.kind.writes then s.reachStk k
    else ((s.reachStk k).setStack k.stack (c1.yieldBank x.addr)).attempt k.stack y ev) := by
  have hnone : (reachedStack s k).held[i]? = none := by rw [hheld]; rfl
  have hlen : (reachedStack s k).held.length = 0 := by rw [hheld]; rfl
  have hbehind (y : StkAcc) : (reachedStack s k).behind (reachedStack s k).held y = false := by rw [hheld, Stack.behind_nil]
  change execOrdinaryAccess k i ev s = _
  simp only [execOrdinaryAccess, hup, hnone, hlen, Nat.sub_zero, hx, earlierSame_eq_false hfirst, hbehind, Stack.dropInflight,
    Bool.false_or, Bool.true_eq_false, Bool.false_eq_true, if_false]

theorem exec_ordinaryAccess_of_unheld (hfree : (reachedStack s k).holds x.addr = false) (hpre : (reachedStack s k).preempt = false)
    (hready : (reachedStack s k).ordReady x.addr x.kind.writes = true) :
    exec (.ordinaryAccess k i .ok) s = .next (((s.reachStk k).setStack k.stack ((reachedStack s k).dropInflight i)).performAccess k.stack
        { x with reached := some (reachedStack s k).cycle }) := by
  have hbanks := Stack.yieldBank_of_no_preempt (c := (reachedStack s k).dropInflight i) hpre x.addr
  simp only [exec_ordinaryAccess_of_first hup hheld hx hfirst, hfree, hready, hbanks, Bool.not_true, Bool.false_eq_true, if_false,
    State.attempt]

theorem exec_ordinaryAccess_of_occupied (hholds : (reachedStack s k).holds x.addr = true) (ev : AccEvent) :
    exec (.ordinaryAccess k i ev) s = .next ((s.reachStk k).setStack k.stack
      { (reachedStack s k).dropInflight i with
        held := [{ x with reached := some (reachedStack s k).cycle }], heldCnt := satInc (reachedStack s k).heldCnt }) := by
  simp only [exec_ordinaryAccess_of_first hup hheld hx hfirst, hholds, if_true, hheld, List.nil_append]

end Arrival

/-! ### A held access is tried, or tried again (R201, R205, R236) -/

section Held
variable (hx : (reachedStack s k).held[i]? = some x)
include hx

section Free
variable (hfree : (reachedStack s k).holds x.addr = false) (hready : (reachedStack s k).ordReady x.addr x.kind.writes = true)
include hfree hready

theorem exec_ordinaryAccess_of_released (hup : (s.reachStk k).stackUp k.stack = true) (hcause : x.cause = 0)
    (hturn : (reachedStack s k).behind ((reachedStack s k).held.take i) x = false) (ev : AccEvent) :
    exec (.ordinaryAccess k i ev) s = .next (((s.reachStk k).setStack k.stack
      (((reachedStack s k).dropHeld i).yieldBank x.addr)).attempt k.stack x ev) := by
  change execOrdinaryAccess k i ev s = _
  simp only [execOrdinaryAccess, hup, hx, hcause, hfree, hturn, hready, Stack.dropHeld, ne_eq, not_true_eq_false, decide_false,
    Bool.not_true, Bool.or_self, Bool.true_eq_false, Bool.false_eq_true, if_false]

/-- A held access that waits for a retry, whose time has come and which nothing holds any longer. -/
theorem State.retry_of_ready {cause : Nat} (hcause : x.cause = cause) (htime : x.retryAt ≤ (reachedStack s k).cycle) (ev : AccEvent)
    (note : Stack → Stack) : s.retry k i cause ev note = ((s.reachStk k).setStack k.stack
      (note ((reachedStack s k).dropHeld i))).attempt k.stack x ev := by
  simp only [State.retry, hx, hcause, hfree, hready, Nat.not_lt.mpr htime, Stack.dropHeld, ne_eq, not_true_eq_false, decide_false,
    Bool.not_true, Bool.or_self, Bool.false_eq_true, if_false]

end Free

/-- A recalibration that passes lets the access take its turn again, as one that has met no error. -/
theorem exec_interfaceRecal_of_passed (hcause : x.cause = 3) : exec (.interfaceRecal k i true) s = .next ((s.reachStk k).setStack k.stack
    { reachedStack s k with held := listSet (reachedStack s k).held i { x with cause := 0, tries := 0 } }) := by
  change execInterfaceRecal k i true s = _
  simp only [execInterfaceRecal, hx, hcause, ne_eq, not_true_eq_false, if_false, if_true]

end Held

/-! ### Pre-emption (R203, R276) -/

/-- An access held for longer than the limit of STK_HOLD_MAX. -/
theorem exec_preempt_of_late {r : Nat} (hmem : x ∈ (reachedStack s k).held) (hcause : x.cause = 0) (hreached : x.reached = some r)
    (hlate : r + min 2400 (reachedStack s k).holdMax.toNat < (reachedStack s k).cycle) (hpre : (reachedStack s k).preempt = false)
    (hruns : (reachedStack s k).prg.isSome = true ∨ (reachedStack s k).kvGo = true) :
    exec (.preempt k) s = .next ((s.reachStk k).setStack k.stack
      { reachedStack s k with
        preempt := true, preemptAt := (reachedStack s k).cycle, preemptCnt := satInc (reachedStack s k).preemptCnt }) := by
  change Host.Outcome.next (s.stkEvent k _) = _
  simp only [State.stkEvent]
  rw [if_pos]
  refine Bool.and_eq_true_iff.mpr ⟨Bool.and_eq_true_iff.mpr ⟨Bool.or_eq_true_iff.mpr hruns, ?_⟩, List.any_eq_true.mpr ⟨x, hmem, ?_⟩⟩
  · rw [hpre]; rfl
  · simp only [hreached, hlate, hcause, decide_true, Bool.and_self]

/-- No access is left of those that were held when the pre-emption began. -/
theorem exec_preemptResume_of_served (hpre : (reachedStack s k).preempt = true)
    (hserved : ∀ z ∈ (reachedStack s k).held, z.cause = 0 → ∀ r, z.reached = some r → (reachedStack s k).preemptAt < r) :
    exec (.preemptResume k) s = .next ((s.reachStk k).setStack k.stack
      { (reachedStack s k).reopen.resumeWalks with preempt := false, preemptPages := [] }) := by
  have hnone : (reachedStack s k).held.any (reachedStack s k).heldFirst = false := by
    refine List.any_eq_false.mpr fun z hz hfirst => ?_
    simp only [Stack.heldFirst, Bool.and_eq_true, decide_eq_true_eq] at hfirst
    obtain ⟨⟨-, hcause⟩, hbefore⟩ := hfirst
    split at hbefore
    · next r hr => exact absurd (of_decide_eq_true hbefore) (Nat.not_le.mpr (hserved z hz hcause r hr))
    · cases hbefore
  change Host.Outcome.next (s.stkEvent k _) = _
  simp only [State.stkEvent, hpre, hnone, Bool.not_false, Bool.and_self, if_true]

end Accesses

/-- Settles O21: an arrival, a held access, the retries and the recalibration, and the beginning and the end of a pre-emption. -/
theorem ordinaryAccessesAreServedHeldAndRetried : Obligations.OrdinaryAccessesAreServedHeldAndRetried := by
  unfold Obligations.OrdinaryAccessesAreServedHeldAndRetried
  intro s k i x n s1 c y left unheld
  refine ⟨fun hup hheld hx hfirst => ⟨exec_ordinaryAccess_of_unheld hup hheld hx hfirst, fun ev hholds =>
      exec_ordinaryAccess_of_occupied hup hheld hx hfirst hholds ev⟩,
    fun ev hup hx hcause hfree hturn hready => exec_ordinaryAccess_of_released hx hfree hready hup hcause hturn ev,
    fun hx hfree hready htime => ⟨fun hcause => ?tvRetry, fun hcause => ?parityRetry⟩,
    exec_interfaceRecal_of_passed, fun r => exec_preempt_of_late, exec_preemptResume_of_served⟩
  case tvRetry => exact congrArg Host.Outcome.next (State.retry_of_ready hx hfree hready hcause htime .ok id)
  case parityRetry => exact congrArg Host.Outcome.next (State.retry_of_ready hx hfree hready hcause htime .ok _)

end Sys2Proof.Machine
end

section
/-! Refreshes, timing tables and levels of a stack controller, and what O23 says of them. -/

namespace Sys2Proof.Machine

/-! ### Refreshes (R201, R228, R229; log entry 79) -/

/-- A stack that has noted the refresh that fell due on a pseudo-channel: the next one falls due T_REFI later. -/
def Stack.noteRefresh (c : Stack) (pc : Nat) : Stack := { c with refAt := mput 0 c.refAt pc (mget 0 c.refAt pc + max 1 (c.fig 14)) }

/-- The bank of a pseudo-channel whose refresh comes next. -/
def Stack.refreshed (c : Stack) (pc : Nat) : Bank := c.bank pc (mget 0 c.refBank pc)

/-- The runs of a pseudo-channel that hold that bank open. -/
def Stack.refreshRuns (c : Stack) (pc : Nat) : List WalkRun :=
  c.runs.filter fun w => decide (w.pc = pc) && w.opens c.cycle (mget 0 c.refBank pc)

/-- Whether the programme or a run holds that bank open. -/
def Stack.refreshOpen (c : Stack) (pc : Nat) : Bool :=
  ((c.refreshed pc).page.isSome && c.prg.isSome) || !(c.refreshRuns pc).isEmpty

/-- Whether an operation on that bank has not ended, or a run that holds it open is within a part. -/
def Stack.refreshBusy (c : Stack) (pc : Nat) : Bool :=
  ((c.refreshed pc).page.isSome &&
    (decide (c.cycle < max (c.refreshed pc).rdAt (c.refreshed pc).wrAt) || !c.preOk pc (mget 0 c.refBank pc))) ||
  (c.refreshRuns pc).any fun w => !w.atBoundary c.cycle

theorem Stack.refreshOpen_of_closed {c : Stack} {pc : Nat} (hpage : (c.refreshed pc).page = none)
    (hruns : ∀ w ∈ c.runs, w.pc = pc → w.opens c.cycle (mget 0 c.refBank pc) = false) : c.refreshOpen pc = false := by
  have hnone : c.refreshRuns pc = [] := by
    refine List.filter_eq_nil_iff.mpr fun w hw hopen => ?_
    obtain ⟨hpc, hopens⟩ := Bool.and_eq_true_iff.mp hopen
    exact Bool.noConfusion ((hruns w hw (of_decide_eq_true hpc)).symm.trans hopens)
  simp only [Stack.refreshOpen, hpage, hnone, Option.isSome_none, Bool.false_and, List.isEmpty_nil, Bool.not_true, Bool.or_self]

theorem Stack.refreshOpen_of_page {c : Stack} {pc : Nat} (hpage : (c.refreshed pc).page.isSome = true) (hprg : c.prg.isSome = true) :
    c.refreshOpen pc = true := by
  simp only [Stack.refreshOpen, hpage, hprg, Bool.and_self, Bool.true_or]

section Refresh
variable {s : State} {k : StkAt} {pc : Fin 64} (hdue : mget 0 (reachedStack s k).refAt pc.val ≤ (reachedStack s k).cycle)
include hdue

/-- A refresh that falls due is postponed while its bank is held open, as long as few enough are owed or the bank is busy; else it is
granted. -/
theorem exec_refreshDue_of_due : exec (.refreshDue k pc) s = .next ((s.reachStk k).setStack k.stack (
    let c := (reachedStack s k).noteRefresh pc.val
    let owed := mget 0 (reachedStack s k).refOwed pc.val
    if c.refreshOpen pc.val && (decide (owed + 1 ≤ c.fig 18) || c.refreshBusy pc.val) then
      { c with refOwed := mput 0 (reachedStack s k).refOwed pc.val (owed + 1) }
    else { c.grantRefresh pc.val with refOwed := mput 0 (reachedStack s k).refOwed pc.val owed })) := by
  change Host.Outcome.next (s.stkEvent k _) = _
  simp only [State.stkEvent, hdue, decide_true, if_true, Nat.add_one_ne_zero, if_false]
  rfl

/-- The refresh of a bank that no page and no run holds open is granted. -/
theorem exec_refreshDue_of_closed (hpage : ((reachedStack s k).refreshed pc.val).page = none)
    (hruns : ∀ w ∈ (reachedStack s k).runs, w.pc = pc.val →
      w.opens (reachedStack s k).cycle (mget 0 (reachedStack s k).refBank pc.val) = false) :
    exec (.refreshDue k pc) s = .next ((s.reachStk k).setStack k.stack
      { ((reachedStack s k).noteRefresh pc.val).grantRefresh pc.val with
        refOwed := mput 0 (reachedStack s k).refOwed pc.val (mget 0 (reachedStack s k).refOwed pc.val) }) := by
  have hopen := Stack.refreshOpen_of_closed (c := (reachedStack s k).noteRefresh pc.val) hpage hruns
  simp only [exec_refreshDue_of_due hdue, hopen, Bool.false_and, Bool.false_eq_true, if_false]

/-- The refresh of a bank that the programme holds open is owed. -/
theorem exec_refreshDue_of_open (hpage : ((reachedStack s k).refreshed pc.val).page.isSome = true)
    (hprg : (reachedStack s k).prg.isSome = true)
    (howed : mget 0 (reachedStack s k).refOwed pc.val + 1 ≤ ((reachedStack s k).noteRefresh pc.val).fig 18) :
    exec (.refreshDue k pc) s = .next ((s.reachStk k).setStack k.stack
      { (reachedStack s k).noteRefresh pc.val with
        refOwed := mput 0 (reachedStack s k).refOwed pc.val (mget 0 (reachedStack s k).refOwed pc.val + 1) }) := by
  have hopen := Stack.refreshOpen_of_page (c := (reachedStack s k).noteRefresh pc.val) hpage hprg
  simp only [exec_refreshDue_of_due hdue, hopen, howed, decide_true, Bool.true_or, Bool.and_self, if_true]

end Refresh

/-! ### Refresh boundaries (R230 to R232) -/

/-- A stack that differs from another in its timing tables and their shadows at most. -/
def Stack.SameButTables (c c' : Stack) : Prop := ∃ tables shadows, c' = { c with tables := tables, shadows := shadows }

theorem Stack.SameButTables.refl (c : Stack) : c.SameButTables c := ⟨c.tables, c.shadows, rfl⟩

theorem Stack.SameButTables.trans {a b c : Stack} (hab : a.SameButTables b) (hbc : b.SameButTables c) : a.SameButTables c := by
  obtain ⟨t, u, rfl⟩ := hab
  obtain ⟨v, w, rfl⟩ := hbc
  exact ⟨v, w, rfl⟩

theorem Stack.SameButTables.keeps {c c' : Stack} (h : c.SameButTables c') :
    c'.bandReq = c.bandReq ∧ c'.pert = c.pert ∧ c'.mem = c.mem ∧ c'.banks = c.banks := by
  obtain ⟨t, u, rfl⟩ := h
  exact ⟨rfl, rfl, rfl, rfl⟩

theorem Stack.SameButTables.swap {c c' : Stack} (h : c.SameButTables c') : c'.swap = c.swap := by
  obtain ⟨t, u, rfl⟩ := h
  rfl

/-- Changes of tables and shadows, one after the other. -/
theorem Stack.SameButTables.foldl {α : Type} {f : Stack → α → Stack} (hf : ∀ (c : Stack) a, c.SameButTables (f c a)) (l : List α)
    (c : Stack) : c.SameButTables (l.foldl f c) :=
  List.foldlRecOn (motive := fun x => c.SameButTables x) l f (.refl c) fun b hb a _ => hb.trans (hf b a)

theorem Stack.swapBand_sameButTables (c : Stack) (b : Nat) : c.SameButTables (c.swapBand b) :=
  .foldl (fun _ _ => ⟨_, _, rfl⟩) _ c

/-- The stack after the swaps of tables and shadows that are requested (R231). -/
def Stack.swapBands (c : Stack) : Stack := (List.range 4).foldl (fun x b => if c.swap.getLsbD b then x.swapBand b else x) c

theorem Stack.swapBands_sameButTables (c : Stack) : c.SameButTables c.swapBands := by
  refine .foldl (fun x b => ?_) _ c
  split
  · exact x.swapBand_sameButTables b
  · exact .refl x

/-- A swap of one band leaves the requests for the others, so the swaps can be read off the stack as it stands before each of them. -/
theorem Stack.foldl_swapBand_eq (c : Stack) :
    (List.range 4).foldl (fun x b => if x.swap.getLsbD b then x.swapBand b else x) c = c.swapBands := by
  have hsame (l : List Nat) : ∀ y : Stack, y.swap = c.swap →
      l.foldl (fun x b => if x.swap.getLsbD b then x.swapBand b else x) y =
        l.foldl (fun x b => if c.swap.getLsbD b then x.swapBand b else x) y := by
    induction l with
    | nil => exact fun _ _ => rfl
    | cons b l ih =>
      intro y hy
      simp only [List.foldl_cons, hy]
      refine ih _ ?_
      split
      · exact (y.swapBand_sameButTables b).swap.trans hy
      · exact hy
  exact hsame _ c rfl

/-- The stack once the requested swaps are done and the commanded band and margin are taken (R230, R231, R601). -/
def Stack.takeBand (c : Stack) : Stack :=
  { c.swapBands with swap := 0, band := c.swapBands.bandReq, margin := c.swapBands.pert.truncate 8 }

/-- What a boundary notes on a stack that was `c` before it: when the next one comes, and, where the table in force can have changed, the
figures before it (R228, R232). -/
def Stack.noteRound (x c : Stack) : Stack :=
  let moved := c.swap ≠ 0#4 ∨ c.band ≠ c.bandReq ∨ c.margin ≠ x.margin
  { x with roundAt := x.cycle + 32 * max 1 (x.fig 14), oldTab := if moved then (List.range 64).map fun e => c.fig e else x.oldTab
           swapAt := if moved then x.cycle else x.swapAt }

theorem exec_refreshBoundary_of_reached {s : State} {k : StkAt} (hround : (reachedStack s k).roundAt ≤ (reachedStack s k).cycle) :
    exec (.refreshBoundary k) s = .next ((s.reachStk k).setStack k.stack
      ((reachedStack s k).takeBand.noteRound (reachedStack s k))).timingDone := by
  change Host.Outcome.next (s.stkEvent k _).timingDone = _
  simp only [State.stkEvent, Nat.not_lt.mpr hround, if_false, Stack.foldl_swapBand_eq]
  rfl

/-! ### Engines come back (R209) -/

/-- The engine of a pseudo-channel that is ONLINE, where no programme runs or waits. -/
theorem exec_engAvailRestore_of_quiet {s : State} {k : StkAt} {pc : Fin 64} (honline : (s.unit (unitId 1 (k.stack * 64 + pc.val))).allowed = 2)
    (hquiet : (reachedStack s k).quiet = true) :
    exec (.engAvailRestore k pc) s = .next ((s.reachStk k).setStack k.stack
      { reachedStack s k with engAvail := setBit (reachedStack s k).engAvail pc.val true }) := by
  change Host.Outcome.next (s.stkEvent k _) = _
  simp only [State.stkEvent, honline, hquiet, decide_true, Bool.and_self, if_true]

/-- Settles O23: a refresh that is granted and one that is owed, a boundary, the levels, and an engine that comes back. -/
theorem refreshBandsAndLevels : Obligations.RefreshBandsAndLevels := by
  unfold Obligations.RefreshBandsAndLevels
  intro s k n s1 c upd
  refine ⟨fun pc => ⟨exec_refreshDue_of_closed, exec_refreshDue_of_open⟩, fun hround => ?boundary, fun bits => rfl, rfl,
    fun pc honline hprg hstart => exec_engAvailRestore_of_quiet honline (c.quiet_iff.mpr ⟨hprg, hstart⟩)⟩
  case boundary =>
    obtain ⟨hband, hpert, hmem, hbanks⟩ := c.swapBands_sameButTables.keeps
    refine ⟨_, exec_refreshBoundary_of_reached hround, ?_⟩
    simp only [Stack.noteRound, Stack.takeBand, true_and]
    exact ⟨hband, congrArg (BitVec.truncate 8) hpert, rfl, rfl, hmem, hbanks⟩

end Sys2Proof.Machine
end

section
/-! The valid map, the scrubber, repairs and page copies of a stack controller, and what O24 says of them. -/

namespace Sys2Proof.Machine

section Pages
variable {s : State} {k : StkAt}

/-! ### The valid map (R246 to R250) -/

/-- The stack once the fill of page `p` has ended and the page is VALID (R246). -/
def Stack.endFill (c : Stack) (p : Nat) : Stack :=
  { c with filling := c.filling.filter (fun g => decide (g.1 ≠ p)), valid := setIns p c.valid }

section Fill
variable {pc : Fin 64} {page : Nat} {f : Nat × Nat} (hfill : f ∈ (reachedStack s k).filling) (hpage : f.1 = pc.val * 524288 + page)
  (hend : f.2 ≤ (reachedStack s k).cycle)
include hfill hpage hend

/-- A fill whose last codeword is written ends; a clear that came while it ran then takes the page back. -/
theorem exec_pageFillDone_of_written : exec (.pageFillDone k pc page) s = .next ((s.reachStk k).setStack k.stack (
    let c := reachedStack s k
    if c.clrLate.contains f.1 then { (c.endFill f.1).clearWhere (fun q => decide (q = f.1)) with clrLate := setDel f.1 c.clrLate }
    else c.endFill f.1)) := by
  have hany : ((reachedStack s k).filling.any fun g => decide (g.1 = f.1) && decide (g.2 ≤ (reachedStack s k).cycle)) = true :=
    List.any_eq_true.mpr ⟨f, hfill, by simp only [hend, decide_true, Bool.and_self]⟩
  change Host.Outcome.next (s.stkEvent k _) = _
  simp only [State.stkEvent, ← hpage, hany, if_true]
  rfl

theorem exec_pageFillDone_of_kept (hlate : f.1 ∉ (reachedStack s k).clrLate) : exec (.pageFillDone k pc page) s =
    .next ((s.reachStk k).setStack k.stack ((reachedStack s k).endFill f.1)) := by
  simp only [exec_pageFillDone_of_written hfill hpage hend, List.contains_iff_mem, hlate, if_false]

theorem exec_pageFillDone_of_cleared (hlate : f.1 ∈ (reachedStack s k).clrLate) : exec (.pageFillDone k pc page) s =
    .next ((s.reachStk k).setStack k.stack { ((reachedStack s k).endFill f.1).clearWhere (fun q => decide (q = f.1)) with
      clrLate := setDel f.1 (reachedStack s k).clrLate }) := by
  simp only [exec_pageFillDone_of_written hfill hpage hend, List.contains_iff_mem, hlate, if_true]

end Fill

/-- A clear starts where none runs. -/
theorem exec_validClear_of_idle (hgo : (reachedStack s k).clrGo = false) (page : BitVec 19) (npage : BitVec 20) (mask : BitVec 64) :
    exec (.validClear k page npage mask) s = .next ((s.reachStk k).setStack k.stack
      { reachedStack s k with clrPage := page, clrNpage := npage, clrMask := mask, clrGo := true, clrPos := 0 }) := by
  change Host.Outcome.next (s.stkEvent k _) = _
  simp only [State.stkEvent, Stack.startClear, hgo, Bool.false_eq_true, if_false]

/-- A clear that has passed all its pages ends. -/
theorem exec_validClearDone_of_passed (hgo : (reachedStack s k).clrGo = true)
    (hall : (reachedStack s k).clearTotal ≤ (reachedStack s k).clrPos) :
    exec (.validClearDone k) s = .next ((s.reachStk k).setStack k.stack { reachedStack s k with clrGo := false }) := by
  change Host.Outcome.next (s.stkEvent k _) = _
  simp only [State.stkEvent, hgo, hall, decide_true, Bool.and_self, if_true]

/-! ### The scrubber (R251 to R253) -/

/-- The scrubber once it has taken its next page, with the cycle of the visit after it (R251, R253). -/
def Stack.passVisit (c : Stack) : Stack := { c.takeVisit with scrubAt := max c.cycle (c.scrubAt + c.scrubPeriod) }

/-- A visit that is due is made where its page's bank and data path are free and no held access of its pseudo-channel waits. -/
theorem exec_scrubVisit_of_free {q : Nat} (hint : (reachedStack s k).scrubInt ≠ 0)
    (hdue : (reachedStack s k).scrubAt ≤ (reachedStack s k).cycle) (hup : (s.reachStk k).stackUp k.stack = true)
    (hvisit : (reachedStack s k).nextVisit = some q) (hfree : (reachedStack s k).holds (q * 2048) = false)
    (hready : (reachedStack s k).ordReady (q * 2048) false = true)
    (hheld : ∀ x ∈ (reachedStack s k).held, x.cause = 0 → pcOf x.addr ≠ pcOf (q * 2048)) :
    exec (.scrubVisit k) s = .next (((s.reachStk k).setStack k.stack
      ((reachedStack s k).passVisit.ordColumns (q * 2048) 2048 false)).scrubPage k.stack q) := by
  have hon : decide ((reachedStack s k).scrubInt = 0#24) = false := decide_eq_false hint
  have hnone : ((reachedStack s k).held.any fun x => decide (x.cause = 0) && decide (pcOf x.addr = pcOf (q * 2048))) = false := by
    refine List.any_eq_false.mpr fun x hx hwaits => ?_
    obtain ⟨hcause, hpc⟩ := Bool.and_eq_true_iff.mp hwaits
    exact hheld x hx (of_decide_eq_true hcause) (of_decide_eq_true hpc)
  change execScrubVisit k s = _
  simp only [execScrubVisit, hon, Nat.not_lt.mpr hdue, hup, hvisit, hfree, hready, hnone, decide_false, Bool.not_true, Bool.or_self,
    Bool.false_eq_true, if_false]
  rfl

/-! ### Repairs (R255 to R258, R495) -/

/-- The stack once a spare row of bank `bank`, of which `used` were in use, has taken the place of page `p`. -/
def Stack.takeSpareRow (x : Stack) (p bank used : Nat) : Stack :=
  { x with repairWant := setDel p x.repairWant, corrSeen := mput 0 x.corrSeen p 0
           spareUsed := mput 0 x.spareUsed bank (used + 1), repairSoft := satInc x.repairSoft }

/-- The repair of page `p` of stack `n` by a spare row is kept in the Lodge's non-volatile memory. -/
def State.recordSpareRow (s : State) (n p : Nat) : State :=
  { s with lodge := { s.lodge with nvRepairs := s.lodge.nvRepairs ++ [(n * 2, p)] } }

/-- A page that needs it is repaired by a spare row while its bank has one left. -/
theorem exec_pageRepair_of_spare {pc : Fin 64} {page : Nat} (hprg : (reachedStack s k).prg = none) (hkv : (reachedStack s k).kvGo = false)
    (hwant : pc.val * 524288 + page ∈ (reachedStack s k).repairWant)
    (hspare : mget 0 (reachedStack s k).spareUsed (pc.val * 32 + page % 32) < 4) :
    exec (.pageRepair k pc page) s = .next (
      let p := pc.val * 524288 + page
      let bank := pc.val * 32 + page % 32
      let migrated := (s.reachStk k).migratePage k.stack p
      ((migrated.setStack k.stack ((migrated.stack k.stack).takeSpareRow p bank (mget 0 (reachedStack s k).spareUsed bank))).recordSpareRow
        k.stack p).dutyBoundary 6) := by
  have hcontains := List.contains_iff_mem.mpr hwant
  change execPageRepair k pc page s = _
  simp only [execPageRepair, hprg, hkv, hcontains, hspare, Option.isSome_none, Bool.not_true, Bool.or_self, Bool.false_eq_true, if_false,
    if_true]
  rfl

/-! ### Page copies (R282, R289) -/

/-- A copy between two pages of the stack starts where none runs, and begins at once where no programme runs. -/
theorem exec_kvcopy_of_pages {src dst : BitVec 25} {a b : Nat × Nat}
    (hsrc : (s.reachStk k).pageOfId k.stack src.toNat = some (k.stack, a))
    (hdst : (s.reachStk k).pageOfId k.stack dst.toNat = some (k.stack, b)) (hgo : (reachedStack s k).kvGo = false) :
    exec (.kvcopy k src dst) s = .next ((s.reachStk k).setStack k.stack (
      let c1 : Stack := { reachedStack s k with
        kvSrc := src, kvDst := dst, kvErr := false, kvGo := true, kvUntil := 0, kvFirst := (a.2, b.2) }
      if (reachedStack s k).prg.isNone then c1.beginCopy else c1)) := by
  change Host.Outcome.next ((s.reachStk k).startKvCopy k.stack src dst) = _
  simp only [State.startKvCopy, hgo, hsrc, hdst, Bool.false_eq_true, if_false, if_true]

/-- A copy whose time has come, and which no pre-emption holds, ends with the bytes of its source at its destination. -/
theorem exec_kvcopyDone_of_reached {a b : Nat × Nat × Nat}
    (hsrc : (s.reachStk k).pageOfId k.stack (reachedStack s k).kvSrc.toNat = some a)
    (hdst : (s.reachStk k).pageOfId k.stack (reachedStack s k).kvDst.toNat = some b) (hgo : (reachedStack s k).kvGo = true)
    (hpre : (reachedStack s k).preempt = false) (hbegun : (reachedStack s k).kvUntil ≠ 0)
    (hend : (reachedStack s k).kvUntil ≤ (reachedStack s k).cycle) :
    exec (.kvcopyDone k) s = .next (((s.reachStk k).setStack k.stack
      { reachedStack s k with kvGo := false, kvUntil := 0, kvRuns := [] }).copyCachePage k.stack a b) := by
  change execKvcopyDone k s = _
  simp only [execKvcopyDone, hsrc, hdst, hgo, hpre, hend, decide_eq_true hbegun, decide_true, Bool.not_false, Bool.and_self, if_true]

end Pages

/-- Settles O24: the end of a fill, the start and the end of a clear, a visit of the scrubber, a repair by a spare row, the on-die counts, and
the start and the end of a page copy. -/
theorem pagesAreFilledClearedScrubbedRepairedAndCopied : Obligations.PagesAreFilledClearedScrubbedRepairedAndCopied := by
  unfold Obligations.PagesAreFilledClearedScrubbedRepairedAndCopied
  intro s k n s1 c upd
  exact ⟨fun pc page f hfill hpage hend => ⟨exec_pageFillDone_of_kept hfill hpage hend, exec_pageFillDone_of_cleared hfill hpage hend⟩,
    fun page npage mask hgo => exec_validClear_of_idle hgo page npage mask, exec_validClearDone_of_passed,
    fun q => exec_scrubVisit_of_free, fun pc page => exec_pageRepair_of_spare, fun counts => rfl,
    fun src dst a b => exec_kvcopy_of_pages, fun a b => exec_kvcopyDone_of_reached⟩

end Sys2Proof.Machine
end

section
/-! Pages that move to and from host memory, parked conversations that expire, and what O31 says of them. -/

namespace Sys2Proof.Machine

section HostCopies
variable {s : State} {i : Nat} {e : SeqEntry}

/-- Stages one edit for each page of a sequence: its leaf entry is to say what `leaf` answers for the page (R279, R283). -/
def State.stageLeaves (s : State) (i : Nat) (pages : List (Nat × Nat × Nat)) (leaf : Nat → Option Nat) : State :=
  pages.foldl (fun acc p => acc.stageLeaf i p.1 p.2.1 (leaf p.2.2)) s

/-! ### Pages copied out (R283, R353) -/

/-- The copied pages of a sequence that has none in host memory yet: freed, their leaf entries empty, their places kept. -/
theorem State.pagesOut_of_unsaved (hsaved : e.saved = []) (place : Nat → Nat) (parkDone : Bool) :
    s.pagesOut i e place parkDone =
      (((s.savePages e.pages place).1.recordFrees e.pages).stageLeaves i e.pages fun _ => none).setSeq i
        { e with saved := (s.savePages e.pages place).2, pages := [], parkDone := parkDone } := by
  simp only [State.pagesOut, State.stageLeaves, hsaved, List.nil_append]

/-- A sequence whose parking copy completes has its pages at the free places of the orangery, lowest first (R353; log entry 82). -/
theorem exec_parkCopyDone_of_parking (hseq : s.seq i = some e) (hstate : e.state = .parking) (hpark : e.parkDone = false) :
    exec (.parkCopyDone i) s = .next (s.pagesOut i e (fun k => s.orgFree.getD k 0) true) := by
  change execParkCopyDone i s = _
  simp only [execParkCopyDone, hseq, hstate, hpark, ne_eq, not_true_eq_false, decide_false, Bool.or_self, Bool.false_eq_true, if_false]

/-- A swapped sequence whose pages are still in the stacks has them at the places that host memory gives (R283; log entry 82). -/
theorem exec_swapOutDone_of_swapped (hseq : s.seq i = some e) (hstate : e.state = .swapped) (hsaved : e.saved = []) (hpages : e.pages ≠ []) :
    exec (.swapOutDone i) s =
      .next (State.pagesOut { s with frees := s.frees + e.pages.length } i e (swapPlace s.frees) e.parkDone) := by
  have hsome : e.pages.isEmpty = false := List.isEmpty_eq_false_iff.mpr hpages
  change execSwapOutDone i s = _
  simp only [execSwapOutDone, hseq, hstate, hsaved, hsome, ne_eq, not_true_eq_false, decide_false, List.isEmpty_nil, Bool.not_true, Bool.or_self,
    Bool.false_eq_true, if_false]

/-! ### Pages copied in (R283, R354) -/

/-- A conversation that its sequence resumed leaves the list of the parked ones. -/
def State.endResume (s : State) : Option Nat → State
  | none => s
  | some h => s.setServing fun v => { v with parked := v.parked.filter fun p => decide (p.handle ≠ h) }

/-- The host has answered every page that the sequence waits for, each in full: they are stored and the wait ends. -/
theorem exec_swapInDone_of_answered {data : List (List Byte × Bool)} (hseq : s.seq i = some e) (hstate : e.state = .swapped)
    (hsaved : e.saved ≠ []) (hpages : e.pages ≠ []) (hlen : data.length = e.saved.length) (hfull : ∀ d ∈ data, d.1.length = s.pageBytes) :
    exec (.swapInDone ⟨i, data⟩) s =
      .next ((((s.loadPages e.pages e.saved data).stageLeaves i e.pages some).endResume e.req.resumeOf).setSeq i
        { e with saved := [], returned := true, req := { e.req with resumeOf := none } }) := by
  have hkept : e.saved.isEmpty = false := List.isEmpty_eq_false_iff.mpr hsaved
  have hheld : e.pages.isEmpty = false := List.isEmpty_eq_false_iff.mpr hpages
  have hshort : data.any (fun d => decide (d.1.length ≠ s.pageBytes)) = false := by simpa using hfull
  change execSwapInDone ⟨i, data⟩ s = _
  simp only [execSwapInDone, hseq, hstate, hkept, hheld, hlen, hshort, ne_eq, not_true_eq_false, decide_false, Bool.or_self, Bool.false_eq_true,
    if_false]
  cases e.req.resumeOf <;> rfl

/-! ### A parked conversation at the end of its time-to-live (R354) -/

/-- Whether a parked conversation is the one of `handle`, no sequence has taken it, and its time has come. -/
def Parked.runsOut (p : Parked) (handle : BitVec 48) (now : Nat) : Bool :=
  decide (p.handle = handle.toNat) && !p.taken && decide (p.expires ≤ now)

theorem Parked.runsOut_of_past {p : Parked} {handle : BitVec 48} {now : Nat} (hhandle : p.handle = handle.toNat) (htaken : p.taken = false)
    (hpast : p.expires ≤ now) : p.runsOut handle now = true := by
  simp only [Parked.runsOut, hhandle, htaken, hpast, decide_true, Bool.not_false, Bool.and_self]

/-- The conversations of the handle whose time has come are discarded and recorded as expired; the other ones stay parked. -/
theorem exec_ttlExpire (handle : BitVec 48) : exec (.ttlExpire handle) s = .next (s.setServing fun v => { v with
    parked := v.parked.filter fun p => !p.runsOut handle s.time.toNat
    expired := v.expired ++ (v.parked.filter fun p => p.runsOut handle s.time.toNat).map fun p => (p.handle, p.fn) }) := rfl

theorem exec_ttlExpire_of_only {handle : BitVec 48} {p : Parked} (honly : s.serving.parked = [p])
    (hout : p.runsOut handle s.time.toNat = true) : exec (.ttlExpire handle) s =
      .next { s with serving := { s.serving with parked := [], expired := s.serving.expired ++ [(p.handle, p.fn)] } } := by
  simp only [exec_ttlExpire, State.setServing, honly, List.filter_cons, List.filter_nil, hout, Bool.not_true, Bool.false_eq_true, if_false, if_true,
    List.map_cons, List.map_nil]

end HostCopies

/-- Settles O31: a copy out is what the pages leave of a sequence with none in host memory, a copy in ends the wait with or without a resumed
conversation, and the only parked conversation runs out. -/
theorem pagesMoveToAndFromHostMemory : Obligations.PagesMoveToAndFromHostMemory := by
  unfold Obligations.PagesMoveToAndFromHostMemory
  intro s i e hseq edit out
  refine ⟨fun hstate hpark hsaved => ?parked, fun hstate hsaved hpages => ?swappedOut, fun data hstate hsaved hpages hlen hfull => ?swappedIn,
    fun handle p honly hhandle htaken hpast => exec_ttlExpire_of_only honly (Parked.runsOut_of_past hhandle htaken hpast)⟩
  case parked => exact (exec_parkCopyDone_of_parking hseq hstate hpark).trans (congrArg _ (State.pagesOut_of_unsaved hsaved _ _))
  case swappedOut => exact (exec_swapOutDone_of_swapped hseq hstate hsaved hpages).trans (congrArg _ (State.pagesOut_of_unsaved hsaved _ _))
  case swappedIn =>
    have hstored := exec_swapInDone_of_answered hseq hstate hsaved hpages hlen hfull
    exact ⟨fun hnone => by rw [hstored, hnone]; rfl, fun h hresume => by rw [hstored, hresume]; rfl⟩

end Sys2Proof.Machine
end

section
/-! The semaphore unit: signals, waits, observers and the queue of its consuming waiters, and what O25, O26 and O53 say of them. -/

namespace Sys2Proof.Machine

/-! ### A message that reaches the unit (R310) -/

/-- The state without message `i` on its way to the semaphore unit. -/
def State.takeMsg (s : State) (i : Nat) : State := { s with sem := { s.sem with net := listDrop s.sem.net i } }

section Messages
variable {s : State} {i : Nat}

theorem State.takeSem_of_first {m : SemMsg} (h : s.netFirst i = some m) (f : State → SemMsg → Option State) :
    s.takeSem i f = (f (s.takeMsg i) m).getD s := by
  rw [State.takeSem, h]
  rfl

theorem exec_semSignalApply_of_tile {t party scope sem effId : Nat} {o : Origin} {n : Int}
    (h : s.netFirst i = some (.signal (.tile t o) party scope sem n effId)) :
    exec (.semSignalApply i) s = .next (((s.takeMsg i).applySignal (.tile t o) party scope sem n).landed t effId) :=
  congrArg Host.Outcome.next (State.takeSem_of_first h _)

theorem exec_semWaitArrive_of_wait {t scope sem : Nat} {st : Stream} {n : Int} (h : s.netFirst i = some (.wait t st scope sem n)) :
    exec (.semWaitArrive i) s = .next ((s.takeMsg i).applyWait t st scope sem n) :=
  congrArg Host.Outcome.next (State.takeSem_of_first h _)

theorem exec_semObsArrive_of_obs {t scope sem : Nat} {st : Stream} {n : Int} (h : s.netFirst i = some (.obs t st scope sem n)) :
    exec (.semObsArrive i) s = .next ((s.takeMsg i).applyObs t st scope sem n) :=
  congrArg Host.Outcome.next (State.takeSem_of_first h _)

end Messages

/-! ### Releases leave the semaphores (R303, R316) -/

section Releases
variable (s : State)

@[simp] theorem State.acquireTest_sems (sem scope party : Nat) : (s.acquireTest sem scope party).sem.sems = s.sem.sems := by
  simp only [State.acquireTest]
  split_ifs <;> rfl

@[simp] theorem State.releaseWaiter_sems (sem : Nat) (w : Waiter) (consumed : Int) : (s.releaseWaiter sem w consumed).sem.sems = s.sem.sems :=
  s.acquireTest_sems sem w.scope (partyId 0 w.tile)

@[simp] theorem State.releaseWaiter_sema (sem : Nat) (w : Waiter) (consumed : Int) (m : Nat) :
    (s.releaseWaiter sem w consumed).sema m = s.sema m := by
  rw [State.sema, State.releaseWaiter_sems, State.sema]

end Releases

theorem State.setSema_wf {s : State} (hwf : mwf Sem.zero s.sem.sems = true) (sem : Nat) (x : Sem) :
    mwf Sem.zero (s.setSema sem x).sem.sems = true := mput_wf hwf sem x

/-! ### Waits and observers (R313, R314) -/

section Waits
variable {s : State} {t scope sem n : Nat} {st : Stream}

/-- A wait in the quota and in range takes its value where nobody waits before it and the value is enough; else it joins the queue. -/
theorem State.applyWait_of_allowed (hquota : s.quotaOk (s.waitSrc t st) sem = true) (hrange : n ≤ 16777215) :
    s.applyWait t st scope sem n =
      if (s.sema sem).queue = [] ∧ n ≤ (s.sema sem).value then
        (s.setSema sem { s.sema sem with value := (s.sema sem).value - n }).releaseWaiter sem ⟨t, st, scope, n⟩ n
      else s.setSema sem { s.sema sem with queue := (s.sema sem).queue ++ [⟨t, st, scope, n⟩] } := by
  have hlow : ¬ (n : Int) < 0 := by omega
  have hhigh : ¬ semMax < (n : Int) := by unfold semMax; omega
  simp only [State.applyWait, hquota, hlow, hhigh, Bool.true_eq_false, if_false, Int.toNat_natCast, Bool.and_eq_true, List.isEmpty_iff,
    decide_eq_true_eq]

/-- An obs in the quota and in range is released at a value that is enough; else it joins the observers. -/
theorem State.applyObs_of_allowed (hquota : s.quotaOk (s.waitSrc t st) sem = true) (hrange : n ≤ 16777215) :
    s.applyObs t st scope sem n =
      if n ≤ (s.sema sem).value then s.releaseWaiter sem ⟨t, st, scope, n⟩ (-1)
      else s.setSema sem { s.sema sem with observers := (s.sema sem).observers ++ [⟨t, st, scope, n⟩] } := by
  have hlow : ¬ (n : Int) < 0 := by omega
  have hhigh : ¬ semMax < (n : Int) := by unfold semMax; omega
  simp only [State.applyObs, hquota, hlow, hhigh, Bool.true_eq_false, if_false, Int.toNat_natCast]

end Waits

/-- Settles O53: an obs of a value that is reached is a release alone, and one of a value that is not reached writes its semaphore's observers
alone. -/
theorem anObserverIsReleasedAtItsValueOrJoins : Obligations.AnObserverIsReleasedAtItsValueOrJoins := by
  unfold Obligations.AnObserverIsReleasedAtItsValueOrJoins
  intro s i t scope sem n st hfirst hrange hquota hwf s1 x w
  refine ⟨_, exec_semObsArrive_of_obs hfirst, ?_⟩
  have hquota1 : s1.quotaOk (s1.waitSrc t st) sem = true := hquota
  have hobs : s1.applyObs t st scope sem n =
      if n ≤ x.value then s1.releaseWaiter sem w (-1) else s1.setSema sem { x with observers := x.observers ++ [w] } :=
    State.applyObs_of_allowed hquota1 hrange
  change ((s1.applyObs t st scope sem n).sema sem).value = x.value ∧ _
  by_cases hreached : n ≤ x.value
  · rw [if_pos hreached] at hobs
    have hsema (m : Nat) : (s1.applyObs t st scope sem n).sema m = s.sema m := by
      rw [hobs]
      exact s1.releaseWaiter_sema sem w (-1) m
    exact ⟨congrArg Sem.value (hsema sem), congrArg Sem.queue (hsema sem), fun m _ => hsema m,
      fun _ => ⟨hobs, congrArg Sem.observers (hsema sem)⟩, fun hshort => absurd hreached (Nat.not_le.mpr hshort)⟩
  · rw [if_neg hreached] at hobs
    have hsame : (s1.applyObs t st scope sem n).sema sem = { x with observers := x.observers ++ [w] } := by
      rw [hobs]
      exact State.sema_setSema_same hwf
    have hother (m : Nat) (hm : m ≠ sem) : (s1.applyObs t st scope sem n).sema m = s.sema m := by
      rw [hobs]
      exact State.sema_setSema_other hwf hm
    exact ⟨hsame ▸ rfl, hsame ▸ rfl, hother, fun henough => absurd henough hreached, fun _ => ⟨hsame ▸ rfl, hobs ▸ rfl⟩⟩

/-! ### The queue of the consuming waiters (R315) -/

/-- What serving the queue of a semaphore from its head makes of it: the values of the served waiters are taken, the rest waits in its order,
its head for more than is left, and the record of the last release stands. -/
structure Sem.ServedTo (x : Sem) (served rest : List Waiter) (y : Sem) : Prop where
  split : x.queue = served ++ rest
  queue : y.queue = rest
  value : y.value + (served.map (·.n)).sum = x.value
  short : ∀ w ∈ rest.head?, y.value < w.n
  lastScope : y.lastScope = x.lastScope
  lastSrc : y.lastSrc = x.lastSrc

namespace Sem.ServedTo
variable {x y : Sem} {w : Waiter} {ws served rest : List Waiter}

theorem nobody (hqueue : x.queue = ws) (hshort : ∀ w ∈ ws.head?, x.value < w.n) : x.ServedTo [] ws x :=
  ⟨hqueue, hqueue, rfl, hshort, rfl, rfl⟩

theorem head (hqueue : x.queue = w :: ws) (henough : w.n ≤ x.value)
    (h : ServedTo { x with value := x.value - w.n, queue := ws } served rest y) : x.ServedTo (w :: served) rest y where
  split := hqueue.trans (congrArg (w :: ·) h.split)
  queue := h.queue
  value := by
    have hvalue : y.value + (served.map (·.n)).sum = x.value - w.n := h.value
    rw [List.map_cons, List.sum_cons]
    omega
  short := h.short
  lastScope := h.lastScope
  lastSrc := h.lastSrc

end Sem.ServedTo

/-- By induction on the queue: a head whose value is there is served and the rest of the queue is served after it, any other head ends it. -/
theorem State.serveQueue_servedTo {s : State} {sem : Nat} {ws : List Waiter} (hwf : mwf Sem.zero s.sem.sems = true)
    (hqueue : (s.sema sem).queue = ws) : ∃ served rest, (s.sema sem).ServedTo served rest ((s.serveQueue sem ws).sema sem) := by
  induction ws generalizing s with
  | nil => exact ⟨[], [], .nobody hqueue nofun⟩
  | cons w ws ih =>
    rw [State.serveQueue]
    split
    next henough =>
      have hsame : ((s.setSema sem { s.sema sem with value := (s.sema sem).value - w.n, queue := ws }).releaseWaiter sem w w.n).sema sem =
          { s.sema sem with value := (s.sema sem).value - w.n, queue := ws } := by
        rw [State.releaseWaiter_sema, State.sema_setSema_same hwf]
      obtain ⟨served, rest, hserved⟩ := ih ((congrArg (mwf Sem.zero) (State.releaseWaiter_sems ..)).trans (State.setSema_wf hwf _ _))
        (congrArg Sem.queue hsame)
      rw [hsame] at hserved
      exact ⟨w :: served, rest, hserved.head hqueue henough⟩
    next hshort =>
      refine ⟨[], w :: ws, .nobody hqueue fun v hv => ?_⟩
      rw [List.head?_cons, Option.mem_some_iff] at hv
      exact hv ▸ Nat.not_le.mp hshort

/-- Settles O26, by the induction over the queue. -/
theorem queueIsServedInOrderWhileTheValueAllows : Obligations.QueueIsServedInOrderWhileTheValueAllows := by
  unfold Obligations.QueueIsServedInOrderWhileTheValueAllows
  intro s sem hwf x y
  obtain ⟨served, rest, hsplit, hqueue, hvalue, hshort, hscope, hsrc⟩ := State.serveQueue_servedTo (sem := sem) hwf rfl
  exact ⟨served, rest, hsplit, hqueue, hvalue, hshort, hscope, hsrc⟩

/-! ### Signals (R312, R315, R317) -/

/-- A semaphore that a signal of `n` has raised, with the record of the release (R302, R312). -/
def Sem.raised (x : Sem) (party scope : Nat) (n : Int) : Sem :=
  { x with value := (x.value + n).toNat, lastScope := min scope 2, lastSrc := party }

/-- The state in which a signal that meets no refusal has raised its semaphore and is counted, before the evaluation (R312). -/
def State.raiseSema (s : State) (party scope sem : Nat) (n : Int) : State :=
  let s1 := s.setSema sem ((s.sema sem).raised party scope n)
  { s1 with sem := { s1.sem with signals := satInc s1.sem.signals } }

/-- No notification slot is armed for a semaphore. -/
def State.UnarmedAt (s : State) (sem : Nat) : Prop :=
  ∀ a ∈ s.sem.ntf, (mget NtfSlot.zero s.sem.ntf a.1).armed = true → (mget NtfSlot.zero s.sem.ntf a.1).sem ≠ sem

section Signals
variable {s : State} {sem : Nat} {src : SigSrc} {n : Int}

theorem State.signalRefusal_of_allowed (hquota : s.quotaOk src sem = true) (hlow : 0 ≤ (s.sema sem).value + n)
    (hhigh : (s.sema sem).value + n ≤ 16777215) : s.signalRefusal src sem n = none := by
  simp only [State.signalRefusal, hquota, not_lt.mpr hlow, show ¬ semMax < (s.sema sem).value + n from not_lt.mpr hhigh, Bool.true_eq_false,
    if_false]

theorem State.applySignal_of_allowed (hquota : s.quotaOk src sem = true) (hlow : 0 ≤ (s.sema sem).value + n)
    (hhigh : (s.sema sem).value + n ≤ 16777215) (party scope : Nat) :
    s.applySignal src party scope sem n = (s.raiseSema party scope sem n).evalSem sem := by
  rw [State.applySignal, State.signalRefusal_of_allowed hquota hlow hhigh]
  rfl

theorem State.applySignal_of_foreign (hquota : s.quotaOk src sem = false) (party scope : Nat) :
    s.applySignal src party scope sem n = s.refuseSignal src sem 2 := by
  rw [State.applySignal, State.signalRefusal, if_pos hquota]

theorem State.refuseSignal_tile_refusals (t : Nat) (o : Origin) (kind : Nat) :
    ((s.refuseSignal (.tile t o) sem kind).tile t).refusals = ((s.tile t).refuse (0x50 + kind) o sem).refusals := by
  have hne : (s.tile t).refuse (0x50 + kind) o sem ≠ Tile.zero := fun h =>
    List.append_ne_nil_of_right_ne_nil _ (List.cons_ne_nil _ _) (congrArg Tile.refusals h)
  exact congrArg Tile.refusals (State.tile_setTile hne)

theorem State.fireNtfs_of_unarmed (hntf : s.UnarmedAt sem) : s.fireNtfs sem = s := by
  refine List.foldlRecOn (motive := fun acc => acc = s) _ _ rfl fun acc hacc a ha => ?_
  subst hacc
  refine if_neg fun hfires => ?_
  simp only [Bool.and_eq_true, decide_eq_true_eq] at hfires
  obtain ⟨⟨harmed, hsem⟩, -⟩ := hfires
  exact hntf a ha harmed hsem

/-- With nobody waiting, nobody observing and no armed slot, an evaluation writes back the semaphore that it reads. -/
theorem State.evalSem_of_nobody (hwf : mwf Sem.zero s.sem.sems = true) (hqueue : (s.sema sem).queue = []) (hobs : (s.sema sem).observers = [])
    (hntf : s.UnarmedAt sem) : s.evalSem sem = s.setSema sem (s.sema sem) := by
  have hback : ({ s.sema sem with observers := [] } : Sem) = s.sema sem := by rw [← hobs]
  have hfire : (s.setSema sem (s.sema sem)).fireNtfs sem = s.setSema sem (s.sema sem) := State.fireNtfs_of_unarmed hntf
  simp only [State.evalSem, hobs, List.filter_nil, List.foldl_nil, hback, hfire, State.sema_setSema_same hwf]
  rw [hqueue, State.serveQueue]

/-- A signal that meets no refusal, where nothing waits for the value: its semaphore holds the raised value and the record of the release,
every other one stands, and the signal is counted. -/
theorem State.applySignal_of_nobody (hquota : s.quotaOk src sem = true) (hlow : 0 ≤ (s.sema sem).value + n)
    (hhigh : (s.sema sem).value + n ≤ 16777215) (hwf : mwf Sem.zero s.sem.sems = true) (hqueue : (s.sema sem).queue = [])
    (hobs : (s.sema sem).observers = []) (hntf : s.UnarmedAt sem) (party scope : Nat) :
    s.applySignal src party scope sem n =
      (s.raiseSema party scope sem n).setSema sem ((s.sema sem).raised party scope n) := by
  have hraised : (s.raiseSema party scope sem n).sema sem = (s.sema sem).raised party scope n := State.sema_setSema_same hwf
  have hwf1 : mwf Sem.zero (s.raiseSema party scope sem n).sem.sems = true := State.setSema_wf hwf _ _
  rw [State.applySignal_of_allowed hquota hlow hhigh, State.evalSem_of_nobody hwf1 (hraised ▸ hqueue) (hraised ▸ hobs) hntf, hraised]

end Signals

/-- Settles O25: a signal by a tile is applied, or refused outside the quota, and a wait takes its value or joins the queue. -/
theorem signalsAndWaitsReachTheirSemaphore : Obligations.SignalsAndWaitsReachTheirSemaphore := by
  unfold Obligations.SignalsAndWaitsReachTheirSemaphore
  refine ⟨fun s i t party scope sem o n e hfirst => ⟨exec_semSignalApply_of_tile hfirst, ?applied, ?refused⟩,
    fun s i t scope sem n st hrange hquota hfirst => ?wait⟩
  case applied =>
    intro hquota hlow hhigh hqueue hobs hntf hwf y
    have hquota1 : (s.takeMsg i).quotaOk (.tile t o) sem = true := hquota
    have hy : y = ((s.takeMsg i).raiseSema party scope sem n).setSema sem ((s.sema sem).raised party scope n) :=
      State.applySignal_of_nobody hquota1 hlow hhigh hwf hqueue hobs hntf party scope
    have hraised : mwf Sem.zero ((s.takeMsg i).raiseSema party scope sem n).sem.sems = true := State.setSema_wf hwf _ _
    rw [hy, State.sema_setSema_same hraised]
    exact ⟨rfl, rfl, rfl, fun m hm => (State.sema_setSema_other hraised hm).trans (State.sema_setSema_other hwf hm), rfl, rfl, rfl⟩
  case refused =>
    intro hquota y
    have hquota1 : (s.takeMsg i).quotaOk (.tile t o) sem = false := hquota
    have hy : y = (s.takeMsg i).refuseSignal (.tile t o) sem 2 := State.applySignal_of_foreign hquota1 party scope
    rw [hy]
    exact ⟨rfl, rfl, State.refuseSignal_tile_refusals t o 2⟩
  case wait =>
    have hquota1 : (s.takeMsg i).quotaOk ((s.takeMsg i).waitSrc t st) sem = true := hquota
    rw [exec_semWaitArrive_of_wait hfirst, State.applyWait_of_allowed hquota1 hrange]
    exact ⟨fun hqueue henough => congrArg Host.Outcome.next (if_pos ⟨hqueue, henough⟩),
      fun hwaits => congrArg Host.Outcome.next (if_neg fun h => hwaits.elim (absurd h.1) (Nat.not_lt.mpr h.2))⟩

end Sys2Proof.Machine
end

section
/-! Notification slots and the doorbells of a function, and what O27 says of them. -/

namespace Sys2Proof.Machine

/-! ### A bit of a word -/

theorem getLsbD_setBit_self {w : Nat} (a : BitVec w) {i : Nat} (hi : i < w) (v : Bool) : (setBit a i v).getLsbD i = v := by
  have hbit : (BitVec.ofNat w (2 ^ i)).getLsbD i = true := by
    rw [BitVec.getLsbD_ofNat, Nat.testBit_two_pow_self, decide_eq_true hi, Bool.and_true]
  cases v
  case true => rw [setBit, if_pos rfl, BitVec.getLsbD_or, hbit, Bool.or_true]
  case false => rw [setBit, if_neg Bool.false_ne_true, BitVec.getLsbD_and, BitVec.getLsbD_not, hbit, Bool.not_true, Bool.and_false, Bool.and_false]

theorem getLsbD_setBit_other {w : Nat} (a : BitVec w) {i k : Nat} (hk : k ≠ i) (v : Bool) : (setBit a i v).getLsbD k = a.getLsbD k := by
  have hbit : (BitVec.ofNat w (2 ^ i)).getLsbD k = false := by
    rw [BitVec.getLsbD_ofNat, Nat.testBit_two_pow_of_ne hk.symm, Bool.and_false]
  cases v
  case true => rw [setBit, if_pos rfl, BitVec.getLsbD_or, hbit, Bool.or_false]
  case false =>
    rw [setBit, if_neg Bool.false_ne_true, BitVec.getLsbD_and, BitVec.getLsbD_not, hbit, Bool.not_false, Bool.and_true, Bool.and_comm]
    exact Bool.and_eq_right_iff_imp.mpr fun h => decide_eq_true (BitVec.lt_of_getLsbD h)

/-- A field that the bit lies outside of is the same after a write of the bit. -/
theorem fld_setBit {w : Nat} (a : BitVec w) {i lo len : Nat} (hout : i < lo ∨ lo + len ≤ i) (v : Bool) :
    fld (setBit a i v).toNat lo len = fld a.toNat lo len := by
  refine Nat.eq_of_testBit_eq fun j => ?_
  simp only [fld, Nat.testBit_mod_two_pow, Nat.testBit_div_two_pow, BitVec.testBit_toNat]
  by_cases hj : j < len
  · rw [getLsbD_setBit_other a (by omega)]
  · rw [decide_eq_false hj, Bool.false_and, Bool.false_and]

/-- A slot armed by word A for function `f` (R327, R330). -/
def NtfSlot.armedBy (n : NtfSlot) (f : Nat) (a : BitVec 64) : NtfSlot :=
  { n with sem := fld a.toNat 0 16, kind := a.getLsbD 16, armed := true, func := f, thresh := fld a.toNat 32 24, fired := 0 }

/-- The state in which entry `j` of the view of function `f` is armed by word A (R327). -/
def State.armNtf (s : State) (f j : Nat) (a : BitVec 64) : State :=
  let m := (s.fn f).ntfFirst + j
  { s with sem := { s.sem with ntf := mput NtfSlot.zero s.sem.ntf m ((mget NtfSlot.zero s.sem.ntf m).armedBy f a).fields } }

section Doorbells
variable {s : State} {f : Nat} (hen : (s.fn f).enabled = true)
include hen

/-! ### The notification view (R327, R481) -/

/-- A slot that is not armed is armed for a semaphore in the function's range whose value is below the threshold. -/
theorem exec_ntfArm_of_below {j : Nat} {a : BitVec 64} (hview : j < (s.fn f).ntfCount)
    (hidle : (mget NtfSlot.zero s.sem.ntf ((s.fn f).ntfFirst + j)).armed = false) (hquota : s.inQuota f (fld a.toNat 0 16) = true)
    (hbelow : (s.sema (fld a.toNat 0 16)).value < fld a.toNat 32 24) :
    exec (.ntfArm f j a) s = .next (s.armNtf f j a) := by
  have hsem : fld (setBit a 17 true).toNat 0 16 = fld a.toNat 0 16 := fld_setBit a (.inr (by decide)) true
  have hthresh : fld (setBit a 17 true).toNat 32 24 = fld a.toNat 32 24 := fld_setBit a (.inl (by decide)) true
  have hkind : (setBit a 17 true).getLsbD 16 = a.getLsbD 16 := getLsbD_setBit_other a (by decide) true
  have harmed : (setBit a 17 true).getLsbD 17 = true := getLsbD_setBit_self a (by decide) true
  change execNtfArm f j a s = _
  rw [execNtfArm, if_pos hen]
  simp only [State.writeNtfA, hsem, hthresh, hkind, harmed, hidle, hquota, Nat.not_le.mpr hview, Bool.not_true, Bool.false_eq_true, if_false]
  exact congrArg Host.Outcome.next (if_neg (Nat.not_le.mpr hbelow))

/-! ### Doorbells (R326, R333, R469, R470, R501) -/

section Ring
variable (hf : f ≠ 0) (hrq : (s.fn f).rqEn = true) {tail : BitVec 16}
include hf hrq

theorem exec_hstDbRing_of_room (hroom : (tail - (s.fn f).rqHead).toNat ≤ 2 ^ (s.fn f).rqLog2n.toNat)
    (hup : ((s.fn f).rqTail - (s.fn f).rqHead).toNat ≤ (tail - (s.fn f).rqHead).toNat) :
    exec (.hstDbRing f tail) s = .next (s.setFn f { s.fn f with rqTail := tail }) := by
  change execHstDbRing f tail s = _
  simp only [execHstDbRing, hf, hen, hrq, Nat.not_lt.mpr hroom, Nat.not_lt.mpr hup, Bool.not_true, Bool.false_eq_true, if_false]

theorem exec_hstDbRing_of_full (hfull : 2 ^ (s.fn f).rqLog2n.toNat < (tail - (s.fn f).rqHead).toNat) :
    exec (.hstDbRing f tail) s = .next (s.setFn f { s.fn f with rejRing := satInc (s.fn f).rejRing }) := by
  change execHstDbRing f tail s = _
  simp only [execHstDbRing, hf, hen, hrq, hfull, Bool.not_true, Bool.false_eq_true, if_false, if_true]

end Ring

theorem exec_hstDbSem_of_enabled (sem : BitVec 16) (amount : BitVec 32) :
    exec (.hstDbSem f sem amount) s = .next (s.sendSignal (.doorbell f) (partyId 4 f) 2 sem.toNat amount.toInt 0) := by
  change execHstDbSem f sem amount s = _
  simp only [execHstDbSem, hen, Bool.not_true, Bool.false_eq_true, if_false]

theorem exec_hstDbInt_of_physical (hf : f = 0) (source : BitVec 11) :
    exec (.hstDbInt f source) s = .next (s.fireFrom source.toNat .host) := by
  have hphysical : ¬ f ≠ 0 := not_not.mpr hf
  change execHstDbInt f source s = _
  simp only [execHstDbInt, hen, hphysical, Bool.not_true, Bool.false_eq_true, if_false]

end Doorbells

/-- Settles O27: a slot is armed, and the doorbells of an enabled function are taken or, on a full ring, refused. -/
theorem notificationsAndDoorbells : Obligations.NotificationsAndDoorbells := by
  unfold Obligations.NotificationsAndDoorbells
  intro s f x hen
  exact ⟨fun j a => exec_ntfArm_of_below hen, fun tail hf hrq => exec_hstDbRing_of_room hen hf hrq,
    fun tail hf hrq => exec_hstDbRing_of_full hen hf hrq, exec_hstDbSem_of_enabled hen, fun source hf => exec_hstDbInt_of_physical hen hf source⟩

end Sys2Proof.Machine
end

section
/-! The request records that the ringmaster reads from a ring, and what O28 says of NEW, CANCEL, PAUSE and RESUME. -/

namespace Sys2Proof.Machine

/-! ### A record is read (R333, R361, R495) -/

/-- The ringmaster reads the next record of a function's ring: a serving job runs, the duty has its owner, the ring is the function's and enabled,
and it holds a record. -/
structure State.ReadsRecord (s : State) (f : Nat) : Prop where
  serves : s.servingRuns = true
  up : s.dutyUp 0 = true
  enabled : (s.fn f).enabled = true
  ring : (s.fn f).rqEn = true
  applied : (s.fn f).disabledPending = false
  waits : (s.fn f).rqHead ≠ (s.fn f).rqTail

/-- The registers of a function of whose ring a record has been read: HEAD has moved on by one. -/
def Fn.recordRead (x : Fn) : Fn := { x with rqHead := x.rqHead + 1 }

/-- The state in which a record of a function's ring has been read, and the duty has recorded it. -/
def State.recordRead (s : State) (f : Nat) : State := (s.setFn f (s.fn f).recordRead).dutyBoundary 0

section Read
variable (s : State) (f : Nat)

@[simp] theorem State.recordRead_serving : (s.recordRead f).serving = s.serving := rfl
@[simp] theorem State.recordRead_time : (s.recordRead f).time = s.time := rfl
@[simp] theorem State.recordRead_tombola (d : Nat) : (s.recordRead f).tombola d = s.tombola d := rfl

end Read

section Records
variable {s : State} {f : Nat}

theorem State.takeRecord_of_reads (h : s.ReadsRecord f) : s.takeRecord f = some (s.recordRead f) := by
  obtain ⟨hserves, hup, henabled, hring, happlied, hwaits⟩ := h
  exact if_pos (by simp [hserves, hup, henabled, hring, happlied, hwaits])

/-! ### Requests in the queue (R336, R348) -/

theorem State.queueRequest_of_valid {r : ReqRec} {samp : List Byte} {resumeOf : Option Nat} (hok : s.requestOk f r samp resumeOf.isSome = true)
    (toks : List (BitVec 32)) : s.queueRequest f r samp toks resumeOf =
      s.setServing fun v => { v with queue := v.queue ++ [s.newRequest f r samp toks resumeOf] } := if_pos hok

theorem State.queueRequest_of_invalid {r : ReqRec} {samp : List Byte} {resumeOf : Option Nat} (hbad : s.requestOk f r samp resumeOf.isSome = false)
    (toks : List (BitVec 32)) : s.queueRequest f r samp toks resumeOf =
      s.setServing fun v => { v with answers := v.answers ++ [(f, r, 11)] } := if_neg (hbad ▸ Bool.false_ne_true)

/-- Where no sequence runs and one request is queued, the request of its name is that one. -/
theorem State.onRequest_of_only_queued {q : Request} (hseqs : s.serving.seqs = []) (hqueue : s.serving.queue = [q]) (g : Request → Request) :
    s.onRequest q.fn q.r.rid g = some (s.setServing fun v => { v with queue := [g q] }) := by
  have hnamed : q.named q.fn q.r.rid = true := by simp [Request.named]
  simp [State.onRequest, hseqs, hqueue, hnamed, State.setServing]

theorem State.onRequest_of_nobody (hseqs : s.serving.seqs = []) (hqueue : s.serving.queue = []) (htails : s.serving.tails = []) (rid : BitVec 32)
    (g : Request → Request) : s.onRequest f rid g = none := by
  simp [State.onRequest, hseqs, hqueue, htails]

/-! ### What the records do (R336, R347, R353, R354) -/

variable (h : s.ReadsRecord f)
include h

theorem exec_newReq_of_read (r : ReqRec) (samp : List Byte) (toks : List (BitVec 32)) :
    exec (.newReq f r samp toks) s = .next ((s.recordRead f).queueRequest f r samp toks none) := by
  change execNewReq f r samp toks s = _
  simp only [execNewReq, State.takeRecord_of_reads h]

theorem exec_cancel_of_read (rid : BitVec 32) : exec (.cancel f rid) s =
    .next (((s.recordRead f).onRequest f rid fun q => { q with cancelled := some s.time.toNat }).getD ((s.recordRead f).unknownRecord f)) := by
  change execCancel f rid s = _
  simp only [execCancel, State.takeRecord_of_reads h, State.recordRead_time]

/-- No sequence is being parked, and the time-to-live is in range. -/
theorem exec_pause_of_read {ttl : BitVec 17} (hseqs : s.serving.seqs = []) (hmin : 1 ≤ ttl.toNat) (hmax : ttl.toNat ≤ 86400) (rid : BitVec 32) :
    exec (.pause f rid ttl) s = .next (((s.recordRead f).onRequest f rid fun q => { q with pauseAt := some (s.time.toNat, ttl.toNat) }).getD
      ((s.recordRead f).unknownRecord f)) := by
  have hpos : ttl.toNat ≠ 0 := by omega
  change execPause f rid ttl s = _
  simp only [execPause, State.takeRecord_of_reads h, State.recordRead_serving, State.recordRead_time, hseqs, List.any_nil, hpos, Nat.not_lt.mpr hmax,
    decide_false, Bool.or_self, Bool.false_eq_true, if_false]

/-- A RESUME of the first parked conversation, before its time-to-live is over: it is taken, and its resumption queued. -/
theorem exec_resume_of_parked {r : ReqRec} {samp : List Byte} {p : Parked} {rest : List Parked} (hparked : s.serving.parked = p :: rest)
    (hhandle : p.handle = r.handle.toNat) (hfn : p.fn = f) (hfree : p.taken = false) (hlive : s.time.toNat < p.expires)
    (hok : (s.recordRead f).requestOk f r samp true = true) (hothers : ∀ q ∈ rest, q.handle ≠ p.handle) (toks : List (BitVec 32)) :
    exec (.resume f r samp toks) s = .next ((s.recordRead f).setServing fun v => { v with
      queue := v.queue ++ [(s.recordRead f).newRequest f r samp toks (some p.handle)], parked := { p with taken := true } :: rest }) := by
  have hfound : (s.recordRead f).serving.parked.find? (fun q => decide (q.handle = r.handle.toNat) && decide (q.fn = f)) = some p := by
    rw [State.recordRead_serving, hparked, List.find?_cons_of_pos (by simp [hhandle, hfn])]
  have hqueued := State.queueRequest_of_valid (resumeOf := some r.handle.toNat) hok toks
  have hlonger : (s.serving.queue ++ [(s.recordRead f).newRequest f r samp toks (some r.handle.toNat)]).length ≠ s.serving.queue.length := by simp
  have hrest : rest.map (fun q => if q.handle = r.handle.toNat then { q with taken := true } else q) = rest :=
    (List.map_congr_left fun q hq => if_neg (hhandle ▸ hothers q hq)).trans (List.map_id' rest)
  change execResume f r samp toks s = _
  simp only [execResume, State.takeRecord_of_reads h, hfound, hfree, State.recordRead_time, Nat.not_le.mpr hlive, hqueued, Bool.false_eq_true, if_false]
  simp only [State.setServing, State.recordRead_serving, hlonger, if_false, hparked, List.map_cons, hhandle, if_true, hrest]

end Records

/-- Settles O28, record by record, in the state in which the ringmaster has read it. -/
theorem requestRecordsAreTaken : Obligations.RequestRecordsAreTaken := by
  unfold Obligations.RequestRecordsAreTaken
  intro s f x s1 hserves hup henabled hring happlied hwaits
  have h : s.ReadsRecord f := ⟨hserves, hup, henabled, hring, happlied, hwaits⟩
  have hread : s1 = s.recordRead f := rfl
  clear_value s1
  subst hread
  refine ⟨fun r samp toks => ⟨?valid, ?invalid⟩, ?noted, ?unknown, ?resumed⟩
  case valid =>
    intro hok
    rw [exec_newReq_of_read h, State.queueRequest_of_valid (resumeOf := none) hok]
    rfl
  case invalid =>
    intro hbad
    rw [exec_newReq_of_read h, State.queueRequest_of_invalid (resumeOf := none) hbad]
    rfl
  case noted =>
    rintro q hseqs hqueue rfl
    have hnoted (g : Request → Request) := State.onRequest_of_only_queued (s := s.recordRead q.fn) hseqs hqueue g
    refine ⟨?_, fun ttl hmin hmax => ?_⟩
    · rw [exec_cancel_of_read h, hnoted]
      rfl
    · rw [exec_pause_of_read h hseqs hmin hmax, hnoted]
      rfl
  case unknown =>
    intro rid hseqs hqueue htails
    rw [exec_cancel_of_read h, State.onRequest_of_nobody (s := s.recordRead f) hseqs hqueue htails]
    rfl
  case resumed =>
    intro r samp toks p rest hparked hhandle hfn hfree hlive hok hothers
    exact exec_resume_of_parked h hparked hhandle hfn hfree hlive hok hothers toks

end Sys2Proof.Machine
end

section
/-! Adapter slots and host choices, and what O29 says of them. -/

namespace Sys2Proof.Machine

/-! ### Slots (R355) -/

/-- A write of a slot that is not free reads back, whatever the other slots. -/
theorem State.adSlot_setAdSlot_of_ne {s : State} {i : Nat} {x : AdSlot} (hx : x ≠ AdSlot.zero) : (s.setAdSlot i x).adSlot i = x :=
  mget_mput_ne hx i

theorem State.adSlot_of_no_slots {s : State} (h : s.serving.slots = []) (i : Nat) : s.adSlot i = AdSlot.zero := by
  rw [State.adSlot, h, mget]

section Adapters
variable {s : State} {f : Nat} (h : s.ReadsRecord f)
include h

/-- A ring that is read is enabled, so its function's registers are not those of its reset. -/
theorem State.recordRead_fn : (s.recordRead f).fn f = (s.fn f).recordRead := by
  have hlisted : (s.fn f).recordRead ≠ Fn.zero f := fun hzero =>
    Bool.noConfusion (h.ring.symm.trans (show (s.fn f).rqEn = false from congrArg Fn.rqEn hzero))
  exact State.fn_setFn_same_of_ne (s := s) hlisted

/-! ### Adapters (R356, R359) -/

/-- Where no slot is in use and the tenant may have one, the lowest slot takes the adapter (log entry 37). -/
theorem exec_adapterLoad_of_no_slots {r : ReqRec} (hslots : s.serving.slots = []) (hadapter : r.adapter ≠ 0) (hversion : r.version ≠ 0)
    (hquota : fld (s.fn f).quotaA.toNat 16 11 ≠ 0) : exec (.adapterLoad f r) s =
      .next ((s.recordRead f).setAdSlot 0 { AdSlot.zero with
        tenant := f, adapter := r.adapter.toNat, version := r.version.toNat, state := 1, switchNow := r.switchNow, loader := some (r, f) }) := by
  have hnone : (s.recordRead f).serving.slots = [] := hslots
  have hadapter' : r.adapter.toNat ≠ 0 := fun h0 => hadapter (BitVec.eq_of_toNat_eq h0)
  have hversion' : r.version.toNat ≠ 0 := fun h0 => hversion (BitVec.eq_of_toNat_eq h0)
  have hroom : ¬ fld ((s.recordRead f).fn f).quotaA.toNat 16 11 ≤ (s.recordRead f).slotsOf f := by
    rw [State.recordRead_fn h, State.slotsOf, hnone]
    exact Nat.not_le.mpr (Nat.pos_of_ne_zero hquota)
  have hfree : (List.range 1024).find? (fun i => decide (((s.recordRead f).adSlot i).state = 0)) = some 0 := by
    rw [List.range_succ_eq_map, List.find?_cons_of_pos (by rw [State.adSlot_of_no_slots hnone]; rfl)]
  change execAdapterLoad f r s = _
  simp only [execAdapterLoad, State.takeRecord_of_reads h, hnone, List.any_nil, hadapter', hversion', decide_false, Bool.or_self,
    Bool.false_eq_true, hroom, if_false, hfree]

/-- The READY slot of the version is retired: the retirement is noted in the slot, and the record waits for its answer. -/
theorem exec_adapterRetire_of_ready {r : ReqRec} {i : Nat}
    (hready : (s.recordRead f).readySlot f r.adapter.toNat (max 1 r.version.toNat) = some i) : exec (.adapterRetire f r) s =
      .next (((s.recordRead f).setAdSlot i { (s.recordRead f).adSlot i with retireAt := some s.time.toNat }).setServing fun v =>
        { v with retires := v.retires ++ [(f, r)] }) := by
  change execAdapterRetire f r s = _
  simp only [execAdapterRetire, State.takeRecord_of_reads h, hready, State.recordRead_time]

/-! ### Host choices (R388) -/

/-- The choice of the host is taken by the first sequence, which waits for it. -/
theorem exec_hostChoice_of_waiting {e : SeqEntry} {rest : List (Nat × SeqEntry)} {i : Nat} {choice lstep : BitVec 32}
    (hseqs : s.serving.seqs = (i, e) :: rest) (hfn : e.req.fn = f) (hwaiting : e.waiting = true) (hstep : e.lstep = lstep.toNat)
    (hvocab : choice.toNat < (s.tombola 0).vocab) : exec (.hostChoice f e.req.r.rid choice lstep) s =
      .next ((s.recordRead f).setSeq i { e with choice := some choice, waiting := false }) := by
  have hfound : (s.recordRead f).serving.seqs.find? (fun q => decide (q.2.req.fn = f) && decide (q.2.req.r.rid = e.req.r.rid)) = some (i, e) := by
    rw [State.recordRead_serving, hseqs, List.find?_cons_of_pos (by simp [hfn])]
  change execHostChoice f e.req.r.rid choice lstep s = _
  simp only [execHostChoice, State.takeRecord_of_reads h, hfound, hwaiting, hstep, State.recordRead_tombola, hvocab, decide_true, Bool.and_self,
    if_true]

end Adapters

/-! ### The copy of an adapter image (R357) -/

/-- The checks of the copied image hold: its payload is stored in the slot's place of Lodge memory, and the slot is READY. -/
theorem exec_adapterReady_of_ok {s : State} {i : Nat} {img : AdapterImage} {payload : List Byte} (hloading : (s.adSlot i).state = 1)
    (hok : s.adapterOk (s.adSlot i) img payload = true) : exec (.adapterReady i img payload) s =
      .next ((s.lodgeWrite (s.imageField 0x09 0x18 7 % 2 ^ 52 + i * s.imageField 0x09 0x14 4) payload).setAdSlot i
        { s.adSlot i with state := 2, rank := adRank img, readyAt := some s.time.toNat, answer := some 12 }) := by
  change execAdapterReady i img payload s = _
  simp only [execAdapterReady, hloading, hok, ne_eq, not_true_eq_false, if_false, if_true]

/-- Settles O29: a load of the first adapter, the retirement of a READY one, the choice that a sequence waits for, and an image that passes its
checks. -/
theorem adapterSlotsAndHostChoices : Obligations.AdapterSlotsAndHostChoices := by
  unfold Obligations.AdapterSlotsAndHostChoices
  intro s f x s1 reads
  have hreads : reads → s.ReadsRecord f := fun ⟨hserves, hup, henabled, hring, happlied, hwaits⟩ =>
    ⟨hserves, hup, henabled, hring, happlied, hwaits⟩
  have hread : s1 = s.recordRead f := rfl
  clear_value s1 reads
  subst hread
  refine ⟨?loaded, ?retired, ?chosen, ?ready⟩
  case loaded =>
    intro r h hslots hadapter hversion hquota
    exact exec_adapterLoad_of_no_slots (hreads h) hslots hadapter hversion hquota
  case retired =>
    intro r i h hready
    have hnoted : ({ (s.recordRead f).adSlot i with retireAt := some s.time.toNat } : AdSlot) ≠ AdSlot.zero :=
      fun hzero => Option.some_ne_none _ (congrArg AdSlot.retireAt hzero)
    exact ⟨_, exec_adapterRetire_of_ready (hreads h) hready, State.adSlot_setAdSlot_of_ne hnoted, rfl⟩
  case chosen =>
    intro choice lstep e rest i h hseqs hfn hwaiting hstep hvocab
    exact exec_hostChoice_of_waiting (hreads h) hseqs hfn hwaiting hstep hvocab
  case ready =>
    intro i img payload hloading _ hok
    have hused : ({ s.adSlot i with state := 2, rank := adRank img, readyAt := some s.time.toNat, answer := some 12 } : AdSlot) ≠ AdSlot.zero :=
      fun hzero => Option.some_ne_none _ (congrArg AdSlot.answer hzero)
    refine ⟨_, exec_adapterReady_of_ok hloading hok, ?_⟩
    rw [State.adSlot_setAdSlot_of_ne hused]
    exact ⟨rfl, rfl, rfl⟩

end Sys2Proof.Machine
end

section
/-! Host-DMA commands, and the resets and enables of functions: what O42 says of them. -/

namespace Sys2Proof.Machine

/-! ### A host-DMA command (R477) -/

/-- The host address of a host-DMA command's item. -/
def RegCmd.hostAddr (c : RegCmd) : Nat := byteField (toBytes 256 c.item.toNat) 0 8

/-- The device address of a host-DMA command's item. -/
def RegCmd.deviceAddr (c : RegCmd) : Nat := byteField (toBytes 256 c.item.toNat) 8 7

/-- The number of bytes that a host-DMA command's item asks for. -/
def RegCmd.bytes (c : RegCmd) : Nat := byteField (toBytes 256 c.item.toNat) 0x10 4

/-- Whether a host-DMA command writes host memory. -/
def RegCmd.toHost (c : RegCmd) : Bool := (byteField (toBytes 256 c.item.toNat) 0x14 1).testBit 0

/-- The granules of device memory that a host-DMA command accesses. -/
def RegCmd.granules (c : RegCmd) : List Nat := granulesOf c.deviceAddr c.bytes

/-- The bytes that a host-DMA command transfers: those before the address that was refused, where one was (R479). -/
def RegCmd.reach (c : RegCmd) : Option Nat → Nat
  | some a => min c.bytes (a - c.hostAddr)
  | none => c.bytes

/-- Every page of host memory that a host-DMA command reaches before `limit` is translated, where the job's owner asks for translations (R474). -/
def State.PagesTranslated (s : State) (c : RegCmd) (limit : Nat) : Prop :=
  ∀ p ∈ pagePieces c.hostAddr (List.replicate c.bytes 0), p.1 < limit → (s.fn s.job.owner).ats = true →
    s.translated s.job.owner p.1 c.toHost = true

theorem State.no_cold_page {s : State} {c : RegCmd} {limit : Nat} (h : s.PagesTranslated c limit) :
    ((pagePieces c.hostAddr (List.replicate c.bytes 0)).filter fun p => decide (p.1 < limit)).find?
      (fun p => (s.fn s.job.owner).ats && !s.translated s.job.owner p.1 c.toHost) = none := by
  refine List.find?_eq_none.mpr fun p hp => ?_
  obtain ⟨hpage, hlimit⟩ := List.mem_filter.mp hp
  have hcold := h p hpage (of_decide_eq_true hlimit)
  cases hats : (s.fn s.job.owner).ats
  case false => simp
  case true => simp [hcold hats]

/-- A command whose accesses have been asked of the stack controllers, or which has none there, asks for nothing more (R203). -/
theorem Region.asks_nothing {r : Region} {c : RegCmd} (h : r.hdmaAsked = true ∨ spaceOf c.deviceAddr ≠ 0) :
    (!r.hdmaAsked && decide (spaceOf c.deviceAddr = 0)) = false := by
  rcases h with hasked | hspace
  · rw [hasked, Bool.not_true, Bool.false_and]
  · rw [decide_eq_false hspace, Bool.and_false]

/-- A transfer to the host of the first `most` bytes of a command, in granules with their poison (R478, R479, R492). -/
def State.hdmaOut (s : State) (n : Nat) (c : RegCmd) (most : Nat) : State :=
  let g := s.fetchGranules (granulesOf c.deviceAddr most)
  let t := (granulePieces c.deviceAddr (memRead g.2.1 c.deviceAddr most)).foldl (fun acc p =>
    acc.hostWrite s.job.owner (c.hostAddr + (p.1 - c.deviceAddr)) p.2 (g.2.2.contains (p.1 / 64)) none) g.1
  if most < c.bytes then t.hdmaStop n (c.hostAddr + most) else t.hdmaDone n c []

/-- A transfer of the bytes that the host has answered, which ends the command where they are all that it asked for (R478, R479, R492). -/
def State.hdmaIn (s : State) (n : Nat) (c : RegCmd) (bs : List Byte) (ep : Bool) : State :=
  let t := s.performPieces [(c.deviceAddr, bs, 0xFF)] fun _ => ep
  let u := if ep then t.hostError s.job.owner 4 0 (detailAddr c.hostAddr) false else t
  if bs.length < c.bytes then u.hdmaStop n (c.hostAddr + bs.length) else u.hdmaDone n c [(c.deviceAddr, bs, 0xFF)]

/-- The bytes of a transfer from the host, in the device memory that they are for. -/
def State.hdmaStored (s : State) (c : RegCmd) (bs : List Byte) : State := s.performPieces [(c.deviceAddr, bs, 0xFF)] fun _ => false

theorem State.hdmaIn_of_all {s : State} {n : Nat} {c : RegCmd} {bs : List Byte} (h : c.bytes ≤ bs.length) :
    s.hdmaIn n c bs false = (s.hdmaStored c bs).hdmaDone n c [(c.deviceAddr, bs, 0xFF)] := if_neg (Nat.not_lt.mpr h)

theorem State.hdmaIn_of_part {s : State} {n : Nat} {c : RegCmd} {bs : List Byte} (h : bs.length < c.bytes) :
    s.hdmaIn n c bs false = (s.hdmaStored c bs).hdmaStop n (c.hostAddr + bs.length) := if_pos h

section HostDma
variable {s : State} {n : Fin 8} {c : RegCmd} {rest : List RegCmd}

theorem exec_hdmaCmdAccept_of_room (hport : (s.region n.val).hdmaPort = c :: rest) (hroom : (s.region n.val).hdmaQ.length < 32) :
    exec (.hdmaCmdAccept n) s = .next ((s.hdmaTurn n.val { s.region n.val with
      hdmaPort := rest, hdmaQ := (s.region n.val).hdmaQ ++ [c], hdmaSleep := wakeOf (s.region n.val).hdmaSleep }).landed c.tile c.effId) := by
  change execHdmaCmdAccept n s = _
  simp only [execHdmaCmdAccept, hport, Nat.not_le.mpr hroom, if_false]

/-! ### The command at the head of an engine's queue (R477 to R479, R492) -/

variable (hq : (s.region n.val).hdmaQ = c :: rest) (hawake : (s.region n.val).hdmaSleep = .awake) (hup : s.unitUp (unitId 3 n.val) = true)
include hq hawake hup

theorem exec_hdmaCmdComplete_of_nothing (hlen : c.bytes = 0) (data : List Byte) (ep : Bool) :
    exec (.hdmaCmdComplete n data ep) s = .next (s.hdmaDone n.val c []) := by
  change execHdmaCmdComplete n data ep s = _
  unfold RegCmd.bytes at hlen
  simp only [execHdmaCmdComplete, hq, hawake, hup, hlen, ne_eq, not_true_eq_false, decide_false, Bool.not_true, Bool.or_self, Bool.false_eq_true,
    if_false, if_true]

variable (hlen : c.bytes ≠ 0)
include hlen

theorem exec_hdmaCmdComplete_of_unasked (hasked : (s.region n.val).hdmaAsked = false) (hspace : spaceOf c.deviceAddr = 0)
    (data : List Byte) (ep : Bool) : exec (.hdmaCmdComplete n data ep) s =
      .next ((s.setRegion n.val { s.region n.val with hdmaAsked := true }).askStacks (unitId 3 n.val) c.granules) := by
  change execHdmaCmdComplete n data ep s = _
  unfold RegCmd.granules RegCmd.deviceAddr RegCmd.bytes at *
  simp only [execHdmaCmdComplete, hq, hawake, hup, hlen, hasked, hspace, ne_eq, not_true_eq_false, decide_false, decide_true, Bool.not_true,
    Bool.not_false, Bool.and_self, Bool.or_self, Bool.false_eq_true, if_false, if_true]

section Served
variable (hasked : (s.region n.val).hdmaAsked = true ∨ spaceOf c.deviceAddr ≠ 0) (hanswered : s.stacksAnswered (unitId 3 n.val) = true)
  (hopen : s.stacksOpen c.granules = true)
include hasked hanswered hopen

theorem exec_hdmaCmdComplete_of_inactive (hfn : s.fnActive s.job.owner = false) (data : List Byte) (ep : Bool) :
    exec (.hdmaCmdComplete n data ep) s = .next (s.hdmaStop n.val c.hostAddr) := by
  have hask := Region.asks_nothing hasked
  change execHdmaCmdComplete n data ep s = _
  unfold RegCmd.granules RegCmd.deviceAddr RegCmd.bytes at *
  simp only [execHdmaCmdComplete, hq, hawake, hup, hlen, hask, hanswered, hopen, hfn, ne_eq, not_true_eq_false, decide_false, Bool.not_true,
    Bool.not_false, Bool.or_self, Bool.false_eq_true, if_false, if_true]
  rfl

/-- A function that may reach host memory, with its pages translated: the command moves its bytes, to the host or, once the port of their tile is
open, from it. -/
theorem exec_hdmaCmdComplete_of_translated (hfn : s.fnActive s.job.owner = true)
    (hpages : s.PagesTranslated c ((s.region n.val).hdmaDenied.getD (c.hostAddr + c.bytes))) (data : List Byte) (ep : Bool) :
    exec (.hdmaCmdComplete n data ep) s = .next (
      if c.toHost then s.hdmaOut n.val c (c.reach (s.region n.val).hdmaDenied)
      else if !s.portOpen c.deviceAddr then s.wakePort c.deviceAddr
      else s.hdmaIn n.val c (data.take (c.reach (s.region n.val).hdmaDenied)) ep) := by
  have hask := Region.asks_nothing hasked
  have hcold := State.no_cold_page hpages
  change execHdmaCmdComplete n data ep s = _
  unfold RegCmd.granules RegCmd.deviceAddr RegCmd.bytes RegCmd.hostAddr RegCmd.toHost at *
  simp only [execHdmaCmdComplete, hq, hawake, hup, hlen, hask, hanswered, hopen, hfn, hcold, ne_eq, not_true_eq_false, decide_false, Bool.not_true,
    Bool.or_self, Bool.false_eq_true, if_false]
  rfl

section Unrefused
variable (hfn : s.fnActive s.job.owner = true) (hdenied : (s.region n.val).hdmaDenied = none)
  (hpages : ∀ p ∈ pagePieces c.hostAddr (List.replicate c.bytes 0), (s.fn s.job.owner).ats = true → s.translated s.job.owner p.1 c.toHost = true)
include hfn hdenied hpages

theorem exec_hdmaCmdComplete_to_host (hout : c.toHost = true) (data : List Byte) (ep : Bool) :
    exec (.hdmaCmdComplete n data ep) s = .next (s.hdmaOut n.val c c.bytes) := by
  rw [exec_hdmaCmdComplete_of_translated hq hawake hup hlen hasked hanswered hopen hfn fun p hp _ => hpages p hp, hdenied, if_pos hout]
  rfl

section FromHost
variable (hin : c.toHost = false) (hport : s.portOpen c.deviceAddr = true) {data : List Byte}
include hin hport

theorem exec_hdmaCmdComplete_from_host :
    exec (.hdmaCmdComplete n data false) s = .next (s.hdmaIn n.val c (data.take c.bytes) false) := by
  rw [exec_hdmaCmdComplete_of_translated hq hawake hup hlen hasked hanswered hopen hfn fun p hp _ => hpages p hp, hdenied, hin, hport]
  rfl

/-- The host has answered every byte. -/
theorem exec_hdmaCmdComplete_of_all (hall : c.bytes ≤ data.length) : exec (.hdmaCmdComplete n data false) s =
    .next ((s.hdmaStored c (data.take c.bytes)).hdmaDone n.val c [(c.deviceAddr, data.take c.bytes, 0xFF)]) := by
  rw [exec_hdmaCmdComplete_from_host hq hawake hup hlen hasked hanswered hopen hfn hdenied hpages hin hport,
    State.hdmaIn_of_all (List.length_take_of_le hall).ge]

/-- The host has answered fewer bytes: it refused the address after them. -/
theorem exec_hdmaCmdComplete_of_short (hshort : data.length < c.bytes) : exec (.hdmaCmdComplete n data false) s =
    .next ((s.hdmaStored c (data.take c.bytes)).hdmaStop n.val (c.hostAddr + data.length)) := by
  rw [exec_hdmaCmdComplete_from_host hq hawake hup hlen hasked hanswered hopen hfn hdenied hpages hin hport,
    List.take_of_length_le hshort.le, State.hdmaIn_of_part hshort]

end FromHost

end Unrefused

/-- The bytes before a refused host address are transferred, and the command stops there. -/
theorem exec_hdmaCmdComplete_of_refused (hfn : s.fnActive s.job.owner = true) {a : Nat} (hdenied : (s.region n.val).hdmaDenied = some a)
    (hfirst : c.hostAddr ≤ a) (hlast : a < c.hostAddr + c.bytes) (hin : c.toHost = false) (hport : s.portOpen c.deviceAddr = true)
    (hpages : s.PagesTranslated c a) {data : List Byte} (hdata : a - c.hostAddr ≤ data.length) :
    exec (.hdmaCmdComplete n data false) s = .next ((s.hdmaStored c (data.take (a - c.hostAddr))).hdmaStop n.val a) := by
  have hreach : c.reach (some a) = a - c.hostAddr := Nat.min_eq_right (by omega)
  have hmoved : (data.take (a - c.hostAddr)).length = a - c.hostAddr := List.length_take_of_le hdata
  rw [exec_hdmaCmdComplete_of_translated hq hawake hup hlen hasked hanswered hopen hfn (by rwa [hdenied]), hdenied, hin, hport, hreach]
  refine congrArg Host.Outcome.next ((State.hdmaIn_of_part (by omega)).trans ?_)
  rw [hmoved, Nat.add_sub_cancel' hfirst]

end Served
end HostDma

/-! ### Jobs that end (R395, R409) -/

theorem foldl_job {α : Type} {g : State → α → State} (hg : ∀ s a, (g s a).job = s.job) (l : List α) (s : State) : (l.foldl g s).job = s.job :=
  List.foldlRecOn (motive := fun t => t.job = s.job) l g rfl fun _ ht a _ => (hg _ a).trans ht

section Job
variable (s : State)

@[simp] theorem State.msix_job (f v : Nat) : (s.msix f v).job = s.job := by
  unfold State.msix
  split_ifs <;> rfl

@[simp] theorem State.hostEvent_job (bit : Nat) : (s.hostEvent bit).job = s.job := by
  unfold State.hostEvent
  split
  · rfl
  · rw [State.msix_job]

@[simp] theorem State.allow_job (u st : Nat) : (s.allow u st).job = s.job := by
  simp only [State.allow, State.hostEvent_job]
  split <;> rfl

@[simp] theorem State.liveEnd_job (result : Nat) : (s.liveEnd result).job = s.job := State.hostEvent_job _ 4

@[simp] theorem State.retireEngine_job (u : Nat) : (s.retireEngine u).job = s.job := by
  rw [State.retireEngine, State.liveEnd_job, State.allow_job, State.setStack_job]

@[simp] theorem State.retirePending_job : s.retirePending.job = s.job := by
  unfold State.retirePending
  split
  · split
    · rw [State.retireEngine_job]
    · rfl
  · rfl

@[simp] theorem State.setRange_job (f : Nat) (b : Reg64) : (s.setRange f b).job = s.job := rfl

@[simp] theorem State.applyQuotas_job (atEnd : Bool) : (s.applyQuotas atEnd).job = s.job := by
  refine foldl_job (fun acc e => ?_) s.fns s
  dsimp only
  split <;> split
  · split <;> rfl
  · split <;> rfl
  · rfl
  · rfl

@[simp] theorem State.stopTiles_job : s.stopTiles.job = s.job := by
  have hleft (acc : State) (e : Nat × Tile) : (acc.setTile e.1 { acc.tile e.1 with active := false }).job = acc.job := rfl
  exact foldl_job hleft _ _

theorem State.endJob_job (cause : Nat) :
    (s.endJob cause).job = { s.job with state := 5, cause := BitVec.ofNat 4 cause, tearing := none } := by
  simp only [State.endJob]
  split
  · split
    · rw [State.liveEnd_job, State.applyQuotas_job, State.stopTiles_job]
    · rw [State.retirePending_job, State.applyQuotas_job, State.stopTiles_job]
  · rw [State.applyQuotas_job, State.stopTiles_job]

end Job

/-- A teardown that was asked for leaves its job ENDED, with the cause that was asked for. -/
theorem State.teardown_job {s : State} {c : BitVec 4} (h : s.job.tearing = some c) :
    s.teardown.job.state = 5 ∧ s.teardown.job.cause = c := by
  simp only [State.teardown, h, State.msix_job, State.endJob_job, BitVec.ofNat_toNat, BitVec.setWidth_eq, and_self]

theorem State.requestTeardown_of_live {s : State} (hlive : s.jobLive = true) (hfirst : s.job.tearing = none) (cause : Nat) (tile : Option Nat) :
    s.requestTeardown cause tile = { s with job := { s.job with tearing := some (BitVec.ofNat 4 cause), haltTile := tile } } := by
  have hstate : ¬ (s.job.tearing.isSome ∨ s.job.state = 0 ∨ s.job.state = 5) := by
    simp only [State.jobLive, Bool.and_eq_true, decide_eq_true_eq] at hlive
    rw [hfirst]
    rintro (h | h | h)
    · exact Bool.noConfusion h
    · omega
    · omega
  exact if_neg hstate

/-! ### A virtual function is enabled and reset (R360, R361, R482) -/

/-- The registers of a virtual function after its reset: those that the physical function holds stay. -/
def Fn.afterReset (y : Fn) (f : Nat) : Fn :=
  { Fn.zero f with
    busMaster := y.busMaster, ats := y.ats, disabledPending := y.disabledPending, quotaA := y.quotaA, quotaB := y.quotaB
    quotaPendA := y.quotaPendA, quotaPendB := y.quotaPendB, sapValid := y.sapValid, sapRonly := y.sapRonly, sapLog2 := y.sapLog2
    sapBase := y.sapBase }

/-- A virtual function that is stopped, with its registers reset. -/
def State.fnReset (s : State) (f : Nat) : State := (s.stopFunction f).setFn f (((s.stopFunction f).fn f).afterReset f)

@[simp] theorem State.fnReset_job (s : State) (f : Nat) : (s.fnReset f).job = s.job := rfl

theorem State.vfReset_of_no_job {s : State} (h : s.jobLive = false) (f : Nat) : s.vfReset f = s.fnReset f := by
  have hreset : ((s.fnReset f).jobLive && decide ((s.fnReset f).job.owner = f) && !(s.fnReset f).servingRuns) = false := by
    change (s.jobLive && decide (s.job.owner = f) && !s.servingRuns) = false
    rw [h, Bool.false_and, Bool.false_and]
  exact if_neg (Bool.eq_false_iff.mp hreset)

/-- A job of the function other than a serving one is torn down with cause 3. -/
theorem State.vfReset_of_own_job {s : State} {f : Nat} (hlive : s.jobLive = true) (hown : s.job.owner = f) (hserves : s.servingRuns = false) :
    s.vfReset f = (s.fnReset f).requestTeardown 3 none := by
  have hreset : ((s.fnReset f).jobLive && decide ((s.fnReset f).job.owner = f) && !(s.fnReset f).servingRuns) = true := by
    change (s.jobLive && decide (s.job.owner = f) && !s.servingRuns) = true
    simp [hlive, hown, hserves]
  exact if_pos hreset

section Virtual
variable {s : State} {f : Nat} (h1 : 1 ≤ f) (h2 : f ≤ 4096)
include h1 h2

theorem exec_vfFlr_of_virtual : exec (.vfFlr f) s = .next (s.vfReset f) := by
  have hf : ¬ (f = 0 ∨ 4096 < f) := by omega
  change execVfFlr f s = _
  rw [execVfFlr, if_neg hf]

/-- A function that has its run of notification slots keeps it when it is enabled. -/
theorem exec_functionEnable_of_slots (hslots : (s.fn f).ntfCount ≠ 0) :
    exec (.functionEnable f) s = .next (s.setFn f { s.fn f with enabled := true }) := by
  have hf : ¬ (f = 0 ∨ 4096 < f) := by omega
  have hlisted : ({ s.fn f with enabled := true } : Fn) ≠ Fn.zero f :=
    fun hzero => hslots (show (s.fn f).ntfCount = 0 from congrArg Fn.ntfCount hzero)
  have hkept : ((s.setFn f { s.fn f with enabled := true }).fn f).ntfCount ≠ 0 := by
    rw [State.fn_setFn_same_of_ne hlisted]
    exact hslots
  change execFunctionEnable f s = _
  rw [execFunctionEnable, if_neg hf, State.assignNtf, if_pos hkept]

end Virtual

/-! ### A reset of the physical function (R482, R483) -/

/-- Job control without the address of its image and its vector, which stand in window 0. -/
def Job.withoutImage (j : Job) : Job := { j with imgAddr := 0, jobVec := 0 }

theorem State.resetWindow0_job (s : State) : s.resetWindow0.job = s.job.withoutImage := by
  have hquotas (acc : State) (e : Nat × Fn) : (acc.setFn e.1 { acc.fn e.1 with
      quotaA := 0, quotaPendA := none, sapValid := false, sapRonly := false, sapLog2 := 0x14#6, sapBase := 0 }).job = acc.job := rfl
  have hranges (acc : State) (e : Nat × Fn) : (if e.1 = 0 then acc else acc.setRange e.1 0).job = acc.job := by split <;> rfl
  refine (congrArg Job.withoutImage ?_ : Job.withoutImage _ = s.job.withoutImage)
  exact (foldl_job hranges _ _).trans ((foldl_job hquotas _ _).trans (State.setFn_job s 0 _))

/-- The state in which the job is torn down and every enabled virtual function reset. -/
def State.tornForFlr (s : State) : State :=
  let t := (s.requestTeardown 3 none).teardown
  (t.fns.filter fun e => decide (e.1 ≠ 0) && e.2.enabled).foldl (fun acc e => acc.vfReset e.1) t

theorem exec_pfFlr (s : State) : exec .pfFlr s = .next s.tornForFlr.resetWindow0 := rfl

/-- The resets of the virtual functions leave the job as its teardown left it: ENDED. -/
theorem State.tornForFlr_job {s : State} (hlive : s.jobLive = true) (hfirst : s.job.tearing = none) :
    s.tornForFlr.job.state = 5 ∧ s.tornForFlr.job.cause = 3 := by
  have hended : (s.requestTeardown 3 none).teardown.job.state = 5 ∧ (s.requestTeardown 3 none).teardown.job.cause = 3 := by
    refine State.teardown_job ?_
    rw [State.requestTeardown_of_live hlive hfirst]
    rfl
  refine List.foldlRecOn (motive := fun t : State => t.job.state = 5 ∧ t.job.cause = 3) _ _ hended fun acc hacc e _ => ?_
  have hover : acc.jobLive = false := by simp [State.jobLive, hacc.1]
  rw [State.vfReset_of_no_job hover, State.fnReset_job]
  exact hacc

/-- Settles O42: each clause of a host-DMA command by what the command at the head does, and the function commands by their resets. -/
theorem hostDmaAndFunctionResets : Obligations.HostDmaAndFunctionResets := by
  unfold Obligations.HostDmaAndFunctionResets
  refine ⟨fun s n => ⟨fun c rest hport hroom => exec_hdmaCmdAccept_of_room hport hroom, ?head⟩,
    fun s f h1 h2 => ⟨?enabled, ?reset, ?torn, ?physical⟩⟩
  case head =>
    intro c rest data ep hq hawake hup it haddr laddr len out f
    refine ⟨fun hlen => exec_hdmaCmdComplete_of_nothing hq hawake hup hlen data ep,
      fun hlen hasked hspace => exec_hdmaCmdComplete_of_unasked hq hawake hup hlen hasked hspace data ep,
      fun hlen hasked hanswered hopen => ⟨?inactive, fun hfn hdenied hpages => ⟨?fromHost, ?toHost⟩, ?refused⟩⟩
    case inactive => exact fun hfn => exec_hdmaCmdComplete_of_inactive hq hawake hup hlen hasked hanswered hopen hfn data ep
    case fromHost =>
      intro hin hport bs s1
      exact ⟨exec_hdmaCmdComplete_of_all hq hawake hup hlen hasked hanswered hopen hfn hdenied hpages hin hport,
        exec_hdmaCmdComplete_of_short hq hawake hup hlen hasked hanswered hopen hfn hdenied hpages hin hport⟩
    case toHost =>
      intro hout g
      rw [exec_hdmaCmdComplete_to_host hq hawake hup hlen hasked hanswered hopen hfn hdenied hpages hout]
      exact congrArg Host.Outcome.next (if_neg (Nat.lt_irrefl _))
    case refused =>
      intro a hfn hdenied hfirst hlast hin hport hpages hdata bs
      exact exec_hdmaCmdComplete_of_refused hq hawake hup hlen hasked hanswered hopen hfn hdenied hfirst hlast hin hport hpages hdata
  case enabled => exact exec_functionEnable_of_slots h1 h2
  case reset =>
    intro hnone s1 y z
    rw [exec_vfFlr_of_virtual h1 h2, State.vfReset_of_no_job hnone]
    rfl
  case torn =>
    intro hlive hown hserves hfirst
    refine ⟨_, exec_vfFlr_of_virtual h1 h2, ?_⟩
    rw [State.vfReset_of_own_job hlive hown hserves, State.requestTeardown_of_live (s := s.fnReset f) hlive hfirst]
    rfl
  case physical =>
    refine ⟨_, exec_pfFlr s, fun hfirst hlive => ?_, ?_, ?_, rfl, rfl, rfl, rfl, rfl⟩
    · rw [State.resetWindow0_job]
      exact State.tornForFlr_job hlive hfirst
    · rw [State.resetWindow0_job]
      rfl
    · rw [State.resetWindow0_job]
      rfl

end Sys2Proof.Machine
end

section
/-! What the bounds of the module speak of, and how it stands after the operations that every command uses. -/

namespace Sys2Proof.Machine

/-! ### What is kept -/

/-- Whether the queue of status events is within its size (R505). -/
def eventsFit (l : List (BitVec 16 × BitVec 4 × BitVec 32)) : Bool := decide (l.length ≤ 1024)

/-- What the bounds of the module speak of, and the commands that wait: the queue of commands, whether the status events are within their size, the
anti-rollback counters and the cached translations. -/
structure Kept where
  pending : List Instr
  eventsFit : Bool
  fuses : SMap Nat
  translations : List (Nat × Nat × Nat × Bool)

/-- What a state keeps of them. -/
def State.kept (s : State) : Kept := ⟨s.pending, eventsFit s.lodge.evq, s.lodge.fuses, s.atsCache⟩

/-- From what `k` keeps the module may come to what `l` keeps: the same commands wait, the lists are within their sizes if they were (R474, R505),
and no anti-rollback counter has fallen (R564). -/
structure Kept.Leads (k l : Kept) : Prop where
  pending : l.pending = k.pending
  events : k.eventsFit = true → l.eventsFit = true
  translations : k.translations.length ≤ 8192 → l.translations.length ≤ 8192
  listed : mwf 0 k.fuses = true → mwf 0 l.fuses = true
  rises : mwf 0 k.fuses = true → ∀ c, mget 0 k.fuses c ≤ mget 0 l.fuses c

@[simp] theorem Kept.leads_refl (k : Kept) : k.Leads k := ⟨rfl, id, id, id, fun _ _ => Nat.le_refl _⟩

@[simp] theorem State.kept_mk {pending time frees tiles regions stk engines sem fns serving tomb job links lnk bands} {lodge : Lodge}
    {ust power hostReqs atsCache atsWaits atsInval nextReq hstLink out} :
    (State.mk pending time frees tiles regions stk engines sem fns serving tomb job links lnk bands lodge ust power hostReqs atsCache atsWaits
      atsInval nextReq hstLink out).kept = ⟨pending, eventsFit lodge.evq, lodge.fuses, atsCache⟩ := rfl

/-- What leaves all but the translations alone need only keep these within their number. -/
theorem State.leads_of_translations {s : State} {l : List (Nat × Nat × Nat × Bool)} (h : s.atsCache.length ≤ 8192 → l.length ≤ 8192) :
    s.kept.Leads ⟨s.pending, eventsFit s.lodge.evq, s.lodge.fuses, l⟩ := ⟨rfl, id, h, id, fun _ _ => Nat.le_refl _⟩

/-- What leaves all but the status events alone need only keep these within their number. -/
theorem State.leads_of_events {s : State} {b : Bool} (h : eventsFit s.lodge.evq = true → b = true) :
    s.kept.Leads ⟨s.pending, b, s.lodge.fuses, s.atsCache⟩ := ⟨rfl, h, id, id, fun _ _ => Nat.le_refl _⟩

@[simp] theorem State.kept_fold (s : State) : (⟨s.pending, eventsFit s.lodge.evq, s.lodge.fuses, s.atsCache⟩ : Kept) = s.kept := rfl

@[simp] theorem State.kept_ite {c : Prop} [Decidable c] {s t : State} :
    (if c then s else t).kept = if c then s.kept else t.kept := apply_ite State.kept c s t

section
variable {α : Type}

/-- A fold whose every turn keeps them keeps them. -/
@[simp] theorem kept_foldl {f : State → α → State} (h : ∀ (t : State) x, (f t x).kept = t.kept) (l : List α) (s : State) :
    (l.foldl f s).kept = s.kept := by
  induction l generalizing s with
  | nil => rfl
  | cons x l ih => exact (ih _).trans (h s x)

@[simp] theorem kept_foldl_fst {β : Type} {f : State × β → α → State × β} (h : ∀ (t : State × β) x, (f t x).1.kept = t.1.kept)
    (l : List α) (s : State × β) : (l.foldl f s).1.kept = s.1.kept := by
  induction l generalizing s with
  | nil => rfl
  | cons x l ih => exact (ih _).trans (h s x)

end

@[simp] theorem Kept.leads_ite {k l m : Kept} {c : Prop} [Decidable c] :
    k.Leads (if c then l else m) ↔ (c → k.Leads l) ∧ (¬ c → k.Leads m) := by
  split <;> simp [*]

@[simp] theorem State.fst_ite {β : Type} {c : Prop} [Decidable c] {a b : State × β} : (if c then a else b).1 = if c then a.1 else b.1 :=
  apply_ite Prod.fst c a b

theorem Kept.Leads.trans {k l m : Kept} (h : k.Leads l) (h' : l.Leads m) : k.Leads m :=
  ⟨h'.pending.trans h.pending, fun hk => h'.events (h.events hk), fun hk => h'.translations (h.translations hk), fun hk => h'.listed (h.listed hk),
    fun hk c => (h.rises hk c).trans (h'.rises (h.listed hk) c)⟩

theorem Kept.leads_of_eq {k l : Kept} (h : l = k) : k.Leads l := h ▸ Kept.leads_refl k

/-- The next state of an answer keeps `k`. -/
def Answer.Keeps (o : Answer) (k : Kept) : Prop := ∀ t, o = .next t → t.kept = k

@[simp] theorem Answer.keeps_next {s : State} {k : Kept} : Answer.Keeps (.next s) k ↔ s.kept = k :=
  ⟨fun h => h s rfl, fun h t ht => by cases ht; exact h⟩

/-- The next state of an answer keeps within `k`. -/
def Answer.Leads (o : Answer) (k : Kept) : Prop := ∀ t, o = .next t → k.Leads t.kept

theorem Answer.Keeps.leads {o : Answer} {k : Kept} (h : o.Keeps k) : o.Leads k := fun t ht => Kept.leads_of_eq (h t ht)

@[simp] theorem Answer.leads_next {s : State} {k : Kept} : Answer.Leads (.next s) k ↔ k.Leads s.kept :=
  ⟨fun h => h s rfl, fun h t ht => by cases ht; exact h⟩

/-! ### The units of the state -/

@[simp] theorem State.setTile_kept {s : State} {t : Nat} {x : Tile} : (s.setTile t x).kept = s.kept := by
  simp [State.setTile]

@[simp] theorem State.setRegion_kept {s : State} {r : Nat} {x : Region} : (s.setRegion r x).kept = s.kept := by
  simp [State.setRegion]

@[simp] theorem State.setStack_kept {s : State} {k : Nat} {x : Stack} : (s.setStack k x).kept = s.kept := by
  simp [State.setStack]

@[simp] theorem State.setEngine_kept {s : State} {k pc : Nat} {x : Engine} : (s.setEngine k pc x).kept = s.kept := by
  simp [State.setEngine]

@[simp] theorem State.setFn_kept {s : State} {f : Nat} {x : Fn} : (s.setFn f x).kept = s.kept := by
  simp [State.setFn]

@[simp] theorem State.setTombola_kept {s : State} {d : Nat} {x : Tombola} : (s.setTombola d x).kept = s.kept := by
  simp [State.setTombola]

@[simp] theorem State.setLink_kept {s : State} {n : Nat} {x : Link} : (s.setLink n x).kept = s.kept := by
  simp [State.setLink]

@[simp] theorem State.setBand_kept {s : State} {d : Nat} {x : Bandstand} : (s.setBand d x).kept = s.kept := by
  simp [State.setBand]

@[simp] theorem State.setSema_kept {s : State} {n : Nat} {x : Sem} : (s.setSema n x).kept = s.kept := by
  simp [State.setSema]

@[simp] theorem State.setSteward_kept {s : State} {k : Nat} {x : Steward} : (s.setSteward k x).kept = s.kept := by
  simp [State.setSteward]

@[simp] theorem State.setIntSrc_kept {s : State} {n : Nat} {x : IntSrc} : (s.setIntSrc n x).kept = s.kept := by
  simp [State.setIntSrc]

@[simp] theorem State.fresh_kept {s : State} : s.fresh.2.kept = s.kept := by
  simp [State.fresh]

/-! ### Tiles, regions and units -/

@[simp] theorem State.setUnit_kept {s : State} {u : Nat} {x : UstEntry} : (s.setUnit u x).kept = s.kept := by
  simp [State.setUnit]

/-! ### Messages to the host, interrupts and reports -/

@[simp] theorem State.send_kept {s : State} {o : Output} : (s.send o).kept = s.kept := by
  simp [State.send]

@[simp] theorem State.msix_kept {s : State} {f v : Nat} : (s.msix f v).kept = s.kept := by
  simp [State.msix]

@[simp] theorem State.dutyBoundary_kept {s : State} {d : Nat} : (s.dutyBoundary d).kept = s.kept := by
  simp [State.dutyBoundary]

@[simp] theorem State.noteStep_kept {s : State} {src : Nat} : (s.noteStep src).kept = s.kept := by
  simp [State.noteStep]

@[simp] theorem State.fireInt_kept {s : State} {src : Nat} : (s.fireInt src).kept = s.kept := by
  simp [State.fireInt]

@[simp] theorem State.dropBell_kept {s : State} : s.dropBell.kept = s.kept := by
  simp [State.dropBell]

/-- A status event that finds the queue full is lost (R505). -/
@[simp] theorem State.pushEvent_kept {s : State} {unit kind : Nat} : (s.pushEvent unit kind).kept = s.kept := by
  unfold State.pushEvent
  split
  case isTrue hroom =>
    have hfits : eventsFit s.lodge.evq = true := decide_eq_true (Nat.le_of_lt hroom)
    have hfit (e) : eventsFit (s.lodge.evq ++ [e]) = true := by simpa [eventsFit] using Nat.succ_le_of_lt hroom
    rw [State.fireInt_kept, State.kept_mk, hfit, ← hfits]
    rfl
  case isFalse => simp

@[simp] theorem State.hostEvent_kept {s : State} {bit : Nat} : (s.hostEvent bit).kept = s.kept := by
  simp [State.hostEvent]

@[simp] theorem State.hostError_kept {s : State} {f bit code detail : Nat} {job : Bool} : (s.hostError f bit code detail job).kept = s.kept := by
  simp [State.hostError]

@[simp] theorem State.readRefused_kept {s : State} {f : Nat} : (s.readRefused f).kept = s.kept := by
  simp [State.readRefused]

@[simp] theorem State.jobRegError_kept {s : State} {a : Nat} : (s.jobRegError a).kept = s.kept := by
  simp [State.jobRegError]

@[simp] theorem State.report_kept {s : State} {u rep kind : Nat} : (s.report u rep kind).kept = s.kept := by
  simp [State.report]

@[simp] theorem State.allow_kept {s : State} {u st : Nat} : (s.allow u st).kept = s.kept := by
  simp [State.allow]

@[simp] theorem State.requestTeardown_kept {s : State} {cause : Nat} {tile : Option Nat} : (s.requestTeardown cause tile).kept = s.kept := by
  simp [State.requestTeardown]

/-! ### Scratchpad and region memory -/

@[simp] theorem State.passThresholds_kept {s : State} {t : Nat} : (s.passThresholds t).kept = s.kept := by
  simp [State.passThresholds]

@[simp] theorem State.arrive_kept {s : State} {t ac n : Nat} : (s.arrive t ac n).kept = s.kept := by
  simp [State.arrive]

@[simp] theorem State.wakeTile_kept {s : State} {t : Nat} : (s.wakeTile t).kept = s.kept := by
  simp [State.wakeTile]

@[simp] theorem State.sendAccess_kept {s : State} {p : Phys} {kind : AccKind} {src : AccSrc} : (s.sendAccess p kind src).kept = s.kept := by
  simp [State.sendAccess]

@[simp] theorem State.landed_kept {s : State} {t effId : Nat} : (s.landed t effId).kept = s.kept := by
  simp [State.landed]

end Sys2Proof.Machine
end

section
/-! What packets, signals, traces, reports and fences leave of what the bounds speak of. -/

namespace Sys2Proof.Machine

/-! ### How packets leave the module -/

@[simp] theorem State.sendFlits_kept {s : State} {n : Nat} {l : List (BitVec 12 × BitVec 2048)} : (s.sendFlits n l).kept = s.kept := by
  simp [State.sendFlits]

@[simp] theorem State.transmit_kept {s : State} {n : Nat} {p : Packet} : (s.transmit n p).kept = s.kept := by
  simp [State.transmit]

@[simp] theorem State.drainLink_kept {s : State} {n : Nat} : (s.drainLink n).kept = s.kept := by
  simp [State.drainLink]

@[simp] theorem State.queueOn_kept {s : State} {n : Nat} {ps : List Packet} : (s.queueOn n ps).kept = s.kept := by
  simp [State.queueOn]

@[simp] theorem State.remoteDone_kept {s : State} {tag : Nat} : (s.remoteDone tag).kept = s.kept := by
  unfold State.remoteDone
  split <;> simp

@[simp] theorem State.noRoute_kept {s : State} {p : Packet} : (s.noRoute p).kept = s.kept := by
  simp [State.noRoute]

@[simp] theorem State.passWait_kept {s : State} : s.passWait.kept = s.kept := by
  unfold State.passWait
  rw [kept_foldl]
  · simp
  intro t x
  repeat' split
  all_goals simp

@[simp] theorem State.drainWait_kept {s : State} : s.drainWait.kept = s.kept := by
  simp [State.drainWait]

@[simp] theorem State.sendPacket_kept {s : State} {p : Packet} : (s.sendPacket p).kept = s.kept := by
  simp [State.sendPacket]

@[simp] theorem State.sendRemote_kept {s : State} {p : Packet} {tile effId sem : Nat} : (s.sendRemote p tile effId sem).kept = s.kept := by
  simp [State.sendRemote]

/-! ### Leaving ACTIVE (R442, R443) -/

@[simp] theorem State.linkDown_kept {s : State} {n st phase fail : Nat} : (s.linkDown n st phase fail).kept = s.kept := by
  unfold State.linkDown
  dsimp only
  repeat' split
  all_goals simp

/-! ### Writes to host memory -/

@[simp] theorem State.refuseHost_kept {s : State} {f a code : Nat} {tile : Option (Nat × Origin)} : (s.refuseHost f a code tile).kept = s.kept := by
  unfold State.refuseHost
  split <;> simp

@[simp] theorem State.hostWrite_kept {s : State} {f a : Nat} {bs : List Byte} {ep : Bool} {src : Option (Nat × Nat)} :
    (s.hostWrite f a bs ep src).kept = s.kept := by
  unfold State.hostWrite
  split <;> simp

@[simp] theorem State.refuseRead_kept {s : State} {f a code : Nat} {x : AccSrc} : (s.refuseRead f a code x).kept = s.kept := by
  simp [State.refuseRead]

@[simp] theorem State.hostRead_kept {s : State} {f a len : Nat} {src : AccSrc} : (s.hostRead f a len src).kept = s.kept := by
  simp [State.hostRead]

/-! ### Refusals -/

@[simp] theorem State.refuseSignal_kept {s : State} {src : SigSrc} {sem kind : Nat} : (s.refuseSignal src sem kind).kept = s.kept := by
  unfold State.refuseSignal
  split <;> simp

/-! ### Acquires -/

@[simp] theorem State.acquireTest_kept {s : State} {sem scope party : Nat} : (s.acquireTest sem scope party).kept = s.kept := by
  simp [State.acquireTest]

@[simp] theorem State.releaseWaiter_kept {s : State} {sem : Nat} {w : Waiter} {consumed : Int} : (s.releaseWaiter sem w consumed).kept = s.kept := by
  simp [State.releaseWaiter]

@[simp] theorem State.fireNtf_kept {s : State} {m : Nat} : (s.fireNtf m).kept = s.kept := by
  simp [State.fireNtf]

@[simp] theorem State.fireNtfs_kept {s : State} {sem : Nat} : (s.fireNtfs sem).kept = s.kept := by
  simp [State.fireNtfs]

@[simp] theorem State.serveQueue_kept {s : State} {sem : Nat} {ws : List Waiter} : (s.serveQueue sem ws).kept = s.kept := by
  induction ws generalizing s with
  | nil => rfl
  | cons w ws ih => simp [State.serveQueue, ih]

@[simp] theorem State.evalSem_kept {s : State} {sem : Nat} : (s.evalSem sem).kept = s.kept := by
  simp [State.evalSem]

@[simp] theorem State.applySignal_kept {s : State} {src : SigSrc} {party scope sem : Nat} {amount : Int} :
    (s.applySignal src party scope sem amount).kept = s.kept := by
  unfold State.applySignal
  split <;> simp

@[simp] theorem State.applyWait_kept {s : State} {t : Nat} {st : Stream} {scope sem : Nat} {n : Int} :
    (s.applyWait t st scope sem n).kept = s.kept := by
  simp [State.applyWait]

@[simp] theorem State.applyObs_kept {s : State} {t : Nat} {st : Stream} {scope sem : Nat} {n : Int} :
    (s.applyObs t st scope sem n).kept = s.kept := by
  simp [State.applyObs]

@[simp] theorem State.addBack_kept {s : State} {sem : Nat} {n : Int} : (s.addBack sem n).kept = s.kept := by
  simp [State.addBack]

@[simp] theorem State.withdrawTile_kept {s : State} {t : Nat} : (s.withdrawTile t).kept = s.kept := by
  simp [State.withdrawTile]

@[simp] theorem State.sendSignal_kept {s : State} {src : SigSrc} {party scope sem : Nat} {amount : Int} {effId : Nat} :
    (s.sendSignal src party scope sem amount effId).kept = s.kept := by
  simp [State.sendSignal]

/-! ### Trace records -/

@[simp] theorem State.unitCycle_kept {s : State} {u : Nat} : (s.unitCycle u).2.kept = s.kept := by
  unfold State.unitCycle
  split <;> simp

@[simp] theorem State.trace_kept {s : State} {u kind data : Nat} : (s.trace u kind data).kept = s.kept := by
  simp [State.trace]

@[simp] theorem State.traceTile_kept {s : State} {t kind data : Nat} : (s.traceTile t kind data).kept = s.kept := by
  unfold State.traceTile
  split <;> simp

@[simp] theorem State.traceSlip_kept {s : State} {t kind : Nat} {st : Stream} {pc : Nat} : (s.traceSlip t kind st pc).kept = s.kept := by
  simp [State.traceSlip]

@[simp] theorem State.traceHalt_kept {s : State} {t : Nat} {h : HaltRec} : (s.traceHalt t h).kept = s.kept := by
  simp [State.traceHalt]

@[simp] theorem State.cmdStart_kept {s : State} {u tag : Nat} : (s.cmdStart u tag).kept = s.kept := by
  simp [State.cmdStart]

@[simp] theorem State.cmdEnd_kept {s : State} {u tag : Nat} : (s.cmdEnd u tag).kept = s.kept := by
  simp [State.cmdEnd]

@[simp] theorem State.traceWake_kept {s : State} {u : Nat} : (s.traceWake u).kept = s.kept := by
  simp [State.traceWake]

@[simp] theorem State.traceSleep_kept {s : State} {u : Nat} : (s.traceSleep u).kept = s.kept := by
  simp [State.traceSleep]

@[simp] theorem State.hdmaTurn_kept {s : State} {n : Nat} {r : Region} : (s.hdmaTurn n r).kept = s.kept := by
  simp [State.hdmaTurn]

/-! ### Reports, mismatches and fences of units -/

@[simp] theorem State.closeTurnstile_kept {s : State} {t : Nat} : (s.closeTurnstile t).kept = s.kept := by
  simp [State.closeTurnstile]

@[simp] theorem State.notDone_kept {s : State} {u tile : Nat} {item : BitVec 2048} {tagAt : Nat} : (s.notDone u tile item tagAt).kept = s.kept := by
  simp [State.notDone]

@[simp] theorem State.holdSteward_kept {s : State} {k : Nat} : (s.holdSteward k).kept = s.kept := by
  simp [State.holdSteward]

@[simp] theorem State.setDuty_kept {s : State} {d k : Nat} : (s.setDuty d k).kept = s.kept := by
  simp [State.setDuty]

@[simp] theorem State.giveDuties_kept {s : State} : s.giveDuties.kept = s.kept := by
  simp [State.giveDuties]

@[simp] theorem State.loseShare_kept {s : State} {k : Nat} {d : DrainRun} : (s.loseShare k d).kept = s.kept := by
  unfold State.loseShare
  split <;> simp

@[simp] theorem State.fenceInside_kept {s : State} {u : Nat} : (s.fenceInside u).kept = s.kept := by
  unfold State.fenceInside
  dsimp only
  repeat' split
  all_goals simp

@[simp] theorem State.fence_kept {s : State} {u : Nat} {mismatch : Bool} : (s.fence u mismatch).kept = s.kept := by
  simp [State.fence]

@[simp] theorem State.checkUnit_kept {s : State} {u : Nat} : (s.checkUnit u).kept = s.kept := by
  simp [State.checkUnit]

@[simp] theorem State.statusReport_kept {s : State} {u rep kind : Nat} : (s.statusReport u rep kind).kept = s.kept := by
  simp [State.statusReport]

@[simp] theorem State.statusTile_kept {s : State} {t rep kind : Nat} : (s.statusTile t rep kind).kept = s.kept := by
  unfold State.statusTile
  split <;> simp

@[simp] theorem State.liveEnd_kept {s : State} {result : Nat} : (s.liveEnd result).kept = s.kept := by
  simp [State.liveEnd]

@[simp] theorem State.retireEngine_kept {s : State} {u : Nat} : (s.retireEngine u).kept = s.kept := by
  simp [State.retireEngine]

@[simp] theorem State.retirePending_kept {s : State} : s.retirePending.kept = s.kept := by
  unfold State.retirePending
  split <;> simp

@[simp] theorem State.stopTiles_kept {s : State} : s.stopTiles.kept = s.kept := by
  simp [State.stopTiles]

@[simp] theorem State.setRange_kept {s : State} {f : Nat} {b : Reg64} : (s.setRange f b).kept = s.kept := by
  simp [State.setRange]

@[simp] theorem State.applyQuotas_kept {s : State} {atEnd : Bool} : (s.applyQuotas atEnd).kept = s.kept := by
  refine kept_foldl (fun t e => ?_) _ _
  dsimp only
  split <;> split <;> simp

@[simp] theorem State.endJob_kept {s : State} {cause : Nat} : (s.endJob cause).kept = s.kept := by
  unfold State.endJob
  dsimp only
  split <;> simp

end Sys2Proof.Machine
end

section
/-! What the commands of a tile leave of what the bounds speak of. -/

namespace Sys2Proof.Machine

/-! ### Reads of register space by tiles -/

@[simp] theorem State.readReg_kept {s : State} {a w : Nat} : (s.readReg a w).1.kept = s.kept := by
  unfold State.readReg
  dsimp only
  repeat' split
  all_goals simp

/-! ### One cycle -/

@[simp] theorem State.recordHalt_kept {s : State} {n : Nat} {h : HaltRec} : (s.recordHalt n h).kept = s.kept := by
  simp [State.recordHalt]

@[simp] theorem State.settleHalt_kept {s : State} {n : Nat} {h : HaltRec} : (s.settleHalt n h).kept = s.kept := by
  simp [State.settleHalt]

@[simp] theorem State.recordDeferred_kept {s : State} {n : Nat} {h : HaltRec} : (s.recordDeferred n h).kept = s.kept := by
  simp [State.recordDeferred]

@[simp] theorem State.settleTile_kept {s : State} {n : Nat} : (s.settleTile n).kept = s.kept := by
  unfold State.settleTile
  dsimp only
  split <;> simp

@[simp] theorem State.serveReads_kept {s : State} {n : Nat} : (s.serveReads n).kept = s.kept := by
  simp [State.serveReads]

@[simp] theorem State.reportUe_kept {s : State} {n m : Nat} : (s.reportUe n m).kept = s.kept := by
  induction m generalizing s with
  | zero => rfl
  | succ m ih => simp [State.reportUe, ih]

@[simp] theorem State.tickTile_kept {s : State} {n : Nat} : (s.tickTile n).kept = s.kept := by
  simp [State.tickTile]

@[simp] theorem State.advanceTile_kept {s : State} {n dt : Nat} : (s.advanceTile n dt).kept = s.kept := by
  induction dt generalizing s with
  | zero => rfl
  | succ dt ih => simp [State.advanceTile, ih]

/-! ### Issuing a bundle -/

@[simp] theorem State.issueBundle_kept {s : State} {u : Issue} {first : Bool} : (s.issueBundle u first).kept = s.kept := by
  simp [State.issueBundle]

@[simp] theorem State.beginSlot_kept {s : State} {u : Issue} {bit : Nat} : (s.beginSlot u bit).kept = s.kept := by
  simp [State.beginSlot]

@[simp] theorem State.closeSlot_kept {s : State} {u : Issue} {b : BundleIP} : (s.closeSlot u b).kept = s.kept := by
  simp [State.closeSlot]

theorem State.kept_of_stallSlot {s t : State} {u : Issue} {b : BundleIP} {i : SlotInfo} (h : s.stallSlot u b i = some t) : t.kept = s.kept := by
  unfold State.stallSlot at h
  dsimp only at h
  split at h
  · cases h
  split at h
  · cases h
    simp
  split at h
  · cases h
    simp
  · cases h

@[simp] theorem State.slotSlip_kept {s : State} {u : Issue} {b : BundleIP} {i : SlotInfo} : (s.slotSlip u b i).kept = s.kept := by
  simp [State.slotSlip]

/-- The state that a slot's outcome leaves keeps `k`. -/
def SlotRes.Keeps : SlotRes → Kept → Prop
  | .ok s _, k => s.kept = k
  | .halt _ _, _ => True

@[simp] theorem SlotRes.keeps_ok {s : State} {b : BundleIP} {k : Kept} : (SlotRes.ok s b).Keeps k ↔ s.kept = k := Iff.rfl

@[simp] theorem SlotRes.keeps_halt {reason detail : Nat} {k : Kept} : (SlotRes.halt reason detail).Keeps k := trivial

@[simp] theorem SlotRes.keeps_ite {c : Prop} [Decidable c] {x y : SlotRes} {k : Kept} :
    (if c then x else y).Keeps k ↔ (c → x.Keeps k) ∧ (¬ c → y.Keeps k) := by
  split <;> simp [*]

theorem SlotRes.Keeps.of_ok {r : SlotRes} {k : Kept} {t : State} {b : BundleIP} (h : r.Keeps k) (hr : r = .ok t b) : t.kept = k := by
  rwa [hr] at h

/-- A slot keeps what its body keeps. -/
@[simp] theorem State.slot_kept {s : State} {u : Issue} {bit : Nat} {info : Tile → BundleIP → SlotInfo} {body : State → BundleIP → SlotRes}
    (hbody : ∀ t b, (body t b).Keeps t.kept) : (s.slot u bit info body).kept = s.kept := by
  unfold State.slot
  dsimp only
  split
  · exact State.beginSlot_kept
  split
  next hstall => exact (State.kept_of_stallSlot hstall).trans State.beginSlot_kept
  split
  · simp
  split
  next hres =>
    have hkept := (hbody _ _).of_ok hres
    simp [hkept]
  · simp

/-! ### The scalar slot of a bundle -/

@[simp] theorem State.putS_kept {s : State} {u : Issue} {b : BundleIP} {rd lat : Nat} {v : Reg64} {p : Bool} :
    (s.putS u b rd lat v p).kept = s.kept := by
  simp [State.putS]

@[simp] theorem State.scalarOp_kept {s : State} {u : Issue} {legal : Bool} {srcs : List Nat} {rd lat : Nat} {f : State → BundleIP → Reg64} :
    (s.scalarOp u legal srcs rd lat f).kept = s.kept := by
  simp [State.scalarOp]

@[simp] theorem execBundleNop_keeps {u : Issue} {s : State} : (execBundleNop u s).Keeps s.kept := by
  simp [execBundleNop]

@[simp] theorem execAluOp_keeps {u : Issue} {op : AluOp} {rd ra : Fin 32} {src : Src2} {s : State} : (execAluOp u op rd ra src s).Keeps s.kept := by
  simp [execAluOp]

@[simp] theorem execMul_keeps {u : Issue} {rd ra : Fin 32} {src : Src2} {s : State} : (execMul u rd ra src s).Keeps s.kept := by
  simp [execMul]

@[simp] theorem execMinMax_keeps {u : Issue} {op : MinMaxOp} {rd ra : Fin 32} {src : Src2} {s : State} :
    (execMinMax u op rd ra src s).Keeps s.kept := by
  simp [execMinMax]

@[simp] theorem execSetCompare_keeps {u : Issue} {op : SetOp} {rd ra : Fin 32} {src : Src2} {s : State} :
    (execSetCompare u op rd ra src s).Keeps s.kept := by
  simp [execSetCompare]

@[simp] theorem execLi_keeps {u : Issue} {rd : Fin 32} {imm : BitVec 40} {s : State} : (execLi u rd imm s).Keeps s.kept := by
  simp [execLi]

@[simp] theorem State.setAddr_kept {s : State} {u : Issue} {key : Nat} {src : Src2} : (s.setAddr u key src).kept = s.kept := by
  simp [State.setAddr]

@[simp] theorem execSeta_keeps {u : Issue} {n : Fin 16} {src : Src2} {s : State} : (execSeta u n src s).Keeps s.kept := by
  simp [execSeta]

@[simp] theorem execSett_keeps {u : Issue} {n : Fin 16} {src : Src2} {s : State} : (execSett u n src s).Keeps s.kept := by
  simp [execSett]

@[simp] theorem execRda_keeps {u : Issue} {rd : Fin 32} {n : Fin 16} {s : State} : (execRda u rd n s).Keeps s.kept := by
  simp [execRda]

@[simp] theorem execRdt_keeps {u : Issue} {rd : Fin 32} {n : Fin 16} {s : State} : (execRdt u rd n s).Keeps s.kept := by
  simp [execRdt]

@[simp] theorem execBind_keeps {u : Issue} {n : Fin 16} {imm : BitVec 40} {s : State} : (execBind u n imm s).Keeps s.kept := by
  simp [execBind]

@[simp] theorem execRdlc_keeps {u : Issue} {rd : Fin 32} {k : Fin 4} {s : State} : (execRdlc u rd k s).Keeps s.kept := by
  simp [execRdlc]

@[simp] theorem execRdreg_keeps {u : Issue} {rd : Fin 32} {imm : BitVec 40} {s : State} : (execRdreg u rd imm s).Keeps s.kept := by
  simp [execRdreg]

@[simp] theorem execJmp_keeps {u : Issue} {imm : BitVec 40} {s : State} : (execJmp u imm s).Keeps s.kept := by
  simp [execJmp]

@[simp] theorem execCondBranch_keeps {u : Issue} {op : BranchOp} {ra rb : Fin 32} {i : Bool} {imm : BitVec 40} {s : State} :
    (execCondBranch u op ra rb i imm s).Keeps s.kept := by
  simp [execCondBranch]

@[simp] theorem execLoop_keeps {u : Issue} {k : Fin 4} {ra : Fin 32} {i : Bool} {imm : BitVec 40} {s : State} :
    (execLoop u k ra i imm s).Keeps s.kept := by
  simp [execLoop]

@[simp] theorem execLexit_keeps {u : Issue} {s : State} : (execLexit u s).Keeps s.kept := by
  rw [execLexit, Answer.keeps_next, State.slot_kept]
  intro t b
  dsimp only
  split <;> simp

@[simp] theorem execQput_keeps {u : Issue} {q : Fin 4} {ra : Fin 32} {s : State} : (execQput u q ra s).Keeps s.kept := by
  simp [execQput]

@[simp] theorem execQget_keeps {u : Issue} {rd : Fin 32} {q : Fin 4} {s : State} : (execQget u rd q s).Keeps s.kept := by
  simp [execQget]

@[simp] theorem execQcnt_keeps {u : Issue} {rd : Fin 32} {q : Fin 4} {s : State} : (execQcnt u rd q s).Keeps s.kept := by
  simp [execQcnt]

/-! ### The sync slot of a bundle -/

@[simp] theorem State.syncSlot_kept {s : State} {u : Issue} {legal : Bool} {srcs : List Nat} {body : State → BundleIP → SlotRes}
    (hbody : ∀ t b, (body t b).Keeps t.kept) : (s.syncSlot u legal srcs body).kept = s.kept :=
  State.slot_kept hbody

@[simp] theorem State.stallFor_keeps {s : State} {u : Issue} {b : BundleIP} {x : Stall} {closes : Bool} {k : Kept} :
    (s.stallFor u b x closes).Keeps k ↔ s.kept = k := by
  simp [State.stallFor]

@[simp] theorem orHalt_keeps {f : Option Failure} {r : SlotRes} {k : Kept} (hr : r.Keeps k) : (orHalt f r).Keeps k := by
  cases f <;> simp [orHalt, hr]

@[simp] theorem State.holdSync_kept {s : State} {u : Issue} {b : BundleIP} {e : Effect} : (s.holdSync u b e).kept = s.kept := by
  simp [State.holdSync]

@[simp] theorem execSig_keeps {u : Issue} {ra rb : Fin 32} {imm : BitVec 14} {s : State} : (execSig u ra rb imm s).Keeps s.kept := by
  simp [execSig]

@[simp] theorem execSigT_keeps {u : Issue} {ra rb : Fin 32} {imm : BitVec 14} {s : State} : (execSigT u ra rb imm s).Keeps s.kept := by
  simp [execSigT]

@[simp] theorem execWait_keeps {u : Issue} {ra rb : Fin 32} {imm : BitVec 14} {s : State} : (execWait u ra rb imm s).Keeps s.kept := by
  simp [execWait]

@[simp] theorem execObs_keeps {u : Issue} {ra rb : Fin 32} {imm : BitVec 14} {s : State} : (execObs u ra rb imm s).Keeps s.kept := by
  simp [execObs]

@[simp] theorem execAwait_keeps {u : Issue} {rb : Fin 32} {imm : BitVec 14} {s : State} : (execAwait u rb imm s).Keeps s.kept := by
  simp [execAwait]

@[simp] theorem execAcset_keeps {u : Issue} {rb : Fin 32} {imm : BitVec 14} {s : State} : (execAcset u rb imm s).Keeps s.kept := by
  simp [execAcset]

@[simp] theorem execFence_keeps {u : Issue} {imm : BitVec 14} {s : State} : (execFence u imm s).Keeps s.kept := by
  simp [execFence]

@[simp] theorem execBell_keeps {u : Issue} {ra : Fin 32} {imm : BitVec 14} {s : State} : (execBell u ra imm s).Keeps s.kept := by
  simp [execBell]

@[simp] theorem execQwait_keeps {u : Issue} {imm : BitVec 14} {s : State} : (execQwait u imm s).Keeps s.kept := by
  simp [execQwait]

@[simp] theorem execEndOp_keeps {u : Issue} {s : State} : (execEndOp u s).Keeps s.kept := by
  simp [execEndOp]

/-! ### Paths -/

@[simp] theorem State.sendReads_kept {s : State} {n id sp : Nat} {gs : List Nat} : (s.sendReads n id sp gs).kept = s.kept := by
  unfold State.sendReads
  split
  · simp
  · refine kept_foldl (fun t g => ?_) _ _
    split <;> simp

@[simp] theorem State.startLoad_kept {s : State} {n : Nat} {b : BundleIP} {q : Nat} {desc : List Byte} {h : Nat} {index : Int} {count : Nat} :
    (s.startLoad n b q desc h index count).kept = s.kept := by
  simp [State.startLoad]

/-! ### Loads -/

@[simp] theorem execLdQ_keeps {u : Issue} {h : Fin 1024} {areg : Fin 16} {q : Fin 4} {count : BitVec 8} {vol : Bool} {imm : BitVec 24} {s : State} :
    (execLdQ u h areg q count vol imm s).Keeps s.kept := by
  simp [execLdQ]

@[simp] theorem execLdQL_keeps {u : Issue} {f : LongForm} {s : State} : (execLdQL u f s).Keeps s.kept := by
  simp [execLdQL]

@[simp] theorem State.loadScalar_kept {s : State} {n : Nat} {b : BundleIP} {d : Desc} {h sreg w : Nat} {vol : Bool} {o : Int} :
    (s.loadScalar n b d h sreg w vol o).kept = s.kept := by
  unfold State.loadScalar
  dsimp only
  split
  · simp
  split
  · simp
  split
  · split
    · simp
    · refine (kept_foldl (fun t g => ?_) _ _).trans (State.setTile_kept ..)
      split <;> simp
  all_goals simp

@[simp] theorem execLdS_keeps {u : Issue} {h : Fin 1024} {areg : Fin 16} {sreg : Fin 32} {w : Width} {vol : Bool} {imm : BitVec 24} {s : State} :
    (execLdS u h areg sreg w vol imm s).Keeps s.kept := by
  simp [execLdS]

/-! ### Stores -/

@[simp] theorem execStQ_keeps {u : Issue} {h : Fin 1024} {areg : Fin 16} {q : Fin 4} {count : BitVec 8} {acid : Fin 64} {imm : BitVec 24}
    {s : State} :
    (execStQ u h areg q count acid imm s).Keeps s.kept := by
  simp [execStQ]

@[simp] theorem execStQL_keeps {u : Issue} {f : LongForm} {s : State} : (execStQL u f s).Keeps s.kept := by
  simp [execStQL]

@[simp] theorem execStS_keeps {u : Issue} {h : Fin 1024} {areg : Fin 16} {sreg : Fin 32} {w : Width} {acid : Fin 64} {imm : BitVec 24} {s : State} :
    (execStS u h areg sreg w acid imm s).Keeps s.kept := by
  simp [execStS]

@[simp] theorem execStCp_keeps {u : Issue} {hs hd : Fin 1024} {as ad : Fin 16} {count : BitVec 8} {acid : Fin 64} {s : State} :
    (execStCp u hs hd as ad count acid s).Keeps s.kept := by
  simp [execStCp]

/-! ### The events of a tile -/

@[simp] theorem State.reach_kept {s : State} {t : TileAt} : (s.reach t).kept = s.kept := by
  simp [State.reach]

/-! ### Engines and loads -/

@[simp] theorem execEngineOpStart_keeps {t : TileAt} {e : EngineSel} {s : State} : (execEngineOpStart t e s).Keeps s.kept := by
  simp [execEngineOpStart]

@[simp] theorem execLoadItemPush_keeps {t : TileAt} {q : Fin 4} {s : State} : (execLoadItemPush t q s).Keeps s.kept := by
  simp [execLoadItemPush]

/-! ### Replay and windows -/

@[simp] theorem execReplayResume_keeps {t : TileAt} {s : State} : (execReplayResume t s).Keeps s.kept := by
  unfold execReplayResume
  dsimp only
  split <;> simp

@[simp] theorem execWindowIdleClose_keeps {t : TileAt} {s : State} : (execWindowIdleClose t s).Keeps s.kept := by
  unfold execWindowIdleClose
  dsimp only
  split <;> simp

@[simp] theorem State.confirmHeld_kept {s : State} {n : Nat} {l : List Held} : (s.confirmHeld n l).kept = s.kept := by
  induction l generalizing s with
  | nil => rfl
  | cons e l ih =>
    unfold State.confirmHeld
    dsimp only
    split <;> simp [ih]

@[simp] theorem execWindowConfirm_keeps {t : TileAt} {s : State} : (execWindowConfirm t s).Keeps s.kept := by
  unfold execWindowConfirm
  dsimp only
  split <;> simp

@[simp] theorem execReplayDeadlock_keeps {t : TileAt} {s : State} : (execReplayDeadlock t s).Keeps s.kept := by
  unfold execReplayDeadlock
  dsimp only
  repeat' split
  all_goals simp

@[simp] theorem execDeferredHalt_keeps {t : TileAt} {s : State} : (execDeferredHalt t s).Keeps s.kept := by
  unfold execDeferredHalt
  dsimp only
  split <;> simp

/-! ### Arrivals -/

@[simp] theorem execRemoteWriteArrive_keeps {t : TileAt} {idx : Nat} {s : State} : (execRemoteWriteArrive t idx s).Keeps s.kept := by
  unfold execRemoteWriteArrive
  dsimp only
  repeat' split
  all_goals simp

@[simp] theorem execSigTArrive_keeps {t : TileAt} {idx : Nat} {s : State} : (execSigTArrive t idx s).Keeps s.kept := by
  unfold execSigTArrive
  dsimp only
  split <;> simp

@[simp] theorem execReleaseNotice_keeps {t : TileAt} {s : State} : (execReleaseNotice t s).Keeps s.kept := by
  unfold execReleaseNotice
  dsimp only
  split <;> simp

@[simp] theorem execFenceComplete_keeps {t : TileAt} {s : State} : (execFenceComplete t s).Keeps s.kept := by
  unfold execFenceComplete
  dsimp only
  split <;> simp

/-! ### Sleep and wake (R32, R33) -/

@[simp] theorem execUnitWakeComplete_keeps {unit : BitVec 16} {s : State} : (execUnitWakeComplete unit s).Keeps s.kept := by
  unfold execUnitWakeComplete
  split <;> simp

@[simp] theorem execUnitSleep_keeps {unit : BitVec 16} {s : State} : (execUnitSleep unit s).Keeps s.kept := by
  unfold execUnitSleep
  split <;> simp

end Sys2Proof.Machine
end

section
/-! What the commands of the stacks, of the copy engines and of the semaphore unit leave of what the bounds speak of. -/

namespace Sys2Proof.Machine

/-! ### Codewords of a stack. A codeword's number is its byte address ÷ 32; a page's number is its byte address ÷ 2,048 -/

@[simp] theorem State.noteCodeword_kept {s : State} {n w : Nat} {kind : CwKind} {source : Nat} : (s.noteCodeword n w kind source).kept = s.kept := by
  unfold State.noteCodeword
  split <;> simp

@[simp] theorem State.readCodeword_kept {s : State} {n w source : Nat} : (s.readCodeword n w source).1.kept = s.kept := by
  simp [State.readCodeword]

@[simp] theorem State.stkWrite_kept {s : State} {n a : Nat} {bs : List Byte} {mask : Byte} {poison : Bool} {source : Nat} :
    (s.stkWrite n a bs mask poison source).kept = s.kept := by
  simp [State.stkWrite]

@[simp] theorem State.stkRead_kept {s : State} {n a len source : Nat} : (s.stkRead n a len source).1.kept = s.kept := by
  simp [State.stkRead]

/-! ### Atomic operations (R323) -/

@[simp] theorem State.delayAck_kept {s : State} {t e late : Nat} : (s.delayAck t e late).kept = s.kept := by
  simp [State.delayAck]

@[simp] theorem State.atomReturn_kept {s : State} {r : AtomRec} {old : Nat} {poison : Bool} {late : optParam Nat 0} :
    (s.atomReturn r old poison late).kept = s.kept := by
  simp [State.atomReturn]

/-! ### Ordinary accesses (R203 to R205, R236, R240, R472) -/

@[simp] theorem State.deliver_kept {s : State} {x : StkAcc} {bs : List Byte} {bad : List Nat} : (s.deliver x bs bad).kept = s.kept := by
  unfold State.deliver
  split <;> simp

@[simp] theorem State.doneAccess_kept {s : State} {x : StkAcc} {late : Nat} : (s.doneAccess x late).kept = s.kept := by
  unfold State.doneAccess
  split <;> simp

@[simp] theorem State.performAccess_kept {s : State} {n : Nat} {x : StkAcc} : (s.performAccess n x).kept = s.kept := by
  unfold State.performAccess
  split <;> simp

@[simp] theorem State.completeBad_kept {s : State} {n : Nat} {x : StkAcc} : (s.completeBad n x).kept = s.kept := by
  unfold State.completeBad
  split <;> simp

@[simp] theorem State.mapLost_kept {s : State} {n page : Nat} : (s.mapLost n page).kept = s.kept := by
  simp [State.mapLost]

@[simp] theorem State.attempt_kept {s : State} {n : Nat} {x : StkAcc} {ev : AccEvent} : (s.attempt n x ev).kept = s.kept := by
  unfold State.attempt
  split <;> simp

@[simp] theorem State.reachStk_kept {s : State} {e : StkAt} : (s.reachStk e).kept = s.kept := by
  simp [State.reachStk]

@[simp] theorem execOrdinaryAccess_keeps {k : StkAt} {idx : Nat} {ev : AccEvent} {s : State} : (execOrdinaryAccess k idx ev s).Keeps s.kept := by
  unfold execOrdinaryAccess
  dsimp only
  repeat' split
  all_goals simp

@[simp] theorem State.retry_kept {s : State} {k : StkAt} {idx cause : Nat} {ev : AccEvent} {note : Stack → Stack} :
    (s.retry k idx cause ev note).kept = s.kept := by
  unfold State.retry
  dsimp only
  split <;> simp

@[simp] theorem execAccessTvRetry_keeps {k : StkAt} {idx : Nat} {ev : AccEvent} {s : State} : (execAccessTvRetry k idx ev s).Keeps s.kept := by
  simp [execAccessTvRetry]

@[simp] theorem execParityRetry_keeps {k : StkAt} {idx : Nat} {ev : AccEvent} {s : State} : (execParityRetry k idx ev s).Keeps s.kept := by
  simp [execParityRetry]

@[simp] theorem execInterfaceRecal_keeps {k : StkAt} {idx : Nat} {passed : Bool} {s : State} : (execInterfaceRecal k idx passed s).Keeps s.kept := by
  unfold execInterfaceRecal
  dsimp only
  split <;> simp

/-! ### A cycle of the Lodge clock in which no command runs -/

@[simp] theorem State.idle_kept {s : State} : s.idle.kept = s.kept := by
  simp [State.idle]

/-! ### Rows -/

@[simp] theorem State.prgError_kept {s : State} {n code : Nat} : (s.prgError n code).kept = s.kept := by
  unfold State.prgError
  dsimp only
  split <;> simp

/-! ### Issue conditions (R198, R199, R202) -/

@[simp] theorem State.wakeEngines_kept {s : State} {n : Nat} {pcs : List Nat} : (s.wakeEngines n pcs).kept = s.kept := by
  simp [State.wakeEngines]

/-! ### Effects of the rows -/

@[simp] theorem State.touchEngines_kept {s : State} {n : Nat} {pcs : List Nat} {f : Nat → Engine → Engine} :
    (s.touchEngines n pcs f).kept = s.kept := by
  simp [State.touchEngines]

@[simp] theorem State.rowVload_kept {s : State} {x : RowCtx} : (s.rowVload x).kept = s.kept := by
  simp [State.rowVload]

@[simp] theorem State.columns_kept {s : State} {n pc page col count : Nat} : (s.columns n pc page col count).1.kept = s.kept := by
  simp [State.columns]

@[simp] theorem State.rowSload_kept {s : State} {x : RowCtx} : (s.rowSload x).kept = s.kept := by
  simp [State.rowSload]

@[simp] theorem State.rowMac_kept {s : State} {x : RowCtx} : (s.rowMac x).kept = s.kept := by
  simp [State.rowMac]

@[simp] theorem State.rowAclr_kept {s : State} {x : RowCtx} : (s.rowAclr x).kept = s.kept := by
  simp [State.rowAclr]

@[simp] theorem State.freeBytes_kept {s : State} {n : Nat} : (s.freeBytes n).1.kept = s.kept := by
  induction n generalizing s with
  | zero => rfl
  | succ n ih => exact ih.trans State.fresh_kept

@[simp] theorem State.unitWrite_kept {s : State} {who a : Nat} {bs : List Byte} {poison : Nat → Bool} {acid : Option Nat} :
    (s.unitWrite who a bs poison acid).kept = s.kept := by
  refine kept_foldl (fun t g => ?_) _ _
  split <;> simp

@[simp] theorem State.rowDrain_kept {s : State} {x : RowCtx} : (s.rowDrain x).kept = s.kept := by
  simp [State.rowDrain]

@[simp] theorem State.rowCmove_kept {s : State} {x : RowCtx} : (s.rowCmove x).kept = s.kept := by
  unfold State.rowCmove
  split <;> simp

@[simp] theorem State.advanceRow_kept {s : State} {n : Nat} : (s.advanceRow n).kept = s.kept := by
  simp [State.advanceRow]

@[simp] theorem State.refuseRow_kept {s : State} {x : RowCtx} : (s.refuseRow x).kept = s.kept := by
  simp [State.refuseRow]

@[simp] theorem State.noteOp_kept {s : State} {x : RowCtx} : (s.noteOp x).kept = s.kept := by
  simp [State.noteOp]

@[simp] theorem State.useFetched_kept {s : State} {x : RowCtx} : (s.useFetched x).kept = s.kept := by
  simp [State.useFetched]

/-- A row keeps what its effect keeps. -/
@[simp] theorem State.issueRow_kept {s : State} {e : StkAt} {op : Nat} {effect : State → RowCtx → State}
    (heffect : ∀ t x, (effect t x).kept = t.kept) : (s.issueRow e op effect).kept = s.kept := by
  unfold State.issueRow
  dsimp only
  split
  · simp
  split
  · simp
  split
  · simp
  split <;> simp [heffect]

@[simp] theorem State.rowAct_kept {s : State} {x : RowCtx} : (s.rowAct x).kept = s.kept := by
  simp [State.rowAct]

@[simp] theorem State.rowPre_kept {s : State} {x : RowCtx} : (s.rowPre x).kept = s.kept := by
  simp [State.rowPre]

@[simp] theorem State.rowWake_kept {s : State} {x : RowCtx} : (s.rowWake x).kept = s.kept := by
  simp [State.rowWake]

@[simp] theorem State.rowSig_kept {s : State} {x : RowCtx} : (s.rowSig x).kept = s.kept := by
  simp [State.rowSig]

@[simp] theorem State.rowLoop_kept {s : State} {x : RowCtx} : (s.rowLoop x).kept = s.kept := by
  simp [State.rowLoop]

@[simp] theorem State.rowEnd_kept {s : State} {x : RowCtx} : (s.rowEnd x).kept = s.kept := by
  simp [State.rowEnd]

@[simp] theorem execRowNop_keeps {k : StkAt} {s : State} : (execRowNop k s).Keeps s.kept := by
  simp [execRowNop]

@[simp] theorem execAct_keeps {k : StkAt} {s : State} : (execAct k s).Keeps s.kept := by
  simp [execAct]

@[simp] theorem execPre_keeps {k : StkAt} {s : State} : (execPre k s).Keeps s.kept := by
  simp [execPre]

@[simp] theorem execWake_keeps {k : StkAt} {s : State} : (execWake k s).Keeps s.kept := by
  simp [execWake]

@[simp] theorem execVload_keeps {k : StkAt} {s : State} : (execVload k s).Keeps s.kept := by
  simp [execVload]

@[simp] theorem execSload_keeps {k : StkAt} {s : State} : (execSload k s).Keeps s.kept := by
  simp [execSload]

@[simp] theorem execMac_keeps {k : StkAt} {s : State} : (execMac k s).Keeps s.kept := by
  simp [execMac]

@[simp] theorem execAclr_keeps {k : StkAt} {s : State} : (execAclr k s).Keeps s.kept := by
  simp [execAclr]

@[simp] theorem execDrain_keeps {k : StkAt} {s : State} : (execDrain k s).Keeps s.kept := by
  simp [execDrain]

@[simp] theorem execCmove_keeps {k : StkAt} {s : State} : (execCmove k s).Keeps s.kept := by
  simp [execCmove]

@[simp] theorem execRowSig_keeps {k : StkAt} {s : State} : (execRowSig k s).Keeps s.kept := by
  simp [execRowSig]

@[simp] theorem execRowLoop_keeps {k : StkAt} {s : State} : (execRowLoop k s).Keeps s.kept := by
  simp [execRowLoop]

@[simp] theorem execRowEnd_keeps {k : StkAt} {s : State} : (execRowEnd k s).Keeps s.kept := by
  simp [execRowEnd]

@[simp] theorem execPrgComplete_keeps {k : StkAt} {s : State} : (execPrgComplete k s).Keeps s.kept := by
  unfold execPrgComplete
  dsimp only
  split <;> simp

@[simp] theorem execRowReissue_keeps {k : StkAt} {s : State} : (execRowReissue k s).Keeps s.kept := by
  unfold execRowReissue
  dsimp only
  repeat' split
  all_goals simp

/-! ### Start commands and apertures (R189 to R191, R211) -/

@[simp] theorem execStartCmdAccept_keeps {k : StkAt} {s : State} : (execStartCmdAccept k s).Keeps s.kept := by
  unfold execStartCmdAccept
  dsimp only
  split <;> simp

@[simp] theorem execPrgStart_keeps {k : StkAt} {s : State} : (execPrgStart k s).Keeps s.kept := by
  unfold execPrgStart
  dsimp only
  split <;> simp

@[simp] theorem State.takeAperture_kept {s : State} {k : StkAt} {prgMem : Bool} {f : Stack → Nat → List Byte → Stack} :
    (s.takeAperture k prgMem f).kept = s.kept := by
  unfold State.takeAperture
  dsimp only
  split <;> simp

@[simp] theorem execPrgMemWrite_keeps {k : StkAt} {s : State} : (execPrgMemWrite k s).Keeps s.kept := by
  simp [execPrgMemWrite]

@[simp] theorem execVstageWrite_keeps {k : StkAt} {s : State} : (execVstageWrite k s).Keeps s.kept := by
  simp [execVstageWrite]

/-! ### The timeline of a walk (R275, R276) -/

@[simp] theorem State.streamPages_kept {s : State} {x : RowCtx} {g : AcfgArgs} {bank : Memory} {len pc : Nat} {pages : List (Nat × Nat)} :
    (s.streamPages x g bank len pc pages).1.kept = s.kept := by
  simp [State.streamPages]

@[simp] theorem State.writeRecords_kept {s : State} {x : RowCtx} {g : AcfgArgs} {pc : Nat} {rows : List (List AttRow)} {bad : Nat → Bool} :
    (s.writeRecords x g pc rows bad).kept = s.kept := by
  simp [State.writeRecords]

@[simp] theorem State.noteTable_kept {s : State} {n off : Nat} : (s.noteTable n off).kept = s.kept := by
  unfold State.noteTable
  split <;> simp

@[simp] theorem State.noteTables_kept {s : State} {n root layer : Nat} {js : List Nat} : (s.noteTables n root layer js).kept = s.kept := by
  simp [State.noteTables]

@[simp] theorem State.walkEngine_kept {s : State} {x : RowCtx} {len pc : Nat} {pages : List (Nat × Nat)} {miss : Bool} :
    (s.walkEngine x len pc pages miss).kept = s.kept := by
  simp [State.walkEngine]

@[simp] theorem State.rowAwalk_kept {s : State} {x : RowCtx} : (s.rowAwalk x).kept = s.kept := by
  simp [State.rowAwalk]

@[simp] theorem State.rowAcfg_kept {s : State} {x : RowCtx} : (s.rowAcfg x).kept = s.kept := by
  simp [State.rowAcfg]

@[simp] theorem execAcfg_keeps {k : StkAt} {s : State} : (execAcfg k s).Keeps s.kept := by
  simp [execAcfg]

@[simp] theorem execAwalk_keeps {k : StkAt} {s : State} : (execAwalk k s).Keeps s.kept := by
  simp [execAwalk]

@[simp] theorem execWalkerTableFetch_keeps {k : StkAt} {s : State} : (execWalkerTableFetch k s).Keeps s.kept := by
  simp [execWalkerTableFetch]

/-! ### Events of a stack controller -/

@[simp] theorem State.stkEvent_kept {s : State} {k : StkAt} {f : Stack → Stack} : (s.stkEvent k f).kept = s.kept := by
  simp [State.stkEvent]

@[simp] theorem execBankEngineSleep_keeps {k : StkAt} {pc : Fin 64} {s : State} : (execBankEngineSleep k pc s).Keeps s.kept := by
  simp [execBankEngineSleep]

/-! ### Pre-emption (R203, R276) -/

@[simp] theorem execPreempt_keeps {k : StkAt} {s : State} : (execPreempt k s).Keeps s.kept := by
  simp [execPreempt]

@[simp] theorem execPreemptResume_keeps {k : StkAt} {s : State} : (execPreemptResume k s).Keeps s.kept := by
  simp [execPreemptResume]

/-! ### Refresh, bands and throttle -/

@[simp] theorem execRefreshDue_keeps {k : StkAt} {pc : Fin 64} {s : State} : (execRefreshDue k pc s).Keeps s.kept := by
  simp [execRefreshDue]

@[simp] theorem State.timingDone_kept {s : State} : s.timingDone.kept = s.kept := by
  unfold State.timingDone
  split <;> simp

@[simp] theorem execRefreshBoundary_keeps {k : StkAt} {s : State} : (execRefreshBoundary k s).Keeps s.kept := by
  simp [execRefreshBoundary]

@[simp] theorem execBandSwapRequest_keeps {k : StkAt} {bits : BitVec 4} {s : State} : (execBandSwapRequest k bits s).Keeps s.kept := by
  simp [execBandSwapRequest]

@[simp] theorem execThrottleLevelApply_keeps {k : StkAt} {s : State} : (execThrottleLevelApply k s).Keeps s.kept := by
  simp [execThrottleLevelApply]

@[simp] theorem execEngAvailRestore_keeps {k : StkAt} {pc : Fin 64} {s : State} : (execEngAvailRestore k pc s).Keeps s.kept := by
  simp [execEngAvailRestore]

/-! ### The valid map (R246 to R250) -/

@[simp] theorem execPageFillDone_keeps {k : StkAt} {pc : Fin 64} {page : Nat} {s : State} : (execPageFillDone k pc page s).Keeps s.kept := by
  simp [execPageFillDone]

@[simp] theorem execValidClear_keeps {k : StkAt} {page : BitVec 19} {npage : BitVec 20} {pcmask : BitVec 64} {s : State} :
    (execValidClear k page npage pcmask s).Keeps s.kept := by
  simp [execValidClear]

@[simp] theorem execValidClearDone_keeps {k : StkAt} {s : State} : (execValidClearDone k s).Keeps s.kept := by
  simp [execValidClearDone]

/-! ### The scrubber (R251 to R254) -/

@[simp] theorem State.scrubPage_kept {s : State} {n page : Nat} : (s.scrubPage n page).kept = s.kept := by
  refine kept_foldl (fun t i => ?_) _ _
  dsimp only
  split <;> simp

@[simp] theorem execScrubVisit_keeps {k : StkAt} {s : State} : (execScrubVisit k s).Keeps s.kept := by
  unfold execScrubVisit
  dsimp only
  repeat' split
  all_goals simp

/-! ### Repair (R255 to R258) -/

@[simp] theorem State.migratePage_kept {s : State} {n p : Nat} : (s.migratePage n p).kept = s.kept := by
  simp [State.migratePage]

@[simp] theorem execPageRepair_keeps {k : StkAt} {pc : Fin 64} {page : Nat} {s : State} : (execPageRepair k pc page s).Keeps s.kept := by
  simp [execPageRepair]

@[simp] theorem execOdeccPoll_keeps {counts : List Nat} {s : State} : (execOdeccPoll counts s).Keeps s.kept := by
  simp [execOdeccPoll]

/-! ### Page copies (R282, R289) -/

@[simp] theorem State.startKvCopy_kept {s : State} {n : Nat} {src dst : BitVec 25} : (s.startKvCopy n src dst).kept = s.kept := by
  unfold State.startKvCopy
  dsimp only
  repeat' split
  all_goals simp

@[simp] theorem execKvcopy_keeps {k : StkAt} {src dst : BitVec 25} {s : State} : (execKvcopy k src dst s).Keeps s.kept := by
  simp [execKvcopy]

@[simp] theorem State.copyCachePage_kept {s : State} {n : Nat} {src dst : Nat × Nat × Nat} : (s.copyCachePage n src dst).kept = s.kept := by
  simp [State.copyCachePage]

@[simp] theorem execKvcopyDone_keeps {k : StkAt} {s : State} : (execKvcopyDone k s).Keeps s.kept := by
  unfold execKvcopyDone
  dsimp only
  split <;> simp

/-! ### Reads and writes of engines -/

@[simp] theorem State.fetchGranules_kept {s : State} {gs : List Nat} : (s.fetchGranules gs).1.kept = s.kept := by
  refine kept_foldl_fst (fun t g => ?_) _ _
  dsimp only
  split
  · split <;> simp
  · rfl

@[simp] theorem State.performPiece_kept {s : State} {a : Nat} {bs : List Byte} {mask : Byte} {poison : Bool} :
    (s.performPiece a bs mask poison).kept = s.kept := by
  unfold State.performPiece
  repeat' split
  all_goals simp

/-! ### The traffic of engines at the stack controllers (R203, R210, R236) -/

@[simp] theorem State.askStacks_kept {s : State} {unit : Nat} {gs : List Nat} : (s.askStacks unit gs).kept = s.kept := by
  refine kept_foldl (fun t n => ?_) _ _
  split <;> simp

@[simp] theorem State.performPieces_kept {s : State} {pcs : List (Nat × List Byte × Byte)} {bad : Nat → Bool} :
    (s.performPieces pcs bad).kept = s.kept := by
  simp [State.performPieces]

/-! ### The engine (R175 to R180) -/

@[simp] theorem execCopyCmdAccept_keeps {region : Fin 8} {s : State} : (execCopyCmdAccept region s).Keeps s.kept := by
  unfold execCopyCmdAccept
  dsimp only
  split <;> simp

@[simp] theorem execCopyCmdStart_keeps {region : Fin 8} {dt : Nat} {s : State} : (execCopyCmdStart region dt s).Keeps s.kept := by
  unfold execCopyCmdStart
  dsimp only
  split <;> simp

@[simp] theorem State.arrivePieces_kept {s : State} {acid : Nat} {pcs : List (Nat × List Byte × Byte)} :
    (s.arrivePieces acid pcs).kept = s.kept := by
  refine kept_foldl (fun t p => ?_) _ _
  split <;> simp

@[simp] theorem State.copyElems_kept {s : State} {c : RegCmd} {lim : Nat} : (s.copyElems c lim).1.kept = s.kept := by
  simp [State.copyElems]

@[simp] theorem State.copyPrefix_kept {s : State} {c : RegCmd} : (s.copyPrefix c).kept = s.kept := by
  simp [State.copyPrefix]

@[simp] theorem State.stopCopy_kept {s : State} {n : Nat} : (s.stopCopy n).kept = s.kept := by
  unfold State.stopCopy
  dsimp only
  split <;> simp

@[simp] theorem State.hdmaPrefix_kept {s : State} {c : RegCmd} : (s.hdmaPrefix c).kept = s.kept := by
  simp [State.hdmaPrefix]

@[simp] theorem State.stopHdma_kept {s : State} {n : Nat} : (s.stopHdma n).kept = s.kept := by
  unfold State.stopHdma
  dsimp only
  split <;> simp

@[simp] theorem State.wakePort_kept {s : State} {a : Nat} : (s.wakePort a).kept = s.kept := by
  unfold State.wakePort
  split <;> simp

@[simp] theorem execCopyCmdComplete_keeps {region : Fin 8} {dt : Nat} {s : State} : (execCopyCmdComplete region dt s).Keeps s.kept := by
  unfold execCopyCmdComplete
  dsimp only
  split <;> simp

/-! ### Atomics (R321 to R325, R332) -/

@[simp] theorem State.dispatchAtom_kept {s : State} {n : Nat} {r : AtomRec} : (s.dispatchAtom n r).kept = s.kept := by
  unfold State.dispatchAtom
  repeat' split
  all_goals simp

@[simp] theorem execAtomBatch_keeps {region : Fin 8} {s : State} : (execAtomBatch region s).Keeps s.kept := by
  unfold execAtomBatch
  dsimp only
  split <;> simp

@[simp] theorem State.performAtom_kept {s : State} {r : AtomRec} : (s.performAtom r).kept = s.kept := by
  simp [State.performAtom]

@[simp] theorem execAtomicPerform_keeps {region : Fin 8} {idx : Nat} {s : State} : (execAtomicPerform region idx s).Keeps s.kept := by
  unfold execAtomicPerform
  dsimp only
  split <;> simp

/-! ### Operations that reach the semaphore unit -/

/-- A message that is taken at the semaphore unit keeps what its effect keeps. -/
theorem State.takeSem_kept {s : State} {idx : Nat} {f : State → SemMsg → Option State} (hf : ∀ t m u, f t m = some u → u.kept = t.kept) :
    (s.takeSem idx f).kept = s.kept := by
  unfold State.takeSem
  split
  · rfl
  next m _ =>
    cases hu : f { s with sem := { s.sem with net := listDrop s.sem.net idx } } m with
    | none => rfl
    | some u => exact (hf _ _ _ hu).trans State.kept_mk

@[simp] theorem execSemSignalApply_keeps {idx : Nat} {s : State} : (execSemSignalApply idx s).Keeps s.kept := by
  rw [execSemSignalApply, Answer.keeps_next, State.takeSem_kept]
  intro t m u h
  dsimp only at h
  split at h
  · obtain rfl := Option.some.inj h
    split <;> simp
  · cases h

@[simp] theorem execSemWaitArrive_keeps {idx : Nat} {s : State} : (execSemWaitArrive idx s).Keeps s.kept := by
  rw [execSemWaitArrive, Answer.keeps_next, State.takeSem_kept]
  intro t m u h
  split at h
  · obtain rfl := Option.some.inj h
    simp
  · cases h

@[simp] theorem execSemObsArrive_keeps {idx : Nat} {s : State} : (execSemObsArrive idx s).Keeps s.kept := by
  rw [execSemObsArrive, Answer.keeps_next, State.takeSem_kept]
  intro t m u h
  split at h
  · obtain rfl := Option.some.inj h
    simp
  · cases h

end Sys2Proof.Machine
end

section
/-! What the serving steps and the tombolas leave of what the bounds speak of. -/

namespace Sys2Proof.Machine

/-! ### Writes of the firmware -/

@[simp] theorem State.lodgeWrite_kept {s : State} {a : Nat} {bs : List Byte} : (s.lodgeWrite a bs).kept = s.kept := by
  simp [State.lodgeWrite]

@[simp] theorem State.tableWrite_kept {s : State} {off : Nat} {bs : List Byte} : (s.tableWrite off bs).kept = s.kept := by
  simp [State.tableWrite]

/-! ### Page identifiers and counts -/

@[simp] theorem State.stageLeaf_kept {s : State} {seq layer j : Nat} {id : Option Nat} : (s.stageLeaf seq layer j id).kept = s.kept := by
  simp [State.stageLeaf]

@[simp] theorem State.takePage_kept {s : State} {id : Nat} : (s.takePage id).kept = s.kept := by
  simp [State.takePage]

theorem State.kept_of_allocPages {s : State} {held : List (Nat × Nat × Nat)} {need : List (Nat × Nat)} {r : State × List (Nat × Nat × Nat)}
    (h : s.allocPages held need = some r) : r.1.kept = s.kept := by
  induction need generalizing s held with
  | nil => cases h; rfl
  | cons n need ih =>
    unfold State.allocPages at h
    split at h
    · cases h
    · exact (ih h).trans State.takePage_kept

/-! ### Page tables (R264, R265) -/

@[simp] theorem State.leafSlot_kept {s : State} {seq layer j : Nat} : (s.leafSlot seq layer j).1.kept = s.kept := by
  unfold State.leafSlot
  dsimp only
  split
  · rfl
  · exact State.tableWrite_kept.trans (State.tableWrite_kept.trans State.kept_mk)

@[simp] theorem State.writeLeaf_kept {s : State} {seq layer j : Nat} {id : Option Nat} : (s.writeLeaf seq layer j id).kept = s.kept := by
  simp [State.writeLeaf]

@[simp] theorem State.applyStaged_kept {s : State} : s.applyStaged.kept = s.kept := by
  simp [State.applyStaged]

@[simp] theorem State.dropTables_kept {s : State} {seq : Nat} : (s.dropTables seq).kept = s.kept := by
  simp [State.dropTables]

/-! ### Frees and quarantine (R266, R279, R280) -/

@[simp] theorem State.recordFrees_kept {s : State} {pages : List (Nat × Nat × Nat)} : (s.recordFrees pages).kept = s.kept := by
  simp [State.recordFrees]

@[simp] theorem State.applyFrees_kept {s : State} : s.applyFrees.1.kept = s.kept := by
  refine kept_foldl_fst (fun t id => ?_) _ _
  simp

@[simp] theorem State.releaseQuarantine_kept {s : State} {pages : List Nat} : (s.releaseQuarantine pages).kept = s.kept := by
  refine kept_foldl (fun t x => ?_) _ _
  split <;> simp

/-! ### Copies -/

theorem State.kept_of_movePage {s : State} {seq : Nat} {held : List (Nat × Nat × Nat)} {p : Nat × Nat × Nat}
    {r : State × List (Nat × Nat × Nat)} (h : s.movePage seq held p = some r) : r.1.kept = s.kept := by
  obtain ⟨id, -, rfl⟩ := Option.map_eq_some_iff.mp h
  simp

@[simp] theorem State.askCopies_kept {s : State} : s.askCopies.kept = s.kept := by
  refine kept_foldl (fun t n => ?_) _ _
  split
  · rfl
  · split <;> simp

@[simp] theorem State.readCachePage_kept {s : State} {id : Nat} : (s.readCachePage id).1.kept = s.kept := by
  unfold State.readCachePage
  split <;> simp

@[simp] theorem State.writeCachePage_kept {s : State} {id : Nat} {bs : List Byte} {bad : Bool} : (s.writeCachePage id bs bad).kept = s.kept := by
  unfold State.writeCachePage
  split <;> simp

@[simp] theorem State.savePages_kept {s : State} {pages : List (Nat × Nat × Nat)} {place : Nat → Nat} :
    (s.savePages pages place).1.kept = s.kept := by
  simp [State.savePages]

@[simp] theorem State.loadPages_kept {s : State} {pages saved : List (Nat × Nat × Nat)} {data : List (List Byte × Bool)} :
    (s.loadPages pages saved data).kept = s.kept := by
  refine kept_foldl (fun t v => ?_) _ _
  split <;> simp

/-! ### Sampling parameters (R371 to R373) -/

@[simp] theorem State.markPresent_kept {s : State} {seq tok : Nat} : (s.markPresent seq tok).kept = s.kept := by
  simp [State.markPresent]

@[simp] theorem State.writeSampling_kept {s : State} {seq : Nat} {q : Request} : (s.writeSampling seq q).kept = s.kept := by
  simp [State.writeSampling]

/-! ### Entries and requests -/

@[simp] theorem State.setSeq_kept {s : State} {i : Nat} {e : SeqEntry} : (s.setSeq i e).kept = s.kept := by
  simp [State.setSeq]

@[simp] theorem State.setServing_kept {s : State} {f : Serving → Serving} : (s.setServing f).kept = s.kept := by
  simp [State.setServing]

@[simp] theorem State.onRequest_getD_kept {s t : State} {fn : Nat} {rid : BitVec 32} {f : Request → Request} (ht : t.kept = s.kept) :
    ((s.onRequest fn rid f).getD t).kept = s.kept := by
  unfold State.onRequest
  split
  · simp
  split
  · simp
  split <;> simp [ht]

theorem State.kept_of_takeRecord {s t : State} {fn : Nat} (h : s.takeRecord fn = some t) : t.kept = s.kept := by
  unfold State.takeRecord at h
  dsimp only at h
  split at h
  · cases h
    simp
  · cases h

@[simp] theorem State.unknownRecord_kept {s : State} {fn : Nat} : (s.unknownRecord fn).kept = s.kept := by
  simp [State.unknownRecord]

@[simp] theorem State.queueRequest_kept {s : State} {fn : Nat} {r : ReqRec} {samp : List Byte} {toks : List (BitVec 32)} {resumeOf : Option Nat} :
    (s.queueRequest fn r samp toks resumeOf).kept = s.kept := by
  simp [State.queueRequest]

@[simp] theorem execNewReq_keeps {fn : Nat} {r : ReqRec} {samp : List Byte} {toks : List (BitVec 32)} {s : State} :
    (execNewReq fn r samp toks s).Keeps s.kept := by
  unfold execNewReq
  split
  next h => simp [State.kept_of_takeRecord h]
  · simp

@[simp] theorem execCancel_keeps {fn : Nat} {rid : BitVec 32} {s : State} : (execCancel fn rid s).Keeps s.kept := by
  unfold execCancel
  split
  next h => simp [State.kept_of_takeRecord h]
  · simp

@[simp] theorem execPause_keeps {fn : Nat} {rid : BitVec 32} {ttl : BitVec 17} {s : State} : (execPause fn rid ttl s).Keeps s.kept := by
  unfold execPause
  split
  · simp
  next h => simp [State.kept_of_takeRecord h]

@[simp] theorem execResume_keeps {fn : Nat} {r : ReqRec} {samp : List Byte} {toks : List (BitVec 32)} {s : State} :
    (execResume fn r samp toks s).Keeps s.kept := by
  unfold execResume
  split
  · simp
  next h =>
    dsimp only
    split <;> simp [State.kept_of_takeRecord h]

@[simp] theorem execHostChoice_keeps {fn : Nat} {rid choice lstep : BitVec 32} {s : State} : (execHostChoice fn rid choice lstep s).Keeps s.kept := by
  unfold execHostChoice
  split
  · simp
  next h => split <;> simp [State.kept_of_takeRecord h]

/-! ### Adapters (R355 to R359) -/

@[simp] theorem State.setAdSlot_kept {s : State} {i : Nat} {x : AdSlot} : (s.setAdSlot i x).kept = s.kept := by
  simp [State.setAdSlot]

@[simp] theorem execAdapterLoad_keeps {fn : Nat} {r : ReqRec} {s : State} : (execAdapterLoad fn r s).Keeps s.kept := by
  unfold execAdapterLoad
  split
  · simp
  next h =>
    dsimp only
    split
    · simp [State.kept_of_takeRecord h]
    split
    · simp [State.kept_of_takeRecord h]
    split <;> simp [State.kept_of_takeRecord h]

@[simp] theorem execAdapterRetire_keeps {fn : Nat} {r : ReqRec} {s : State} : (execAdapterRetire fn r s).Keeps s.kept := by
  unfold execAdapterRetire
  split
  · simp
  next h => split <;> simp [State.kept_of_takeRecord h]

@[simp] theorem execAdapterReady_keeps {slot : Nat} {img : AdapterImage} {payload : List Byte} {s : State} :
    (execAdapterReady slot img payload s).Keeps s.kept := by
  unfold execAdapterReady
  dsimp only
  repeat' split
  all_goals simp

/-! ### Output (R337 to R340) -/

@[simp] theorem State.publish_kept {s : State} {q : Request} {new : List (BitVec 128)} {cons : List (Nat × BitVec 32 × BitVec 32)} :
    (s.publish q new cons).1.kept = s.kept := by
  simp [State.publish]

@[simp] theorem State.finish_kept {s : State} {q : Request} {tok : BitVec 32} {seqno status : Nat} {cons : List (Nat × BitVec 32 × BitVec 32)} :
    (s.finish q tok seqno status cons).kept = s.kept := by
  simp [State.finish]

@[simp] theorem State.answerRecord_kept {s : State} {a : Nat × ReqRec × Nat} : (s.answerRecord a).kept = s.kept := by
  simp [State.answerRecord]

/-! ### The plan and the report (R341 to R343) -/

/-- The report of the sequence is taken as any list of bytes: the kernel must not evaluate what the step area holds. -/
@[simp] theorem State.commitSeq_kept {s : State} {i : Nat} {e : SeqEntry} : (s.commitSeq i e).kept = s.kept := by
  have hmarked (t : State) (l : List (BitVec 32)) : (l.foldl (fun acc t => acc.markPresent i t.toNat) t).kept = t.kept :=
    kept_foldl (fun _ _ => State.markPresent_kept) l t
  have hbody : ∀ F, State.commitSeq = F → (F s i e).kept = s.kept := by
    intro F hF
    delta State.commitSeq at hF
    subst hF
    beta_reduce
    generalize s.reportOf i = report
    cases report with
    | none => exact State.setSeq_kept
    | some bs => simp only [State.kept_ite, State.setSeq_kept, State.setServing_kept, hmarked, ite_self]
  exact hbody _ rfl

@[simp] theorem State.noteDeadlines_kept {s : State} {inStep : List Nat} : (s.noteDeadlines inStep).kept = s.kept := by
  simp [State.noteDeadlines]

@[simp] theorem State.action1_kept {s : State} : s.action1.kept = s.kept := by
  refine State.setServing_kept.trans (kept_foldl (fun t i => ?_) _ _)
  split <;> simp

/-! ### Actions 2 to 6 -/

@[simp] theorem State.publishBlock_kept {s : State} {i : Nat} {e : SeqEntry} : (s.publishBlock i e).kept = s.kept := by
  unfold State.publishBlock
  split <;> simp

@[simp] theorem State.publishSeq_kept {s : State} {cons : List (Nat × BitVec 32 × BitVec 32)} {i : Nat} {e : SeqEntry} :
    (s.publishSeq cons i e).kept = s.kept := by
  simp [State.publishSeq]

@[simp] theorem State.action2_kept {s : State} {cons : List (Nat × BitVec 32 × BitVec 32)} : (s.action2 cons).kept = s.kept := by
  unfold State.action2
  rw [kept_foldl fun _ _ => State.answerRecord_kept, State.setServing_kept, kept_foldl, kept_foldl fun _ _ => State.publishSeq_kept, kept_foldl]
  · simp
  · intro t q
    dsimp only
    split <;> simp
  · intro t e
    split <;> simp

@[simp] theorem State.releaseSeq_kept {s : State} {i : Nat} {e : SeqEntry} : (s.releaseSeq i e).kept = s.kept := by
  unfold State.releaseSeq
  split <;> simp

@[simp] theorem State.untake_kept {s : State} {h : Option Nat} : (s.untake h).kept = s.kept := by
  unfold State.untake
  split <;> simp

@[simp] theorem State.endQueued_kept {s : State} {cons : List (Nat × BitVec 32 × BitVec 32)} : (s.endQueued cons).kept = s.kept := by
  refine kept_foldl (fun t x => ?_) _ _
  dsimp only
  split <;> simp

@[simp] theorem State.action3_kept {s : State} {cons : List (Nat × BitVec 32 × BitVec 32)} : (s.action3 cons).kept = s.kept := by
  unfold State.action3
  rw [kept_foldl fun _ _ => State.setFn_kept, kept_foldl]
  · rw [State.setServing_kept, State.endQueued_kept, kept_foldl fun _ _ => State.answerRecord_kept, State.setServing_kept, kept_foldl]
    intro t e
    split <;> simp
  · simp

@[simp] theorem State.switchTo_kept {s : State} {k : Nat} : (s.switchTo k).kept = s.kept := by
  refine kept_foldl (fun t e => ?_) _ _
  split <;> simp

@[simp] theorem State.action4_kept {s : State} : s.action4.kept = s.kept := by
  unfold State.action4
  extract_lets s1 s2
  have hs1 : s1.kept = s.kept := by simp [s1]
  have hs2 : s2.kept = s.kept := by simp [s2, hs1]
  refine (kept_foldl (fun t e => ?_) _ _).trans hs2
  dsimp only
  split
  · rw [State.setAdSlot_kept]
    split <;> simp
  · rfl

@[simp] theorem State.moveOf_kept {s : State} {i : Nat} {p : Nat × Nat × Nat} {mark : Bool} : (s.moveOf i p mark).kept = s.kept := by
  unfold State.moveOf
  split
  · rfl
  split
  next h => simp [State.kept_of_movePage h]
  · simp

@[simp] theorem State.unshare_kept {s : State} {i : Nat} : (s.unshare i).kept = s.kept := by
  unfold State.unshare
  split <;> simp

@[simp] theorem State.leaveRetired_kept {s : State} : s.leaveRetired.kept = s.kept := by
  refine kept_foldl (fun t e => ?_) _ _
  split <;> simp

@[simp] theorem State.planCopies_kept {s : State} : s.planCopies.kept = s.kept := by
  simp [State.planCopies]

@[simp] theorem State.action5_kept {s : State} : s.action5.1.kept = s.kept := by
  simp [State.action5]

/-! ### Action 7 (R350 to R354) -/

@[simp] theorem State.startParking_kept {s : State} {cons : List (Nat × BitVec 32 × BitVec 32)} : (s.startParking cons).kept = s.kept := by
  simp [State.startParking]

theorem State.kept_of_admitOne {s : State} {q : Request} {plan : List (Nat × SeqEntry)} {r : State × List (Nat × SeqEntry)}
    (h : s.admitOne q plan = some r) : r.1.kept = s.kept := by
  unfold State.admitOne at h
  extract_lets parked len slot prompt e0 sp saved need at h
  split at h
  · cases h
  split at h
  · cases h
  split at h
  · cases h
  split at h
  · cases h
  next hpages =>
    extract_lets e1 s1 s2 s3 s4 at h
    obtain rfl := Option.some.inj h
    have hs1 : s1.kept = s.kept := State.writeSampling_kept.trans (State.kept_of_allocPages hpages)
    have hs2 : s2.kept = s.kept := by
      clear_value slot
      clear_value s1
      dsimp only [s2]
      split
      · exact State.setAdSlot_kept.trans hs1
      · exact hs1
    simp [s4, s3, hs2]

@[simp] theorem State.admitAll_kept {s : State} {plan : List (Nat × SeqEntry)} : (s.admitAll plan).1.kept = s.kept := by
  refine kept_foldl_fst (fun t r => ?_) _ _
  split
  next h => simp [State.kept_of_admitOne h]
  · rfl

@[simp] theorem State.preemptFor_kept {s : State} {keep : Nat} : (s.preemptFor keep).kept = s.kept := by
  unfold State.preemptFor
  repeat' split
  all_goals simp

@[simp] theorem State.allocPlan_kept {s : State} {plan : List Nat} : (s.allocPlan plan).1.kept = s.kept := by
  refine kept_foldl_fst (fun t i => ?_) _ _
  dsimp only
  split
  · rfl
  split
  · rfl
  split
  next h => simp [State.kept_of_allocPages h]
  · simp

@[simp] theorem State.makeRoom_kept {s : State} : s.makeRoom.kept = s.kept := by
  simp [State.makeRoom]

@[simp] theorem State.startSwapIns_kept {s : State} : s.startSwapIns.kept = s.kept := by
  refine kept_foldl (fun t e => ?_) _ _
  split
  next h => simp [State.kept_of_allocPages h]
  · rfl

@[simp] theorem State.markPlan_kept {s : State} {plan : List Nat} : (s.markPlan plan).kept = s.kept := by
  refine kept_foldl (fun t e => ?_) _ _
  split <;> simp

@[simp] theorem State.action7_kept {s : State} {cons : List (Nat × BitVec 32 × BitVec 32)} : (s.action7 cons).kept = s.kept := by
  simp [State.action7]

/-! ### Action 8 and the boundary -/

@[simp] theorem State.action8_kept {s : State} : s.action8.kept = s.kept := by
  have hentries (t : State) (area : Nat) (plan : List (Nat × SeqEntry)) : ((List.range plan.length).foldl (fun acc k => match plan[k]? with
      | some e => acc.lodgeWrite (area + 64 + 32 * k) (planEntry e.1 e.2)
      | none => acc) t).kept = t.kept := by
    refine kept_foldl (fun t k => ?_) _ _
    split <;> simp
  unfold State.action8
  extract_lets s0 index base step s1 snap s2 plan area s3 s4 s5
  have hs0 : s0.kept = s.kept := State.applyStaged_kept
  have hs1 : s1.kept = s.kept := by
    refine (kept_foldl (fun _ _ => State.tableWrite_kept) _ _).trans ((kept_foldl (fun t i => ?_) _ _).trans hs0)
    split
    · rfl
    · exact State.tableWrite_kept
  have hs2 : s2.kept = s.kept := (kept_foldl (fun _ _ => State.setStack_kept) _ _).trans hs1
  have hs5 : s5.kept = s.kept := State.setServing_kept.trans ((hentries ..).trans (State.lodgeWrite_kept.trans hs2))
  split <;> simp [hs5]

@[simp] theorem State.endServing_kept {s : State} : s.endServing.kept = s.kept := by
  simp [State.endServing]

theorem State.kept_of_bndAction {s : State} {cons : List (Nat × BitVec 32 × BitVec 32)} {b : Boundary} {r : State × Boundary}
    (h : s.bndAction cons b = some r) : r.1.kept = s.kept := by
  unfold State.bndAction at h
  extract_lets go s1 r1 at h
  split at h
  case h_9 => cases h
  case h_5 =>
    have hs1 : s1.kept = s.kept := by simp [s1]
    split at h
    all_goals
      obtain rfl := Option.some.inj h
      simp [hs1, r1]
  all_goals
    obtain rfl := Option.some.inj h
    simp

@[simp] theorem State.bndRun_kept {cons : List (Nat × BitVec 32 × BitVec 32)} {last n : Nat} {s : State} {b : Boundary} :
    (State.bndRun cons last n s b).1.kept = s.kept := by
  induction n generalizing s b with
  | zero => rfl
  | succ n ih =>
    unfold State.bndRun
    split
    · rfl
    split
    · rfl
    next h =>
      split
      · exact State.kept_of_bndAction h
      · simp [ih, State.kept_of_bndAction h]

@[simp] theorem State.bndClose_kept {s : State} {b : Boundary} : (s.bndClose b).kept = s.kept := by
  simp [State.bndClose]

@[simp] theorem State.bndStep_kept {s : State} {last cycles : Nat} {cons : List (Nat × BitVec 32 × BitVec 32)} {b : Boundary} :
    (s.bndStep last cycles cons b).kept = s.kept := by
  simp [State.bndStep]

@[simp] theorem execStepBoundary_keeps {run : BoundaryRun} {cons : List (Nat × BitVec 32 × BitVec 32)} {s : State} :
    (execStepBoundary run cons s).Keeps s.kept := by
  unfold execStepBoundary
  repeat' split
  all_goals simp

/-! ### Copies to and from host memory (R283, R353, R354) -/

@[simp] theorem State.pagesOut_kept {s : State} {seq : Nat} {e : SeqEntry} {place : Nat → Nat} {parkDone : Bool} :
    (s.pagesOut seq e place parkDone).kept = s.kept := by
  simp [State.pagesOut]

@[simp] theorem execParkCopyDone_keeps {seq : Nat} {s : State} : (execParkCopyDone seq s).Keeps s.kept := by
  unfold execParkCopyDone
  split <;> simp

@[simp] theorem execSwapOutDone_keeps {seq : Nat} {s : State} : (execSwapOutDone seq s).Keeps s.kept := by
  unfold execSwapOutDone
  split <;> simp

@[simp] theorem execSwapInDone_keeps {copy : SwapIn} {s : State} : (execSwapInDone copy s).Keeps s.kept := by
  unfold execSwapInDone
  dsimp only
  repeat' split
  all_goals simp

@[simp] theorem execTtlExpire_keeps {handle : BitVec 48} {s : State} : (execTtlExpire handle s).Keeps s.kept := by
  simp [execTtlExpire]

/-! ### Registers of the rings (R334, R360, R365) -/

@[simp] theorem execReqIfneg_keeps {fn : Nat} {offer : BitVec 16} {s : State} : (execReqIfneg fn offer s).Keeps s.kept := by
  simp [execReqIfneg]

@[simp] theorem execRingEnable_keeps {fn : Nat} {value : BitVec 64} {s : State} : (execRingEnable fn value s).Keeps s.kept := by
  simp [execRingEnable]

@[simp] theorem State.stopFunction_kept {s : State} {fn : Nat} : (s.stopFunction fn).kept = s.kept := by
  simp [State.stopFunction]

@[simp] theorem execFunctionDisable_keeps {fn : Nat} {s : State} : (execFunctionDisable fn s).Keeps s.kept := by
  simp [execFunctionDisable]

/-! ### Commands and their data -/

@[simp] theorem State.fetchBytes_kept {s : State} {a n : Nat} : (s.fetchBytes a n).1.kept = s.kept := by
  simp [State.fetchBytes]

@[simp] theorem State.readRows_kept {s : State} {vocab : Nat} {c : TmbCmd} : (s.readRows vocab c).1.kept = s.kept := by
  simp [State.readRows]

/-! ### Checks (R384) -/

@[simp] theorem State.tmbFail_kept {s : State} {d : Nat} {tag : BitVec 32} {code : Nat} : (s.tmbFail d tag code).kept = s.kept := by
  simp [State.tmbFail]

/-! ### What the commands do -/

theorem State.kept_of_doVerify {s : State} {d : Nat} {c : TmbCmd} {par : List Byte} {r : State × TmbOut} (h : s.doVerify d c par = .ok r) :
    r.1.kept = s.kept := by
  unfold State.doVerify at h
  dsimp only at h
  split at h
  · cases h
  split at h
  · cases h
  · obtain rfl := Except.ok.inj h
    simp

theorem State.kept_of_doPropose {s : State} {d : Nat} {c : TmbCmd} {r : State × TmbOut} (h : s.doPropose d c = .ok r) : r.1.kept = s.kept := by
  unfold State.doPropose at h
  dsimp only at h
  split at h
  · cases h
  · obtain rfl := Except.ok.inj h
    simp

theorem State.kept_of_doExport {s : State} {d : Nat} {c : TmbCmd} {nlog : Nat} {r : State × TmbOut} (h : s.doExport d c nlog = .ok r) :
    r.1.kept = s.kept := by
  unfold State.doExport at h
  dsimp only at h
  split at h
  · cases h
  · obtain rfl := Except.ok.inj h
    simp

@[simp] theorem State.reachTmb_kept {s : State} {d dt : Nat} : (s.reachTmb d dt).kept = s.kept := by
  simp [State.reachTmb]

/-- A command that starts keeps what its run keeps. -/
theorem State.tmbStart_kept {s : State} {d dt op : Nat} {run : State → TmbCmd → List Byte → Nat → Except Nat (State × TmbOut)}
    (hrun : ∀ t c par nlog r, run t c par nlog = .ok r → r.1.kept = t.kept) : (s.tmbStart d dt op run).kept = s.kept := by
  unfold State.tmbStart
  dsimp only
  split
  case h_2 => simp
  split
  · simp
  split
  · simp
  split
  · simp
  split
  · simp
  split
  · simp
  next hres => simpa using hrun _ _ _ _ _ hres

@[simp] theorem execVerify_keeps {d : Fin 2} {dt : Nat} {s : State} : (execVerify d dt s).Keeps s.kept := by
  rw [execVerify, Answer.keeps_next, State.tmbStart_kept fun _ _ _ _ _ h => State.kept_of_doVerify h]

@[simp] theorem execPropose_keeps {d : Fin 2} {dt : Nat} {s : State} : (execPropose d dt s).Keeps s.kept := by
  rw [execPropose, Answer.keeps_next, State.tmbStart_kept fun _ _ _ _ _ h => State.kept_of_doPropose h]

@[simp] theorem execExportLogits_keeps {d : Fin 2} {dt : Nat} {s : State} : (execExportLogits d dt s).Keeps s.kept := by
  rw [execExportLogits, Answer.keeps_next, State.tmbStart_kept fun _ _ _ _ _ h => State.kept_of_doExport h]

@[simp] theorem State.tmbDeliver_kept {s : State} {r : TmbRun} : (s.tmbDeliver r).kept = s.kept := by
  unfold State.tmbDeliver
  dsimp only
  repeat' split
  all_goals simp

@[simp] theorem execTmbCmdComplete_keeps {d : Fin 2} {dt : Nat} {s : State} : (execTmbCmdComplete d dt s).Keeps s.kept := by
  unfold execTmbCmdComplete
  dsimp only
  repeat' split
  all_goals simp

end Sys2Proof.Machine
end

section
/-! What job control, the links, the bandstands, the Lodge's interrupts and the host interface leave of what the bounds speak of. -/

namespace Sys2Proof.Machine

/-! ### Loading -/

@[simp] theorem State.clearPages_kept {s : State} {keep : Nat → Nat → Bool} : (s.clearPages keep).kept = s.kept := by
  simp [State.clearPages]

@[simp] theorem State.lodgeLoad_kept {s : State} {a : Nat} {bs : List Byte} : (s.lodgeLoad a bs).kept = s.kept := by
  unfold State.lodgeLoad
  split <;> simp

@[simp] theorem State.loadSources_kept {s : State} {m : Image} {sel : LiveRange → Bool} : (s.loadSources m sel).kept = s.kept := by
  simp [State.loadSources]

@[simp] theorem State.loadInit_kept {s : State} {m : Image} : (s.loadInit m).kept = s.kept := by
  simp [State.loadInit]

@[simp] theorem State.loadModel_kept {s : State} {m : Image} : (s.loadModel m).kept = s.kept := by
  simp [State.loadModel]

@[simp] theorem State.prepare_kept {s : State} {m : Image} : (s.prepare m).kept = s.kept := by
  simp [State.prepare]

@[simp] theorem State.switchTime_kept {s : State} {live model kind : Nat} : (s.switchTime live model kind).kept = s.kept := by
  simp [State.switchTime]

@[simp] theorem State.placeModel_kept {s : State} {m : Image} : (s.placeModel m).kept = s.kept := by
  simp [State.placeModel]

@[simp] theorem State.startJob_kept {s : State} {m : Image} : (s.startJob m).kept = s.kept := by
  simp [State.startJob]

/-! ### Start and end (R400 to R402, R416) -/

@[simp] theorem State.refuseJob_kept {s : State} {owner code : Nat} : (s.refuseJob owner code).kept = s.kept := by
  simp [State.refuseJob]

@[simp] theorem execJobGo_keeps {image model : List Byte} {hostReadOk : Bool} {s : State} : (execJobGo image model hostReadOk s).Keeps s.kept := by
  unfold execJobGo
  dsimp only
  repeat' split
  all_goals simp

@[simp] theorem execJobEnd_keeps {s : State} : (execJobEnd s).Keeps s.kept := by
  simp [execJobEnd]

@[simp] theorem execJobAbort_keeps {s : State} : (execJobAbort s).Keeps s.kept := by
  simp [execJobAbort]

@[simp] theorem execJobRelease_keeps {s : State} : (execJobRelease s).Keeps s.kept := by
  simp [execJobRelease]

@[simp] theorem execJobFinish_keeps {s : State} : (execJobFinish s).Keeps s.kept := by
  simp [execJobFinish]

/-! ### Teardown (R409, R410) -/

@[simp] theorem State.stopTile_kept {s : State} {n reason detail : Nat} : (s.stopTile n reason detail).kept = s.kept := by
  simp [State.stopTile]

@[simp] theorem State.finalBoundary_kept {s : State} {cause : Nat} : (s.finalBoundary cause).kept = s.kept := by
  unfold State.finalBoundary
  rw [kept_foldl fun _ _ => State.setFn_kept, State.setServing_kept, kept_foldl fun _ _ => State.answerRecord_kept, kept_foldl, kept_foldl]
  · rw [State.action2_kept, State.noteDeadlines_kept, State.action1_kept]
  all_goals
    intro t q
    split <;> simp

@[simp] theorem State.cancelWork_kept {s : State} : s.cancelWork.kept = s.kept := by
  simp [State.cancelWork]

@[simp] theorem State.teardown_kept {s : State} : s.teardown.kept = s.kept := by
  unfold State.teardown
  split <;> simp

@[simp] theorem execJobTeardown_keeps {s : State} : (execJobTeardown s).Keeps s.kept := by
  simp [execJobTeardown]

/-! ### Live state (R403, R406, R408) -/

@[simp] theorem State.reloadTiles_kept {s : State} {m : Image} {v : Option Saved} {sel : Nat → Bool} : (s.reloadTiles m v sel).kept = s.kept := by
  unfold State.reloadTiles
  split <;> simp

@[simp] theorem State.restoreRest_kept {s : State} {m : Image} {v : Saved} : (s.restoreRest m v).kept = s.kept := by
  simp [State.restoreRest]

@[simp] theorem State.takeCheckpoint_kept {s : State} {m : Image} {c : CkptCfg} : (s.takeCheckpoint m c).kept = s.kept := by
  simp [State.takeCheckpoint]

@[simp] theorem execCheckpointSave_keeps {s : State} : (execCheckpointSave s).Keeps s.kept := by
  unfold execCheckpointSave
  split <;> simp

/-! ### Remaps (R16, R29, R403, R514) -/

@[simp] theorem State.remapTile_kept {s : State} {u v : Nat} : (s.remapTile u v).kept = s.kept := by
  unfold State.remapTile
  dsimp only
  split <;> simp

@[simp] theorem State.remapAll_kept {s : State} : s.remapAll.kept = s.kept := by
  refine kept_foldl (fun t r => ?_) _ _
  split <;> simp

@[simp] theorem State.restoreCheckpoint_kept {s : State} : s.restoreCheckpoint.kept = s.kept := by
  unfold State.restoreCheckpoint
  dsimp only
  repeat' split
  all_goals simp

@[simp] theorem execCheckpointRestore_keeps {s : State} : (execCheckpointRestore s).Keeps s.kept := by
  simp [execCheckpointRestore]

/-! ### Pre-emption (R405) -/

@[simp] theorem execJobPreempt_keeps {s : State} : (execJobPreempt s).Keeps s.kept := by
  unfold execJobPreempt
  repeat' split
  all_goals simp

@[simp] theorem execJobResume_keeps {s : State} : (execJobResume s).Keeps s.kept := by
  unfold execJobResume
  split <;> simp

/-! ### Quiesce points (R16, R29, R403, R512 to R514) -/

@[simp] theorem State.applyCurve_kept {s : State} {payload : List Byte} : (s.applyCurve payload).kept = s.kept := by
  simp [State.applyCurve]

@[simp] theorem execQuiescePoint_keeps {s : State} : (execQuiescePoint s).Keeps s.kept := by
  unfold execQuiescePoint
  dsimp only
  repeat' split
  all_goals simp

/-! ### Versions and quotas (R10 to R12, R400, R411 to R414, R421) -/

@[simp] theorem execIfnegWrite_keeps {iface : BitVec 3} {offer : BitVec 16} {s : State} : (execIfnegWrite iface offer s).Keeps s.kept := by
  simp [execIfnegWrite]

@[simp] theorem execQuotaWrite_keeps {f : Nat} {a b : BitVec 64} {s : State} : (execQuotaWrite f a b s).Keeps s.kept := by
  simp [execQuotaWrite]

/-! ### Training (R423 to R431) -/

@[simp] theorem State.trainLink_kept {s : State} {n : Nat} : (s.trainLink n).kept = s.kept := by
  simp [State.trainLink]

@[simp] theorem State.toRetrain_kept {s : State} {n : Nat} : (s.toRetrain n).kept = s.kept := by
  simp [State.toRetrain]

@[simp] theorem State.retrainLink_kept {s : State} {n : Nat} : (s.retrainLink n).kept = s.kept := by
  simp [State.retrainLink]

@[simp] theorem State.enableLink_kept {s : State} {n : Nat} : (s.enableLink n).kept = s.kept := by
  simp [State.enableLink]

@[simp] theorem State.disableLink_kept {s : State} {n : Nat} : (s.disableLink n).kept = s.kept := by
  simp [State.disableLink]

@[simp] theorem execLinkEnable_keeps {n : Fin 24} {s : State} : (execLinkEnable n s).Keeps s.kept := by
  simp [execLinkEnable]

@[simp] theorem execLinkDetectDone_keeps {n : Fin 24} {signal : BitVec 5} {s : State} : (execLinkDetectDone n signal s).Keeps s.kept := by
  simp [execLinkDetectDone]

@[simp] theorem execLinkLockDone_keeps {n : Fin 24} {lanes : List LaneObs} {s : State} : (execLinkLockDone n lanes s).Keeps s.kept := by
  simp [execLinkLockDone]

@[simp] theorem State.linkActive_kept {s : State} {n : Nat} {f : NegFlit} : (s.linkActive n f).kept = s.kept := by
  simp [State.linkActive]

@[simp] theorem State.endNegotiate_kept {s : State} {n : Nat} : (s.endNegotiate n).kept = s.kept := by
  unfold State.endNegotiate
  dsimp only
  split <;> simp

@[simp] theorem execNegFlitRx_keeps {n : Fin 24} {bits : BitVec 2048} {fecCorr : Nat} {s : State} :
    (execNegFlitRx n bits fecCorr s).Keeps s.kept := by
  simp [execNegFlitRx]

@[simp] theorem execLinkTrainTimeout_keeps {n : Fin 24} {s : State} : (execLinkTrainTimeout n s).Keeps s.kept := by
  simp [execLinkTrainTimeout]

@[simp] theorem execLinkRetrain_keeps {n : Fin 24} {s : State} : (execLinkRetrain n s).Keeps s.kept := by
  simp [execLinkRetrain]

/-! ### Sparing (R427, R441) -/

@[simp] theorem State.retireLane_kept {s : State} {n lane : Nat} : (s.retireLane n lane).kept = s.kept := by
  simp [State.retireLane]

@[simp] theorem execSpareNow_keeps {n : Fin 24} {lane : BitVec 3} {s : State} : (execSpareNow n lane s).Keeps s.kept := by
  simp [execSpareNow]

@[simp] theorem execLaneRetire_keeps {n : Fin 24} {lane : Fin 5} {s : State} : (execLaneRetire n lane s).Keeps s.kept := by
  simp [execLaneRetire]

@[simp] theorem execSpareLaneLosesLock_keeps {n : Fin 24} {s : State} : (execSpareLaneLosesLock n s).Keeps s.kept := by
  simp [execSpareLaneLosesLock]

/-! ### Flits (R428, R434 to R439, R603) -/

@[simp] theorem State.noteReplay_kept {s : State} {n : Nat} : (s.noteReplay n).kept = s.kept := by
  simp [State.noteReplay]

@[simp] theorem State.nakOnce_kept {s : State} {n : Nat} {counts : Bool} : (s.nakOnce n counts).kept = s.kept := by
  simp [State.nakOnce]

@[simp] theorem State.replay_kept {s : State} {n : Nat} : (s.replay n).kept = s.kept := by
  simp [State.replay]

@[simp] theorem State.takeHeader_kept {s : State} {n : Nat} {f : Flit} : (s.takeHeader n f).kept = s.kept := by
  simp [State.takeHeader]

@[simp] theorem execFlitRx_keeps {n : Fin 24} {r : FlitIn} {s : State} : (execFlitRx n r s).Keeps s.kept := by
  simp [execFlitRx]

@[simp] theorem execNullFlitTx_keeps {n : Fin 24} {s : State} : (execNullFlitTx n s).Keeps s.kept := by
  simp [execNullFlitTx]

/-! ### Chakar links -/

@[simp] theorem execLinkLeaveActive_keeps {n : Fin 24} {cause : LeaveCause} {s : State} : (execLinkLeaveActive n cause s).Keeps s.kept := by
  unfold execLinkLeaveActive
  repeat' split
  all_goals simp

@[simp] theorem State.bndFail_kept {s : State} {d : Nat} {tag : BitVec 32} {code : Nat} : (s.bndFail d tag code).kept = s.kept := by
  simp [State.bndFail]

@[simp] theorem State.lostPackets_kept {s : State} {lost : List Packet} : (s.lostPackets lost).kept = s.kept := by
  unfold State.lostPackets
  dsimp only
  split <;> simp

@[simp] theorem execHeldPacketTimeout_keeps {n : Fin 24} {s : State} : (execHeldPacketTimeout n s).Keeps s.kept := by
  simp [execHeldPacketTimeout]

@[simp] theorem execResentWindowExpire_keeps {n : Fin 24} {s : State} : (execResentWindowExpire n s).Keeps s.kept := by
  simp [execResentWindowExpire]

/-! ### Packets that arrive (R432, R439, R440, R442, R445 to R449) -/

@[simp] theorem State.freeSlots_kept {s : State} {n vc k : Nat} : (s.freeSlots n vc k).kept = s.kept := by
  simp [State.freeSlots]

@[simp] theorem State.forward_kept {s : State} {n : Nat} {p : Packet} : (s.forward n p).kept = s.kept := by
  simp [State.forward]

/-- A packet that arrives keeps what its effect keeps. -/
@[simp] theorem State.rxPacket_kept {s : State} {n ty : Nat} {p : Packet} {own : State → State} (hown : ∀ t, (own t).kept = t.kept) :
    (s.rxPacket n ty p own).kept = s.kept := by
  simp [State.rxPacket, hown]

@[simp] theorem State.refuseInbound_kept {s : State} {p : Packet} : (s.refuseInbound p).kept = s.kept := by
  simp [State.refuseInbound]

@[simp] theorem State.takeWrite_kept {s : State} {p : Packet} : (s.takeWrite p).kept = s.kept := by
  unfold State.takeWrite
  split
  case isFalse => simp
  split
  · simp
  · refine kept_foldl (fun t g => ?_) _ _
    split <;> simp
  · simp

@[simp] theorem execWritePktRx_keeps {n : Fin 24} {p : Packet} {s : State} : (execWritePktRx n p s).Keeps s.kept := by
  simp [execWritePktRx]

@[simp] theorem State.takeSignal_kept {s : State} {p : Packet} : (s.takeSignal p).kept = s.kept := by
  simp [State.takeSignal]

@[simp] theorem execSignalPktRx_keeps {n : Fin 24} {p : Packet} {s : State} : (execSignalPktRx n p s).Keeps s.kept := by
  simp [execSignalPktRx]

@[simp] theorem execAckPktRx_keeps {n : Fin 24} {p : Packet} {s : State} : (execAckPktRx n p s).Keeps s.kept := by
  simp [execAckPktRx]

@[simp] theorem State.takeRefuse_kept {s : State} {p : Packet} : (s.takeRefuse p).kept = s.kept := by
  unfold State.takeRefuse
  dsimp only
  split <;> simp

@[simp] theorem execRefusePktRx_keeps {n : Fin 24} {p : Packet} {s : State} : (execRefusePktRx n p s).Keeps s.kept := by
  simp [execRefusePktRx]

/-! ### The rings (R454, R455) -/

@[simp] theorem State.sendStep_kept {s : State} {d : Nat} {fwd : Bool} {step : Nat} {bs : List Byte} : (s.sendStep d fwd step bs).kept = s.kept := by
  unfold State.sendStep
  split <;> simp

/-! ### What arrives (R453 to R457) -/

@[simp] theorem State.returnCredits_kept {s : State} {d : Nat} : (s.returnCredits d).kept = s.kept := by
  simp [State.returnCredits]

@[simp] theorem State.ringStep_kept {s : State} {d : Nat} {fwd : Bool} : (s.ringStep d fwd).kept = s.kept := by
  unfold State.ringStep
  dsimp only
  repeat' split
  all_goals simp

@[simp] theorem State.pumpRings_kept {s : State} {d fuel : Nat} : (s.pumpRings d fuel).kept = s.kept := by
  induction fuel generalizing s with
  | zero => rfl
  | succ fuel ih => simp [State.pumpRings, ih]

/-! ### The bandstand's collectives -/

@[simp] theorem State.bndStart_kept {s : State} {d op : Nat} : (s.bndStart d op).kept = s.kept := by
  unfold State.bndStart
  dsimp only
  repeat' split
  all_goals simp

@[simp] theorem execAllreduce_keeps {d : Fin 2} {s : State} : (execAllreduce d s).Keeps s.kept := by
  simp [execAllreduce]

@[simp] theorem execReducescatter_keeps {d : Fin 2} {s : State} : (execReducescatter d s).Keeps s.kept := by
  simp [execReducescatter]

@[simp] theorem execAllgather_keeps {d : Fin 2} {s : State} : (execAllgather d s).Keeps s.kept := by
  simp [execAllgather]

@[simp] theorem execBroadcast_keeps {d : Fin 2} {s : State} : (execBroadcast d s).Keeps s.kept := by
  simp [execBroadcast]

@[simp] theorem State.takeColl_kept {s : State} {n : Nat} {p : Packet} : (s.takeColl n p).kept = s.kept := by
  simp [State.takeColl]

@[simp] theorem execCollPktRx_keeps {n : Fin 24} {p : Packet} {s : State} : (execCollPktRx n p s).Keeps s.kept := by
  simp [execCollPktRx]

@[simp] theorem execBndCmdComplete_keeps {d : Fin 2} {s : State} : (execBndCmdComplete d s).Keeps s.kept := by
  unfold execBndCmdComplete
  dsimp only
  split <;> simp

/-! ### Heartbeats and failover (R497 to R500) -/

@[simp] theorem State.takeOver_kept {s : State} {k : Nat} {lost : BitVec 16} : (s.takeOver k lost).kept = s.kept := by
  unfold State.takeOver
  extract_lets resume s1 s2
  have hresume (t : State) (d : Nat) : (resume t d).kept = t.kept := by
    dsimp only [resume]
    split <;> simp
  have hs1 : s1.kept = s.kept := by
    refine kept_foldl (fun t d => ?_) _ _
    split
    · rfl
    · exact State.setDuty_kept.trans (hresume t d)
  have hs2 : s2.kept = s.kept := by simp [s2, hs1]
  split
  · exact hs2
  · rfl

@[simp] theorem execHeartbeat_keeps {k : Fin 4} {beat : Beat} {s : State} : (execHeartbeat k beat s).Keeps s.kept := by
  simp [execHeartbeat]

@[simp] theorem State.grantClaim_kept {s : State} {k victim : Nat} : (s.grantClaim k victim).kept = s.kept := by
  simp [State.grantClaim]

@[simp] theorem execHeartbeatTimeout_keeps {k victim : Fin 4} {s : State} : (execHeartbeatTimeout k victim s).Keeps s.kept := by
  simp [execHeartbeatTimeout]

@[simp] theorem execFailoverClaim_keeps {k victim : Fin 4} {s : State} : (execFailoverClaim k victim s).Keeps s.kept := by
  simp [execFailoverClaim]

@[simp] theorem State.stewardTested_kept {s : State} {k : Nat} {passed : Bool} : (s.stewardTested k passed).kept = s.kept := by
  simp [State.stewardTested]

@[simp] theorem execStewardSelftestDone_keeps {k : Fin 4} {passed : Bool} {s : State} : (execStewardSelftestDone k passed s).Keeps s.kept := by
  simp [execStewardSelftestDone]

/-! ### The interrupt controller (R501 to R506) -/

@[simp] theorem State.fireFrom_kept {s : State} {source : Nat} {origin : IntOrigin} : (s.fireFrom source origin).kept = s.kept := by
  unfold State.fireFrom
  split <;> simp

@[simp] theorem execIntFire_keeps {source : BitVec 11} {origin : IntOrigin} {s : State} : (execIntFire source origin s).Keeps s.kept := by
  simp [execIntFire]

@[simp] theorem execIntOffer_keeps {source : BitVec 11} {dt : Nat} {s : State} : (execIntOffer source dt s).Keeps s.kept := by
  rw [execIntOffer, Answer.keeps_next]
  split
  · simp
  · split <;> rfl

@[simp] theorem execIntClaim_keeps {k : Fin 4} {s : State} : (execIntClaim k s).Keeps s.kept := by
  unfold execIntClaim
  repeat' split
  all_goals simp

@[simp] theorem execIntEoi_keeps {k : Fin 4} {source : BitVec 11} {s : State} : (execIntEoi k source s).Keeps s.kept := by
  simp [execIntEoi]

/-! ### Status events (R27, R505, R521) -/

@[simp] theorem execStatusEvent_keeps {unit : BitVec 16} {report : BitVec 3} {kind : BitVec 4} {s : State} :
    (execStatusEvent unit report kind s).Keeps s.kept := by
  simp [execStatusEvent]

/-- A pop leaves no more events (R505). -/
@[simp] theorem execEvqPop_leads {k : Fin 4} {s : State} : (execEvqPop k s).Leads s.kept := by
  rw [execEvqPop, Answer.leads_next]
  split
  · simp
  split
  · simp
  next e rest hevq =>
    rw [State.send_kept, State.kept_mk]
    refine State.leads_of_events fun h => ?_
    simp only [eventsFit, hevq, List.length_cons, decide_eq_true_eq] at h ⊢
    omega

/-! ### Read-back of fenced units (R16, R17, R29, R210, R444, R485) -/

@[simp] theorem State.unitLost_kept {s : State} {u : Nat} : (s.unitLost u).kept = s.kept := by
  simp [State.unitLost]

@[simp] theorem State.readbackFailed_kept {s : State} {u : Nat} : (s.readbackFailed u).kept = s.kept := by
  unfold State.readbackFailed
  split <;> simp

@[simp] theorem execFenceReadback_keeps {unit : BitVec 16} {passed : Bool} {s : State} : (execFenceReadback unit passed s).Keeps s.kept := by
  simp [execFenceReadback]

/-! ### Doorbells (R469, R470) -/

@[simp] theorem execHstDbRing_keeps {fn : Nat} {tail : BitVec 16} {s : State} : (execHstDbRing fn tail s).Keeps s.kept := by
  simp [execHstDbRing]

@[simp] theorem execHstDbSem_keeps {fn : Nat} {sem : BitVec 16} {amount : BitVec 32} {s : State} : (execHstDbSem fn sem amount s).Keeps s.kept := by
  simp [execHstDbSem]

@[simp] theorem execHstDbInt_keeps {fn : Nat} {source : BitVec 11} {s : State} : (execHstDbInt fn source s).Keeps s.kept := by
  simp [execHstDbInt]

/-! ### The stack aperture (R471, R472) -/

@[simp] theorem execApertureRead_keeps {fn off len : Nat} {s : State} : (execApertureRead fn off len s).Keeps s.kept := by
  unfold execApertureRead
  extract_lets pcs bad s1
  have hs1 : s1.kept = s.kept := by
    refine kept_foldl (fun t p => ?_) _ _
    split <;> simp
  rw [Answer.keeps_next]
  split
  · simp
  · clear_value bad
    split <;> simp [hs1]

@[simp] theorem execApertureWrite_keeps {fn off : Nat} {data : List Byte} {ep : Bool} {s : State} :
    (execApertureWrite fn off data ep s).Keeps s.kept := by
  unfold execApertureWrite
  extract_lets x pcs bad s1 s2
  have hs1 : s1.kept = s.kept := by
    dsimp only [s1]
    split
    · rfl
    · refine kept_foldl (fun t p => ?_) _ _
      split <;> simp
  have hs2 : s2.kept = s.kept := by simp [s2, hs1]
  rw [Answer.keeps_next]
  split
  · simp
  · clear_value bad
    split <;> simp [hs2]

/-! ### Translations (R474) -/

@[simp] theorem State.hdmaStop_kept {s : State} {n a : Nat} : (s.hdmaStop n a).kept = s.kept := by
  unfold State.hdmaStop
  dsimp only
  split <;> simp

@[simp] theorem State.drainAts_kept {s : State} : s.drainAts.kept = s.kept := by
  unfold State.drainAts
  rw [kept_foldl]
  · simp
  intro t x
  repeat' split
  all_goals simp

@[simp] theorem State.refuseWait_kept {s : State} {w : AtsWait} : (s.refuseWait w).kept = s.kept := by
  unfold State.refuseWait
  repeat' split
  all_goals simp

/-- A translation that is granted takes the place of the oldest where the cache is full (R474). -/
@[simp] theorem execAtsTranslationCompletion_leads {fn : Nat} {addr : BitVec 64} {granted : Option (BitVec 64)} {write : Bool} {s : State} :
    (execAtsTranslationCompletion fn addr granted write s).Leads s.kept := by
  unfold execAtsTranslationCompletion
  extract_lets page hit denied keep cache s1
  rw [Answer.leads_next]
  split
  · simp
  · rw [State.drainAts_kept, kept_foldl fun _ _ => State.refuseWait_kept]
    have hkeep : keep.length ≤ s.atsCache.length := List.length_filter_le ..
    have hcache : s.atsCache.length ≤ 8192 → cache.length ≤ 8192 := by
      intro h
      dsimp only [cache]
      split
      · exact hkeep.trans h
      · simp only [List.length_append, List.length_drop, List.length_cons, List.length_nil]
        omega
    exact State.leads_of_translations hcache

@[simp] theorem State.answerInval_kept {s : State} : s.answerInval.kept = s.kept := by
  simp [State.answerInval]

@[simp] theorem execAtsInvalidate_leads {fn : Nat} {addr : BitVec 64} {size : Nat} {s : State} : (execAtsInvalidate fn addr size s).Leads s.kept := by
  rw [execAtsInvalidate, Answer.leads_next, State.answerInval_kept]
  exact State.leads_of_translations fun h => (List.length_filter_le ..).trans h

/-! ### Completions of host reads (R475, R476) -/

@[simp] theorem State.deliverHost_kept {s : State} {r : HostReq} {data : List Byte} {ep : Bool} : (s.deliverHost r data ep).kept = s.kept := by
  unfold State.deliverHost
  split <;> simp

theorem State.kept_of_takeReq {s : State} {id : Nat} {r : HostReq × State} (h : s.takeReq id = some r) : r.2.kept = s.kept := by
  obtain ⟨q, -, rfl⟩ := Option.map_eq_some_iff.mp h
  exact State.kept_mk

@[simp] theorem execHostReadCompletion_keeps {id : Nat} {status : CplStatus} {data : List Byte} {ep : Bool} {s : State} :
    (execHostReadCompletion id status data ep s).Keeps s.kept := by
  rw [execHostReadCompletion, Answer.keeps_next]
  split
  · simp
  next h =>
    have htaken := State.kept_of_takeReq h
    cases status <;> simp [htaken]

@[simp] theorem execHostReadTimeout_keeps {id : Nat} {s : State} : (execHostReadTimeout id s).Keeps s.kept := by
  rw [execHostReadTimeout, Answer.keeps_next]
  split
  · simp
  next h =>
    have htaken := State.kept_of_takeReq h
    simp [htaken]

/-! ### Host-DMA commands (R477 to R479, R492) -/

@[simp] theorem execHdmaCmdAccept_keeps {region : Fin 8} {s : State} : (execHdmaCmdAccept region s).Keeps s.kept := by
  unfold execHdmaCmdAccept
  dsimp only
  split <;> simp

@[simp] theorem State.hdmaDone_kept {s : State} {n : Nat} {c : RegCmd} {pcs : List (Nat × List Byte × Byte)} :
    (s.hdmaDone n c pcs).kept = s.kept := by
  simp [State.hdmaDone]

@[simp] theorem execHdmaCmdComplete_keeps {region : Fin 8} {data : List Byte} {ep : Bool} {s : State} :
    (execHdmaCmdComplete region data ep s).Keeps s.kept := by
  unfold execHdmaCmdComplete
  extract_lets n r f asks
  rw [Answer.keeps_next]
  split
  · rfl
  split
  · rfl
  extract_lets it haddr laddr len out pages cold most gs g t bs pcs u v
  have ht : t.kept = s.kept := by simp [t, g]
  have hu : u.kept = s.kept := State.performPieces_kept
  have hv : v.kept = s.kept := by simp [v, hu]
  clear_value cold most t v
  split
  · simp
  split
  · simp
  split
  · rfl
  split
  · simp
  split
  · simp
  split
  · split <;> simp [ht]
  split
  · simp
  · split <;> simp [hv]

/-! ### The notification view (R327, R330, R481) -/

@[simp] theorem State.writeNtfA_kept {s : State} {fn j : Nat} {a : BitVec 64} : (s.writeNtfA fn j a).kept = s.kept := by
  simp [State.writeNtfA]

@[simp] theorem State.writeNtfB_kept {s : State} {fn j : Nat} {b : BitVec 64} : (s.writeNtfB fn j b).kept = s.kept := by
  simp [State.writeNtfB]

@[simp] theorem execNtfArm_keeps {fn slot : Nat} {a : BitVec 64} {s : State} : (execNtfArm fn slot a s).Keeps s.kept := by
  simp [execNtfArm]

/-! ### Function resets (R360, R361, R482) -/

@[simp] theorem State.assignNtf_kept {s : State} {fn : Nat} : (s.assignNtf fn).kept = s.kept := by
  unfold State.assignNtf
  dsimp only
  repeat' split
  all_goals simp

@[simp] theorem State.vfReset_kept {s : State} {fn : Nat} : (s.vfReset fn).kept = s.kept := by
  simp [State.vfReset]

@[simp] theorem execVfFlr_keeps {fn : Nat} {s : State} : (execVfFlr fn s).Keeps s.kept := by
  simp [execVfFlr]

@[simp] theorem execFunctionEnable_keeps {fn : Nat} {s : State} : (execFunctionEnable fn s).Keeps s.kept := by
  simp [execFunctionEnable]

end Sys2Proof.Machine
end

section
/-! What power control, live service, start-up, firmware, test and register writes leave of what the bounds speak of. -/

namespace Sys2Proof.Machine

/-! ### Demands (R531, R533, R540 to R543) -/

@[simp] theorem State.retarget_kept {s : State} : s.retarget.kept = s.kept := by
  simp [State.retarget]

@[simp] theorem State.throttle_kept {s : State} : s.throttle.kept = s.kept := by
  simp [State.throttle]

/-! ### Shutdown (R526, R544 to R546) -/

@[simp] theorem State.beginShutdown_kept {s : State} {c : ShutdownCause} : (s.beginShutdown c).kept = s.kept := by
  simp [State.beginShutdown]

/-- The rails of a shutdown leave no translation. -/
@[simp] theorem State.railsOff_leads {s : State} : s.kept.Leads s.railsOff.kept := by
  have hended : (if s.jobLive then { s with job := { s.job with tearing := none } }.endJob 7 else s).kept = s.kept := by
    split
    · exact State.endJob_kept
    · rfl
  exact (Kept.leads_of_eq hended).trans (State.leads_of_translations fun _ => Nat.zero_le _)

@[simp] theorem execOrderlyShutdown_keeps {cause : ShutdownCause} {s : State} : (execOrderlyShutdown cause s).Keeps s.kept := by
  simp [execOrderlyShutdown]

@[simp] theorem execShutdownRailsOff_leads {s : State} : (execShutdownRailsOff s).Leads s.kept := by
  simp [execShutdownRailsOff]

@[simp] theorem execHardwareTrip_leads {s : State} : (execHardwareTrip s).Leads s.kept := by
  simp [execHardwareTrip]

@[simp] theorem State.faultRail_kept {s : State} {kind : RailFaultKind} : (s.faultRail kind).kept = s.kept := by
  simp [State.faultRail]

@[simp] theorem execRailFault_keeps {kind : RailFaultKind} {s : State} : (execRailFault kind s).Keeps s.kept := by
  simp [execRailFault]

@[simp] theorem execFlowLost_keeps {s : State} : (execFlowLost s).Keeps s.kept := by
  rw [execFlowLost, Answer.keeps_next]
  split
  · rfl
  · exact State.throttle_kept.trans (State.fireInt_kept (s := s))

@[simp] theorem execFlowRestored_keeps {s : State} : (execFlowRestored s).Keeps s.kept := by
  simp [execFlowRestored]

@[simp] theorem execFlowLostLimit_keeps {s : State} : (execFlowLostLimit s).Keeps s.kept := by
  simp [execFlowLostLimit]

/-! ### The power guard (R531, R532) -/

@[simp] theorem execGuardSample_keeps {milliwatts : Nat} {s : State} : (execGuardSample milliwatts s).Keeps s.kept := by
  unfold execGuardSample
  extract_lets p milliwatts l avg above stuck low q
  rw [Answer.keeps_next]
  split
  · rfl
  split
  · exact State.retarget_kept.trans (State.fireInt_kept (s := s))
  split
  · simp
  split <;> simp

@[simp] theorem execLevelChangeDone_keeps {s : State} : (execLevelChangeDone s).Keeps s.kept := by
  simp [execLevelChangeDone]

/-! ### The housekeeping round (R27, R494, R496) -/

@[simp] theorem State.thermalRound_kept {s : State} : s.thermalRound.kept = s.kept := by
  simp [State.thermalRound]

@[simp] theorem State.updateBoard_kept {s : State} : s.updateBoard.kept = s.kept := by
  simp [State.updateBoard]

@[simp] theorem State.updateSensors_kept {s : State} : s.updateSensors.kept = s.kept := by
  simp [State.updateSensors]

@[simp] theorem execHousekeepingRound_keeps {samples : List Lane} {dt : Nat} {s : State} : (execHousekeepingRound samples dt s).Keeps s.kept := by
  unfold execHousekeepingRound
  extract_lets t k first n power p p1 lodge s1 s2 s3 s4 x
  have ht : t.kept = s.kept := State.fireInt_kept
  have hs1 : s1.kept = s.kept := ht
  have hs2 : s2.kept = s.kept := by
    clear_value s1
    dsimp only [s2]
    split
    · split
      · exact State.liveEnd_kept.trans hs1
      · exact hs1
    · exact hs1
  have hs3 : s3.kept = s.kept := by simp [s3, hs2]
  have hs4 : s4.kept = s.kept := (kept_foldl (fun _ _ => State.checkUnit_kept) _ _).trans hs3
  rw [Answer.keeps_next]
  split
  · exact ht
  · simp [hs4]

@[simp] theorem execThermalCalibrate_keeps {k : Fin 4} {s : State} : (execThermalCalibrate k s).Keeps s.kept := by
  simp [execThermalCalibrate]

/-! ### Endpoints (R507 to R510, R560, R566) -/

@[simp] theorem State.heard_kept {s : State} {t : Transport} : (s.heard t).kept = s.kept := by
  simp [State.heard]

@[simp] theorem State.setManager_kept {s : State} {m : Nat} {x : Manager} : (s.setManager m x).kept = s.kept := by
  simp [State.setManager]

@[simp] theorem execSetEndpointId_keeps {binding : Transport} {eid : Byte} {s : State} : (execSetEndpointId binding eid s).Keeps s.kept := by
  unfold execSetEndpointId
  repeat' split
  all_goals simp

@[simp] theorem State.respond_kept {s : State} {m cmd : Nat} {inst : Byte} {cc : Nat} {rest : List Byte} :
    (s.respond m cmd inst cc rest).kept = s.kept := by
  simp [State.respond]

@[simp] theorem execProfileOffer_keeps {m : Nat} {inst : Byte} {offer : BitVec 16} {s : State} : (execProfileOffer m inst offer s).Keeps s.kept := by
  simp [execProfileOffer]

/-- What a manager with a version asks for keeps what its effect keeps. -/
@[simp] theorem State.profile_kept {s : State} {m cmd : Nat} {inst : Byte} {f : State → State} (hf : ∀ t, (f t).kept = t.kept) :
    (s.profile m cmd inst f).kept = s.kept := by
  simp [State.profile, hf]

@[simp] theorem execLiveData_keeps {m : Nat} {inst : Byte} {off : BitVec 32} {data : List Byte} {s : State} :
    (execLiveData m inst off data s).Keeps s.kept := by
  simp [execLiveData]

@[simp] theorem execLiveStatus_keeps {m : Nat} {inst : Byte} {s : State} : (execLiveStatus m inst s).Keeps s.kept := by
  simp [execLiveStatus]

@[simp] theorem State.pldmAnswer_kept {s : State} {t : Transport} {type cmd : Byte} {cc : Nat} {rest : List Byte} :
    (s.pldmAnswer t type cmd cc rest).kept = s.kept := by
  simp [State.pldmAnswer]

@[simp] theorem execPldmUnsupportedCmd_keeps {binding : Transport} {type cmd : Byte} {s : State} :
    (execPldmUnsupportedCmd binding type cmd s).Keeps s.kept := by
  simp [execPldmUnsupportedCmd]

@[simp] theorem execGetSensorReading_keeps {binding : Transport} {sensor : BitVec 16} {s : State} :
    (execGetSensorReading binding sensor s).Keeps s.kept := by
  simp [execGetSensorReading]

@[simp] theorem execSetPowerCapEffecter_keeps {value : BitVec 16} {s : State} : (execSetPowerCapEffecter value s).Keeps s.kept := by
  simp [execSetPowerCapEffecter]

/-! ### Live-service commands (R512 to R514, R523) -/

@[simp] theorem State.liveBegin_kept {s : State} {op : Nat} {unit : BitVec 16} {payload : List Byte} :
    (s.liveBegin op unit payload).kept = s.kept := by
  simp [State.liveBegin]

/-- A live-service command keeps what its effect keeps. -/
@[simp] theorem State.live_kept {s : State} {src : LiveSrc} {op : Nat} {unit : BitVec 16} {payload : List Byte} {readOk : Bool}
    {go : State → List Byte → State} (hgo : ∀ t l, (go t l).kept = t.kept) : (s.live src op unit payload readOk go).kept = s.kept := by
  cases src <;> simp [State.live, hgo]

@[simp] theorem execLiveCurve_keeps {src : LiveSrc} {payload : List Byte} {readOk : Bool} {s : State} :
    (execLiveCurve src payload readOk s).Keeps s.kept := by
  simp [execLiveCurve]

@[simp] theorem execLiveTiming_keeps {src : LiveSrc} {payload : List Byte} {readOk : Bool} {s : State} :
    (execLiveTiming src payload readOk s).Keeps s.kept := by
  simp [execLiveTiming]

@[simp] theorem execLiveThermcoef_keeps {src : LiveSrc} {payload : List Byte} {readOk : Bool} {s : State} :
    (execLiveThermcoef src payload readOk s).Keeps s.kept := by
  simp [execLiveThermcoef]

@[simp] theorem State.retireTile_kept {s : State} {u : Nat} : (s.retireTile u).kept = s.kept := by
  unfold State.retireTile
  repeat' split
  all_goals simp

@[simp] theorem State.retireSteward_kept {s : State} {k : Nat} : (s.retireSteward k).kept = s.kept := by
  unfold State.retireSteward
  split <;> simp

@[simp] theorem execLiveRetire_keeps {src : LiveSrc} {unit : BitVec 16} {s : State} : (execLiveRetire src unit s).Keeps s.kept := by
  unfold execLiveRetire
  dsimp only
  repeat' split
  all_goals simp

/-! ### Perturbation registers (R594 to R603) -/

theorem State.kept_of_pertWrite {s t : State} {a : Nat} {v : Reg64} (h : s.pertWrite a v = some t) : t.kept = s.kept := by
  unfold State.pertWrite at h
  dsimp only at h
  repeat' split at h
  all_goals
    cases h
    try simp

@[simp] theorem execLivePerturb_keeps {src : LiveSrc} {payload : List Byte} {readOk : Bool} {s : State} :
    (execLivePerturb src payload readOk s).Keeps s.kept := by
  have hdone (t u : State) (l : List (Nat × Reg64)) (o : Option State) (ho : ∀ w, o = some w → w.kept = t.kept)
      (h : l.foldl (fun (acc : Option State) r => acc.bind fun t => t.pertWrite r.1 r.2) o = some u) : u.kept = t.kept := by
    induction l generalizing o with
    | nil => exact ho u h
    | cons r l ih =>
      refine ih _ (fun w hw => ?_) h
      obtain ⟨v, hv, hw⟩ := Option.bind_eq_some_iff.mp hw
      exact (State.kept_of_pertWrite hw).trans (ho v hv)
  rw [execLivePerturb, Answer.keeps_next, State.live_kept]
  intro t bs
  dsimp only
  split
  next h => exact State.liveEnd_kept.trans (hdone t _ _ _ (fun w hw => by cases hw; rfl) h)
  · exact State.liveEnd_kept

@[simp] theorem State.clearPert_kept {s : State} : s.clearPert.kept = s.kept := by
  simp [State.clearPert]

/-! ### Phases 3 to 6 (R555 to R559) -/

@[simp] theorem State.startStacks_kept {s : State} {o : StartupObs} : (s.startStacks o).kept = s.kept := by
  simp [State.startStacks]

@[simp] theorem State.startRetired_kept {s : State} {u : Nat} : (s.startRetired u).kept = s.kept := by
  simp [State.startRetired]

@[simp] theorem State.startSpare_kept {s : State} {r : Nat} : (s.startSpare r).kept = s.kept := by
  unfold State.startSpare
  dsimp only
  split <;> simp

@[simp] theorem State.startUnits_kept {s : State} {o : StartupObs} : (s.startUnits o).kept = s.kept := by
  unfold State.startUnits
  rw [kept_foldl fun _ _ => State.startSpare_kept, kept_foldl, kept_foldl fun _ _ => State.startRetired_kept]
  intro t u
  dsimp only
  split <;> simp

@[simp] theorem State.raiseRails_kept {s : State} {o : StartupObs} : (s.raiseRails o).kept = s.kept := by
  simp [State.raiseRails]

@[simp] theorem State.firmwareSetup_kept {s : State} : s.firmwareSetup.kept = s.kept := by
  simp [State.firmwareSetup]

@[simp] theorem State.enterRecovery_kept {s : State} {fsl : Bool} : (s.enterRecovery fsl).kept = s.kept := by
  simp [State.enterRecovery]

@[simp] theorem State.bootUp_kept {s : State} {o : StartupObs} : (s.bootUp o).kept = s.kept := by
  unfold State.bootUp
  dsimp only
  repeat' split
  all_goals simp

/-! ### Module resets (R554, R555) -/

/-- A module reset empties the lists and keeps the fuses (R555, R564). -/
@[simp] theorem State.afterReset_leads {s : State} {cause : Nat} {o : StartupObs} : s.kept.Leads (s.afterReset cause o).kept :=
  ⟨rfl, fun _ => rfl, fun _ => Nat.zero_le _, id, fun _ _ => Nat.le_refl _⟩

@[simp] theorem State.moduleReset_leads {s : State} {cause : Nat} {o : StartupObs} : s.kept.Leads (s.moduleReset cause o).kept := by
  have hboot : (s.moduleReset cause o).kept = (s.afterReset cause o).kept := by simp [State.moduleReset]
  exact hboot ▸ State.afterReset_leads

@[simp] theorem execPowerOn_leads {o : StartupObs} {s : State} : (execPowerOn o s).Leads s.kept := by
  simp [execPowerOn]

@[simp] theorem execMrst_leads {ns : Nat} {o : StartupObs} {s : State} : (execMrst ns o s).Leads s.kept := by
  simp [execMrst]

@[simp] theorem execPerstAssert_leads {o : StartupObs} {s : State} : (execPerstAssert o s).Leads s.kept := by
  rw [execPerstAssert, Answer.leads_next]
  split
  · exact State.moduleReset_leads (s := { s with lodge := { s.lodge with perst := true } })
  · exact Kept.leads_refl _

@[simp] theorem execPerstDeassert_keeps {s : State} : (execPerstDeassert s).Keeps s.kept := by
  simp [execPerstDeassert]

@[simp] theorem execHoldRelease_keeps {o : StartupObs} {s : State} : (execHoldRelease o s).Keeps s.kept := by
  simp [execHoldRelease]

@[simp] theorem execLodgeWatchdog_leads {o : StartupObs} {s : State} : (execLodgeWatchdog o s).Leads s.kept := by
  simp [execLodgeWatchdog]

@[simp] theorem execDlActive_keeps {speed : BitVec 4} {width : BitVec 5} {flit : Bool} {ms : BitVec 16} {s : State} :
    (execDlActive speed width flit ms s).Keeps s.kept := by
  simp [execDlActive]

/-! ### Supply feeds (R526, R586) -/

@[simp] theorem execFeedLoss_keeps {feedB otherGood : Bool} {s : State} : (execFeedLoss feedB otherGood s).Keeps s.kept := by
  simp [execFeedLoss]

/-! ### The function-level reset of the physical function (R483) -/

@[simp] theorem State.resetWindow0_kept {s : State} : s.resetWindow0.kept = s.kept := by
  unfold State.resetWindow0
  extract_lets z l s1 s2 s3 own
  have hs2 : s2.kept = s.kept := by simp [s2, s1]
  have hs3 : s3.kept = s.kept := by simp [s3, hs2]
  rw [State.kept_mk]
  exact (congrArg (fun k => (⟨k.pending, eventsFit l.evq, l.fuses, k.translations⟩ : Kept)) hs3).trans (State.kept_fold s)

@[simp] theorem execPfFlr_keeps {s : State} : (execPfFlr s).Keeps s.kept := by
  simp [execPfFlr]

/-! ### Firmware update (R508, R515, R563 to R566) -/

@[simp] theorem State.storeImage_kept {s : State} {comp slot : Nat} {i : FwImage} : (s.storeImage comp slot i).kept = s.kept := by
  simp [State.storeImage]

@[simp] theorem State.preferSlot_kept {s : State} {comp slot : Nat} : (s.preferSlot comp slot).kept = s.kept := by
  simp [State.preferSlot]

@[simp] theorem State.verifyComplete_kept {s : State} {t : Transport} {result : Nat} : (s.verifyComplete t result).kept = s.kept := by
  simp [State.verifyComplete]

@[simp] theorem State.recoverWith_leads {s : State} {i : FwImage} {written : Bool} : s.kept.Leads (s.recoverWith i written).kept := by
  unfold State.recoverWith
  extract_lets comp allowed slot s1
  have hs1 : s1.kept = s.kept := by simp [s1]
  split
  · simp
  split
  · exact hs1 ▸ State.moduleReset_leads
  · exact Kept.leads_of_eq hs1

@[simp] theorem execPldmFwUpdate_leads {offer : FwOffer} {slotWritten : Bool} {s : State} : (execPldmFwUpdate offer slotWritten s).Leads s.kept := by
  unfold execPldmFwUpdate
  extract_lets m img comp path h slot s1
  have hh : h.kept = s.kept := State.heard_kept
  rw [Answer.leads_next]
  split
  · split
    · exact hh ▸ State.recoverWith_leads
    · exact Kept.leads_refl _
  · exact Kept.leads_of_eq (by simp [s1, hh])

@[simp] theorem State.rebootSteward_kept {s : State} {k : Nat} : (s.rebootSteward k).kept = s.kept := by
  simp [State.rebootSteward]

@[simp] theorem execActivateFirmware_keeps {a : FwActivation} {s : State} : (execActivateFirmware a s).Keeps s.kept := by
  simp [execActivateFirmware]

/-- A commit raises the counter of its component to the SVN of its image, or leaves it (R564). -/
@[simp] theorem execFwCommit_leads {component : BitVec 16} {s : State} : (execFwCommit component s).Leads s.kept := by
  unfold execFwCommit
  extract_lets comp
  rw [Answer.leads_next]
  split
  case h_2 => exact Kept.leads_refl _
  next i _ =>
    split
    case isFalse => exact Kept.leads_refl _
    refine ⟨rfl, id, id, fun h => mput_wf h comp _, fun h c => ?_⟩
    by_cases hc : c = comp
    · subst hc
      exact (le_max_left _ _).trans_eq (mget_mput_self h comp _).symm
    · exact (mget_mput_other h hc _).ge

/-! ### SPDM (R568 to R571) -/

@[simp] theorem State.spdm_kept {s : State} {t : Transport} {bs : List Byte} : (s.spdm t bs).kept = s.kept := by
  simp [State.spdm]

@[simp] theorem State.spdmError_kept {s : State} {t : Transport} {code : Nat} : (s.spdmError t code).kept = s.kept := by
  simp [State.spdmError]

@[simp] theorem State.notReady_kept {s : State} {t : Transport} {request : Byte} : (s.notReady t request).kept = s.kept := by
  simp [State.notReady]

@[simp] theorem State.beginSignature_kept {s : State} {t : Transport} {request : Byte} {bs : List Byte} :
    (s.beginSignature t request bs).kept = s.kept := by
  simp [State.beginSignature]

@[simp] theorem execChallenge_keeps {t : Transport} {s : State} : (execChallenge t s).Keeps s.kept := by
  simp [execChallenge]

@[simp] theorem execGetMeasurements_keeps {t : Transport} {index : Byte} {signed : Bool} {s : State} :
    (execGetMeasurements t index signed s).Keeps s.kept := by
  simp [execGetMeasurements]

@[simp] theorem execRespondIfReady_keeps {t : Transport} {s : State} : (execRespondIfReady t s).Keeps s.kept := by
  unfold execRespondIfReady
  dsimp only
  repeat' split
  all_goals simp

@[simp] theorem execSpdmSignatureDone_keeps {dt : Nat} {s : State} : (execSpdmSignatureDone dt s).Keeps s.kept := by
  unfold execSpdmSignatureDone
  split <;> simp

@[simp] theorem execSetCertificate_keeps {t : Transport} {s : State} : (execSetCertificate t s).Keeps s.kept := by
  simp [execSetCertificate]

@[simp] theorem execGetCertificate_keeps {t : Transport} {slot : BitVec 4} {off len : BitVec 16} {s : State} :
    (execGetCertificate t slot off len s).Keeps s.kept := by
  simp [execGetCertificate]

/-! ### The IEEE 1500 wrappers (R604, R605) -/

/-- A bring-up command keeps what its run keeps. -/
@[simp] theorem State.buGo_kept {s : State} {word : Nat} {dataIn : Reg64} {run : State → State × Reg64} (hrun : ∀ t, (run t).1.kept = t.kept) :
    (s.buGo word dataIn run).kept = s.kept := by
  unfold State.buGo
  extract_lets note r
  have hnote (t : State) (err : Bool) (data : Reg64) : (note t err data).kept = t.kept := State.kept_mk
  split
  · exact hnote ..
  · exact State.send_kept.trans ((hnote ..).trans (hrun s))

@[simp] theorem execSpareQuery_keeps {stack : Fin 8} {die : BitVec 5} {arg : BitVec 64} {s : State} :
    (execSpareQuery stack die arg s).Keeps s.kept := by
  simp [execSpareQuery]

@[simp] theorem execSoftRepair_keeps {stack : Fin 8} {die : BitVec 5} {arg : BitVec 64} {s : State} :
    (execSoftRepair stack die arg s).Keeps s.kept := by
  simp [execSoftRepair]

@[simp] theorem execOdeccRead_keeps {stack : Fin 8} {die : BitVec 5} {count : BitVec 32} {s : State} :
    (execOdeccRead stack die count s).Keeps s.kept := by
  simp [execOdeccRead]

@[simp] theorem execBu1500Shift_keeps {cmd captured : BitVec 64} {s : State} : (execBu1500Shift cmd captured s).Keeps s.kept := by
  simp [execBu1500Shift]

/-! ### Boundary scan (R606) -/

@[simp] theorem State.selectTap_kept {s : State} {code : Byte} : (s.selectTap code).kept = s.kept := by
  simp [State.selectTap]

@[simp] theorem State.testInstruction_kept {s : State} {code : Byte} : (s.testInstruction code).kept = s.kept := by
  simp [State.testInstruction]

@[simp] theorem execIdcode_keeps {s : State} : (execIdcode s).Keeps s.kept := by
  simp [execIdcode]

@[simp] theorem execSamplePreload_keeps {s : State} : (execSamplePreload s).Keeps s.kept := by
  simp [execSamplePreload]

@[simp] theorem execExtest_keeps {s : State} : (execExtest s).Keeps s.kept := by
  simp [execExtest]

@[simp] theorem execExtestPulse_keeps {s : State} : (execExtestPulse s).Keeps s.kept := by
  simp [execExtestPulse]

@[simp] theorem execExtestTrain_keeps {s : State} : (execExtestTrain s).Keeps s.kept := by
  simp [execExtestTrain]

@[simp] theorem execClamp_keeps {s : State} : (execClamp s).Keeps s.kept := by
  simp [execClamp]

@[simp] theorem execHighz_keeps {s : State} : (execHighz s).Keeps s.kept := by
  simp [execHighz]

@[simp] theorem execBypass_keeps {code : Byte} {s : State} : (execBypass code s).Keeps s.kept := by
  simp [execBypass]

@[simp] theorem execBscanExitReset_leads {o : StartupObs} {s : State} : (execBscanExitReset o s).Leads s.kept := by
  simp [execBscanExitReset]

/-! ### Trace markers (R609) -/

@[simp] theorem execTraceMarker_keeps {s : State} : (execTraceMarker s).Keeps s.kept := by
  simp [execTraceMarker]

/-! ### Windows 0 and 2 (R7, R466 to R469) -/

@[simp] theorem State.hostRegError_kept {s : State} {fn off : Nat} : (s.hostRegError fn off).kept = s.kept := by
  simp [State.hostRegError]

@[simp] theorem State.hostReadReg_kept {s : State} {fn : Nat} {bells : Bool} {off width : Nat} :
    (s.hostReadReg fn bells off width).kept = s.kept := by
  unfold State.hostReadReg
  split <;> simp

/-! ### Register space read by a steward (R518 to R522) -/

@[simp] theorem State.stewardReadReg_leads {s : State} {k : Fin 4} {off width : Nat} : (s.stewardReadReg k off width).Leads s.kept := by
  unfold State.stewardReadReg
  split
  · exact execIntClaim_keeps.leads
  split
  · exact execEvqPop_leads
  · exact Answer.leads_next.mpr (Kept.leads_of_eq State.send_kept)

/-! ### Access codes (R8) -/

@[simp] theorem after_kept {s : State} {a : Answer} (ha : a.Keeps s.kept) : (after s a).kept = s.kept := by
  cases a with
  | next t => exact ha t rfl
  | fault r => rfl
  | refused r => rfl

theorem after_leads {s : State} {a : Answer} (ha : a.Leads s.kept) : s.kept.Leads (after s a).kept := by
  cases a with
  | next t => exact ha t rfl
  | fault r => exact Kept.leads_refl _
  | refused r => exact Kept.leads_refl _

/-! ### Window 0 of a function (R466 to R468) -/

@[simp] theorem State.writeErrStat_kept {s : State} {fn : Nat} {v : Reg64} : (s.writeErrStat fn v).kept = s.kept := by
  simp [State.writeErrStat]

@[simp] theorem State.writeOwn_kept {s : State} {fn off : Nat} {v : Reg64} : (s.writeOwn fn off v).kept = s.kept := by
  unfold State.writeOwn
  split <;> simp

@[simp] theorem State.writeJobCtl_kept {s : State} {v : Reg64} : (s.writeJobCtl v).kept = s.kept := by
  unfold State.writeJobCtl
  extract_lets job s1 s2 s3
  have hs2 : s2.kept = s.kept := by
    dsimp only [s2]
    split
    · exact after_kept execJobEnd_keeps
    · rfl
  have hs3 : s3.kept = s.kept := by
    dsimp only [s3]
    split
    · exact (after_kept execJobAbort_keeps).trans hs2
    · exact hs2
  split
  · exact (after_kept execJobRelease_keeps).trans hs3
  · exact hs3

@[simp] theorem State.writeLiveCmd_kept {s : State} {v : Reg64} : (s.writeLiveCmd v).kept = s.kept := by
  unfold State.writeLiveCmd
  extract_lets go lodge s1
  split
  · split <;> rfl
  split
  · exact after_kept execLiveRetire_keeps
  · rfl

@[simp] theorem State.writePhysical_kept {s : State} {off : Nat} {v : Reg64} : (s.writePhysical off v).kept = s.kept := by
  unfold State.writePhysical
  split <;> simp

@[simp] theorem State.writeMsix_kept {s : State} {fn off width : Nat} {v : Reg64} : (s.writeMsix fn off width v).kept = s.kept := by
  simp [State.writeMsix]

@[simp] theorem State.writeWindow0_kept {s : State} {fn off width : Nat} {v : Reg64} : (s.writeWindow0 fn off width v).kept = s.kept := by
  unfold State.writeWindow0
  repeat' split
  all_goals simp

@[simp] theorem State.writeDoorbell_kept {s : State} {fn off width : Nat} {v : Reg64} : (s.writeDoorbell fn off width v).kept = s.kept := by
  unfold State.writeDoorbell
  repeat' split
  all_goals simp

/-! ### Register space -/

@[simp] theorem State.writeLodge_kept {s : State} {k off : Nat} {v : Reg64} : (s.writeLodge k off v).kept = s.kept := by
  simp [State.writeLodge]

@[simp] theorem State.writeStk_kept {s : State} {n off : Nat} {v : Reg64} : (s.writeStk n off v).kept = s.kept := by
  unfold State.writeStk
  split <;> simp

@[simp] theorem State.writeSem_kept {s : State} {off : Nat} {v : Reg64} : (s.writeSem off v).kept = s.kept := by
  simp [State.writeSem]

@[simp] theorem State.writeTmb_kept {s : State} {d off : Nat} {v : Reg64} : (s.writeTmb d off v).kept = s.kept := by
  unfold State.writeTmb
  split <;> simp

@[simp] theorem State.writeLnkCtl_kept {s : State} {n : Fin 24} {v : Reg64} : (s.writeLnkCtl n v).kept = s.kept := by
  unfold State.writeLnkCtl
  extract_lets link s0 s1 s2
  have hs1 : s1.kept = s.kept := by simp [s1, s0]
  have hs2 : s2.kept = s.kept := by
    dsimp only [s2]
    split
    · exact (after_kept execLinkRetrain_keeps).trans hs1
    · exact hs1
  split
  · exact (after_kept execSpareNow_keeps).trans hs2
  · exact hs2

@[simp] theorem State.writeLnk_kept {s : State} {off : Nat} {v : Reg64} : (s.writeLnk off v).kept = s.kept := by
  unfold State.writeLnk
  dsimp only
  repeat' split
  all_goals simp

@[simp] theorem State.writeBnd_kept {s : State} {d off : Nat} {v : Reg64} : (s.writeBnd d off v).kept = s.kept := by
  simp [State.writeBnd]

@[simp] theorem State.writeSpace_kept {s : State} {k off width : Nat} {v : Reg64} : (s.writeSpace k off width v).kept = s.kept := by
  simp [State.writeSpace]

@[simp] theorem State.writeTable_kept {s : State} {a width : Nat} {value : BitVec 64} : (s.writeTable a width value).kept = s.kept := by
  unfold State.writeTable
  repeat' split
  all_goals simp

@[simp] theorem execRegisterWrite_leads {who : RegWriter} {off width : Nat} {value : BitVec 64} {s : State} :
    (execRegisterWrite who off width value s).Leads s.kept := by
  unfold execRegisterWrite
  rw [Answer.leads_next]
  split
  case h_5 =>
    split
    · exact after_leads State.stewardReadReg_leads
    · exact Kept.leads_refl _
  all_goals simp

/-! ### Effects under way -/

@[simp] theorem State.launch_kept {s : State} {n : Nat} {o : Origin} {cls place ac figure : Nat} :
    (s.launch n o cls place ac figure).2.kept = s.kept := by
  simp [State.launch]

@[simp] theorem State.launchDone_kept {s : State} {n : Nat} {o : Origin} {figure : Nat} : (s.launchDone n o figure).kept = s.kept := by
  simp [State.launchDone]

/-! ### Memory -/

@[simp] theorem State.openBits_kept {s : State} {bs : List Byte} {mask : Byte} : (s.openBits bs mask).2.kept = s.kept := by
  unfold State.openBits
  split <;> simp

@[simp] theorem State.releaseGranule_kept {s : State} {n : Nat} {o : Origin} {a : Nat} {bs : List Byte} {mask : Byte} {poison : Bool} {acid : Nat} :
    (s.releaseGranule n o a bs mask poison acid).kept = s.kept := by
  unfold State.releaseGranule
  dsimp only
  repeat' split
  all_goals simp

/-! ### The release of held effects -/

@[simp] theorem State.releaseRemote_kept {s : State} {n : Nat} {o : Origin} {off : Nat} {bs : List Byte} {acid : Nat} :
    (s.releaseRemote n o off bs acid).kept = s.kept := by
  simp [State.releaseRemote]

@[simp] theorem State.regionPort_kept {s : State} {n : Nat} {o : Origin} {r port fig : Nat} {bs : List Byte} :
    (s.regionPort n o r port fig bs).kept = s.kept := by
  unfold State.regionPort
  split <;> simp

@[simp] theorem State.stackPort_kept {s : State} {n : Nat} {o : Origin} {k at_ fig : Nat} {bs : List Byte} :
    (s.stackPort n o k at_ fig bs).kept = s.kept := by
  simp [State.stackPort]

theorem State.kept_of_releaseRegister {s t : State} {n : Nat} {o : Origin} {a : Nat} {bs : List Byte} {mask : Byte} {acid : Nat}
    (h : s.releaseRegister n o a bs mask acid = some t) : t.kept = s.kept := by
  unfold State.releaseRegister at h
  extract_lets off fig die item own ko inStack k b x y at h
  split_ifs at h
  all_goals
    obtain rfl := Option.some.inj h
    simp [b]

/-! ### Signals -/

@[simp] theorem State.releaseSignal_kept {s : State} {n : Nat} {o : Origin} {ra : Reg64} {amount : Int} {thr : Option (BitVec 32)} :
    (s.releaseSignal n o ra amount thr).kept = s.kept := by
  unfold State.releaseSignal
  repeat' split
  all_goals simp

/-! ### The release -/

theorem State.kept_of_releaseOne {s t : State} {n : Nat} {e : Held} (h : s.releaseOne n e = some t) : t.kept = s.kept := by
  unfold State.releaseOne at h
  dsimp only at h
  split at h
  case h_1 =>
    split at h
    · exact State.kept_of_releaseRegister h
    split at h
    · cases h
    · obtain rfl := Option.some.inj h
      simp
  all_goals
    repeat' split at h
    all_goals
      cases h
      try simp

@[simp] theorem execEffectRelease_keeps {t : TileAt} {s : State} : (execEffectRelease t s).Keeps s.kept := by
  unfold execEffectRelease
  extract_lets n s1 x
  have hs1 : s1.kept = s.kept := State.reach_kept
  rw [Answer.keeps_next]
  split
  · exact hs1
  split
  next h => exact State.settleTile_kept.trans ((State.kept_of_releaseOne h).trans (State.setTile_kept.trans hs1))
  · exact hs1

/-! ### The vector slot of a bundle -/

@[simp] theorem State.vectorSlot_kept {s : State} {u : Issue} {op : VOp} {v : VSlot} : (s.vectorSlot u op v).kept = s.kept := by
  rw [State.vectorSlot, State.slot_kept]
  intro t b
  split <;> simp

@[simp] theorem execVaddF32_keeps {u : Issue} {op : FArithOp} {v : VSlot} {s : State} : (execVaddF32 u op v s).Keeps s.kept := by
  simp [execVaddF32]

@[simp] theorem execVfma_keeps {u : Issue} {v : VSlot} {s : State} : (execVfma u v s).Keeps s.kept := by
  simp [execVfma]

@[simp] theorem execVminVmaxF32_keeps {u : Issue} {op : FMinMaxOp} {v : VSlot} {s : State} : (execVminVmaxF32 u op v s).Keeps s.kept := by
  simp [execVminVmaxF32]

@[simp] theorem execVabsVneg_keeps {u : Issue} {op : SignOp} {v : VSlot} {s : State} : (execVabsVneg u op v s).Keeps s.kept := by
  simp [execVabsVneg]

@[simp] theorem execVmov_keeps {u : Issue} {v : VSlot} {s : State} : (execVmov u v s).Keeps s.kept := by
  simp [execVmov]

@[simp] theorem execVcmp_keeps {u : Issue} {v : VSlot} {s : State} : (execVcmp u v s).Keeps s.kept := by
  simp [execVcmp]

@[simp] theorem execVsel_keeps {u : Issue} {v : VSlot} {s : State} : (execVsel u v s).Keeps s.kept := by
  simp [execVsel]

@[simp] theorem execVintArith_keeps {u : Issue} {op : FArithOp} {v : VSlot} {s : State} : (execVintArith u op v s).Keeps s.kept := by
  simp [execVintArith]

@[simp] theorem execVsatArith_keeps {u : Issue} {op : SatOp} {v : VSlot} {s : State} : (execVsatArith u op v s).Keeps s.kept := by
  simp [execVsatArith]

@[simp] theorem execVintMinMax_keeps {u : Issue} {op : MinMaxOp} {v : VSlot} {s : State} : (execVintMinMax u op v s).Keeps s.kept := by
  simp [execVintMinMax]

@[simp] theorem execVbitwise_keeps {u : Issue} {op : BitOp} {v : VSlot} {s : State} : (execVbitwise u op v s).Keeps s.kept := by
  simp [execVbitwise]

@[simp] theorem execVshift_keeps {u : Issue} {op : ShiftOp} {v : VSlot} {s : State} : (execVshift u op v s).Keeps s.kept := by
  simp [execVshift]

@[simp] theorem execVcvtF32S32_keeps {u : Issue} {v : VSlot} {s : State} : (execVcvtF32S32 u v s).Keeps s.kept := by
  simp [execVcvtF32S32]

@[simp] theorem execVcvtS32F32_keeps {u : Issue} {v : VSlot} {s : State} : (execVcvtS32F32 u v s).Keeps s.kept := by
  simp [execVcvtS32F32]

@[simp] theorem execViota_keeps {u : Issue} {v : VSlot} {s : State} : (execViota u v s).Keeps s.kept := by
  simp [execViota]

@[simp] theorem execVcurve_keeps {u : Issue} {slot : Fin 8} {v : VSlot} {s : State} : (execVcurve u slot v s).Keeps s.kept := by
  simp [execVcurve]

@[simp] theorem execVcload_keeps {u : Issue} {v : VSlot} {s : State} : (execVcload u v s).Keeps s.kept := by
  simp [execVcload]

@[simp] theorem execVredF32_keeps {u : Issue} {op : RedFOp} {v : VSlot} {s : State} : (execVredF32 u op v s).Keeps s.kept := by
  simp [execVredF32]

@[simp] theorem execVredS32_keeps {u : Issue} {op : RedSOp} {v : VSlot} {s : State} : (execVredS32 u op v s).Keeps s.kept := by
  simp [execVredS32]

@[simp] theorem execVredcnt_keeps {u : Issue} {v : VSlot} {s : State} : (execVredcnt u v s).Keeps s.kept := by
  simp [execVredcnt]

@[simp] theorem execVredmaxi_keeps {u : Issue} {v : VSlot} {s : State} : (execVredmaxi u v s).Keeps s.kept := by
  simp [execVredmaxi]

@[simp] theorem execVunpk_keeps {u : Issue} {f : Fin 16} {v : VSlot} {s : State} : (execVunpk u f v s).Keeps s.kept := by
  simp [execVunpk]

@[simp] theorem execVpack_keeps {u : Issue} {f : Fin 16} {v : VSlot} {s : State} : (execVpack u f v s).Keeps s.kept := by
  simp [execVpack]

/-! ### The matrix slot of a bundle -/

@[simp] theorem State.matrixSlot_kept {s : State} {u : Issue} {op : MOp} {m : MSlot} : (s.matrixSlot u op m).kept = s.kept := by
  rw [State.matrixSlot, State.slot_kept]
  intro t b
  split <;> simp

@[simp] theorem execMld_keeps {u : Issue} {b : Bool} {m : MSlot} {s : State} : (execMld u b m s).Keeps s.kept := by
  simp [execMld]

@[simp] theorem execMmul_keeps {u : Issue} {b : Bool} {f : Fin 16} {m : MSlot} {s : State} : (execMmul u b f m s).Keeps s.kept := by
  simp [execMmul]

@[simp] theorem execMdrain_keeps {u : Issue} {wide : Bool} {m : MSlot} {s : State} : (execMdrain u wide m s).Keeps s.kept := by
  simp [execMdrain]

end Sys2Proof.Machine
end

section
/-! Every command and every step keep within the bounds: what O58, O59 and O60 say. -/

namespace Sys2Proof.Machine

/-- Whatever command runs, what the bounds speak of leads on from what the state keeps. -/
theorem exec_leads (c : Instr) (s : State) : Answer.Leads (exec c s) s.kept := by
  cases c with
  | bundleNop => exact execBundleNop_keeps.leads
  | aluOp => exact execAluOp_keeps.leads
  | mul => exact execMul_keeps.leads
  | minMax => exact execMinMax_keeps.leads
  | setCompare => exact execSetCompare_keeps.leads
  | li => exact execLi_keeps.leads
  | seta => exact execSeta_keeps.leads
  | sett => exact execSett_keeps.leads
  | rda => exact execRda_keeps.leads
  | rdt => exact execRdt_keeps.leads
  | bind => exact execBind_keeps.leads
  | rdlc => exact execRdlc_keeps.leads
  | rdreg => exact execRdreg_keeps.leads
  | jmp => exact execJmp_keeps.leads
  | condBranch => exact execCondBranch_keeps.leads
  | loop => exact execLoop_keeps.leads
  | lexit => exact execLexit_keeps.leads
  | qput => exact execQput_keeps.leads
  | qget => exact execQget_keeps.leads
  | qcnt => exact execQcnt_keeps.leads
  | sig => exact execSig_keeps.leads
  | sigT => exact execSigT_keeps.leads
  | wait => exact execWait_keeps.leads
  | obs => exact execObs_keeps.leads
  | await => exact execAwait_keeps.leads
  | acset => exact execAcset_keeps.leads
  | fence => exact execFence_keeps.leads
  | bell => exact execBell_keeps.leads
  | qwait => exact execQwait_keeps.leads
  | endOp => exact execEndOp_keeps.leads
  | ldQ _ _ _ _ _ vol _ => exact (execLdQ_keeps (vol := vol)).leads
  | ldS => exact execLdS_keeps.leads
  | ldQL => exact execLdQL_keeps.leads
  | stQ => exact execStQ_keeps.leads
  | stS => exact execStS_keeps.leads
  | stQL => exact execStQL_keeps.leads
  | stCp => exact execStCp_keeps.leads
  | vaddF32 => exact execVaddF32_keeps.leads
  | vfma => exact execVfma_keeps.leads
  | vminVmaxF32 => exact execVminVmaxF32_keeps.leads
  | vabsVneg => exact execVabsVneg_keeps.leads
  | vmov => exact execVmov_keeps.leads
  | vcmp => exact execVcmp_keeps.leads
  | vsel => exact execVsel_keeps.leads
  | vintArith => exact execVintArith_keeps.leads
  | vsatArith => exact execVsatArith_keeps.leads
  | vintMinMax => exact execVintMinMax_keeps.leads
  | vbitwise => exact execVbitwise_keeps.leads
  | vshift => exact execVshift_keeps.leads
  | vcvtF32S32 => exact execVcvtF32S32_keeps.leads
  | vcvtS32F32 => exact execVcvtS32F32_keeps.leads
  | viota => exact execViota_keeps.leads
  | vcurve => exact execVcurve_keeps.leads
  | vcload => exact execVcload_keeps.leads
  | vredF32 => exact execVredF32_keeps.leads
  | vredS32 => exact execVredS32_keeps.leads
  | vredcnt => exact execVredcnt_keeps.leads
  | vredmaxi => exact execVredmaxi_keeps.leads
  | vunpk => exact execVunpk_keeps.leads
  | vpack => exact execVpack_keeps.leads
  | mld => exact execMld_keeps.leads
  | mmul => exact execMmul_keeps.leads
  | mdrain => exact execMdrain_keeps.leads
  | engineOpStart => exact execEngineOpStart_keeps.leads
  | loadItemPush => exact execLoadItemPush_keeps.leads
  | replayResume => exact execReplayResume_keeps.leads
  | windowIdleClose => exact execWindowIdleClose_keeps.leads
  | windowConfirm => exact execWindowConfirm_keeps.leads
  | effectRelease => exact execEffectRelease_keeps.leads
  | replayDeadlock => exact execReplayDeadlock_keeps.leads
  | deferredHalt => exact execDeferredHalt_keeps.leads
  | remoteWriteArrive => exact execRemoteWriteArrive_keeps.leads
  | sigTArrive => exact execSigTArrive_keeps.leads
  | releaseNotice => exact execReleaseNotice_keeps.leads
  | fenceComplete => exact execFenceComplete_keeps.leads
  | unitWakeComplete => exact execUnitWakeComplete_keeps.leads
  | unitSleep => exact execUnitSleep_keeps.leads
  | bankEngineSleep => exact execBankEngineSleep_keeps.leads
  | copyCmdAccept => exact execCopyCmdAccept_keeps.leads
  | copyCmdStart region dt => exact (execCopyCmdStart_keeps (region := region) (dt := dt)).leads
  | copyCmdComplete => exact execCopyCmdComplete_keeps.leads
  | atomBatch => exact execAtomBatch_keeps.leads
  | atomicPerform => exact execAtomicPerform_keeps.leads
  | startCmdAccept => exact execStartCmdAccept_keeps.leads
  | prgStart => exact execPrgStart_keeps.leads
  | prgMemWrite => exact execPrgMemWrite_keeps.leads
  | vstageWrite => exact execVstageWrite_keeps.leads
  | rowNop => exact execRowNop_keeps.leads
  | act => exact execAct_keeps.leads
  | pre => exact execPre_keeps.leads
  | wake => exact execWake_keeps.leads
  | vload => exact execVload_keeps.leads
  | sload => exact execSload_keeps.leads
  | mac => exact execMac_keeps.leads
  | aclr => exact execAclr_keeps.leads
  | drain => exact execDrain_keeps.leads
  | cmove => exact execCmove_keeps.leads
  | rowSig => exact execRowSig_keeps.leads
  | rowLoop => exact execRowLoop_keeps.leads
  | rowEnd => exact execRowEnd_keeps.leads
  | prgComplete => exact execPrgComplete_keeps.leads
  | acfg => exact execAcfg_keeps.leads
  | awalk => exact execAwalk_keeps.leads
  | walkerTableFetch => exact execWalkerTableFetch_keeps.leads
  | rowReissue => exact execRowReissue_keeps.leads
  | ordinaryAccess => exact execOrdinaryAccess_keeps.leads
  | accessTvRetry => exact execAccessTvRetry_keeps.leads
  | preempt => exact execPreempt_keeps.leads
  | preemptResume => exact execPreemptResume_keeps.leads
  | refreshDue => exact execRefreshDue_keeps.leads
  | refreshBoundary => exact execRefreshBoundary_keeps.leads
  | bandSwapRequest => exact execBandSwapRequest_keeps.leads
  | throttleLevelApply => exact execThrottleLevelApply_keeps.leads
  | engAvailRestore => exact execEngAvailRestore_keeps.leads
  | pageFillDone => exact execPageFillDone_keeps.leads
  | validClear => exact execValidClear_keeps.leads
  | validClearDone => exact execValidClearDone_keeps.leads
  | scrubVisit => exact execScrubVisit_keeps.leads
  | pageRepair => exact execPageRepair_keeps.leads
  | parityRetry => exact execParityRetry_keeps.leads
  | interfaceRecal => exact execInterfaceRecal_keeps.leads
  | odeccPoll => exact execOdeccPoll_keeps.leads
  | kvcopy => exact execKvcopy_keeps.leads
  | kvcopyDone => exact execKvcopyDone_keeps.leads
  | semSignalApply => exact execSemSignalApply_keeps.leads
  | semWaitArrive => exact execSemWaitArrive_keeps.leads
  | semObsArrive => exact execSemObsArrive_keeps.leads
  | ntfArm => exact execNtfArm_keeps.leads
  | newReq => exact execNewReq_keeps.leads
  | cancel => exact execCancel_keeps.leads
  | pause => exact execPause_keeps.leads
  | resume => exact execResume_keeps.leads
  | adapterLoad => exact execAdapterLoad_keeps.leads
  | adapterRetire => exact execAdapterRetire_keeps.leads
  | hostChoice => exact execHostChoice_keeps.leads
  | stepBoundary => exact execStepBoundary_keeps.leads
  | adapterReady => exact execAdapterReady_keeps.leads
  | parkCopyDone => exact execParkCopyDone_keeps.leads
  | swapOutDone => exact execSwapOutDone_keeps.leads
  | swapInDone => exact execSwapInDone_keeps.leads
  | ttlExpire => exact execTtlExpire_keeps.leads
  | reqIfneg => exact execReqIfneg_keeps.leads
  | ringEnable => exact execRingEnable_keeps.leads
  | functionDisable => exact execFunctionDisable_keeps.leads
  | verify => exact execVerify_keeps.leads
  | propose => exact execPropose_keeps.leads
  | exportLogits => exact execExportLogits_keeps.leads
  | tmbCmdComplete => exact execTmbCmdComplete_keeps.leads
  | jobGo => exact execJobGo_keeps.leads
  | jobEnd => exact execJobEnd_keeps.leads
  | jobAbort => exact execJobAbort_keeps.leads
  | jobRelease => exact execJobRelease_keeps.leads
  | jobFinish => exact execJobFinish_keeps.leads
  | jobTeardown => exact execJobTeardown_keeps.leads
  | checkpointSave => exact execCheckpointSave_keeps.leads
  | checkpointRestore => exact execCheckpointRestore_keeps.leads
  | jobPreempt => exact execJobPreempt_keeps.leads
  | jobResume => exact execJobResume_keeps.leads
  | quiescePoint => exact (execQuiescePoint_keeps (s := s)).leads
  | ifnegWrite => exact execIfnegWrite_keeps.leads
  | quotaWrite => exact execQuotaWrite_keeps.leads
  | linkEnable => exact execLinkEnable_keeps.leads
  | linkDetectDone => exact execLinkDetectDone_keeps.leads
  | linkLockDone => exact execLinkLockDone_keeps.leads
  | negFlitRx => exact execNegFlitRx_keeps.leads
  | linkTrainTimeout => exact execLinkTrainTimeout_keeps.leads
  | linkRetrain => exact execLinkRetrain_keeps.leads
  | spareNow => exact execSpareNow_keeps.leads
  | laneRetire => exact execLaneRetire_keeps.leads
  | flitRx => exact execFlitRx_keeps.leads
  | nullFlitTx => exact execNullFlitTx_keeps.leads
  | linkLeaveActive => exact execLinkLeaveActive_keeps.leads
  | heldPacketTimeout => exact execHeldPacketTimeout_keeps.leads
  | resentWindowExpire => exact execResentWindowExpire_keeps.leads
  | writePktRx => exact execWritePktRx_keeps.leads
  | signalPktRx => exact execSignalPktRx_keeps.leads
  | ackPktRx => exact execAckPktRx_keeps.leads
  | refusePktRx => exact execRefusePktRx_keeps.leads
  | collPktRx => exact execCollPktRx_keeps.leads
  | allreduce => exact execAllreduce_keeps.leads
  | reducescatter => exact execReducescatter_keeps.leads
  | allgather => exact execAllgather_keeps.leads
  | broadcast => exact execBroadcast_keeps.leads
  | bndCmdComplete => exact execBndCmdComplete_keeps.leads
  | hstDbRing => exact execHstDbRing_keeps.leads
  | hstDbSem => exact execHstDbSem_keeps.leads
  | hstDbInt => exact execHstDbInt_keeps.leads
  | apertureRead => exact execApertureRead_keeps.leads
  | apertureWrite => exact execApertureWrite_keeps.leads
  | atsInvalidate => exact execAtsInvalidate_leads
  | hostReadCompletion => exact execHostReadCompletion_keeps.leads
  | hostReadTimeout => exact execHostReadTimeout_keeps.leads
  | hdmaCmdAccept => exact execHdmaCmdAccept_keeps.leads
  | hdmaCmdComplete => exact execHdmaCmdComplete_keeps.leads
  | vfFlr => exact execVfFlr_keeps.leads
  | pfFlr => exact execPfFlr_keeps.leads
  | heartbeat => exact execHeartbeat_keeps.leads
  | heartbeatTimeout => exact execHeartbeatTimeout_keeps.leads
  | failoverClaim => exact execFailoverClaim_keeps.leads
  | stewardSelftestDone => exact execStewardSelftestDone_keeps.leads
  | lodgeWatchdog => exact execLodgeWatchdog_leads
  | intFire => exact execIntFire_keeps.leads
  | intOffer => exact execIntOffer_keeps.leads
  | intClaim => exact execIntClaim_keeps.leads
  | intEoi => exact execIntEoi_keeps.leads
  | statusEvent => exact execStatusEvent_keeps.leads
  | evqPop => exact execEvqPop_leads
  | housekeepingRound samples dt => exact (execHousekeepingRound_keeps (samples := samples) (dt := dt)).leads
  | fenceReadback => exact execFenceReadback_keeps.leads
  | thermalCalibrate => exact execThermalCalibrate_keeps.leads
  | setEndpointId => exact execSetEndpointId_keeps.leads
  | profileOffer => exact execProfileOffer_keeps.leads
  | liveData => exact execLiveData_keeps.leads
  | liveStatus => exact execLiveStatus_keeps.leads
  | liveCurve => exact execLiveCurve_keeps.leads
  | liveTiming => exact execLiveTiming_keeps.leads
  | liveThermcoef => exact execLiveThermcoef_keeps.leads
  | liveRetire => exact execLiveRetire_keeps.leads
  | livePerturb => exact execLivePerturb_keeps.leads
  | pldmUnsupportedCmd => exact execPldmUnsupportedCmd_keeps.leads
  | getSensorReading => exact execGetSensorReading_keeps.leads
  | setPowerCapEffecter => exact execSetPowerCapEffecter_keeps.leads
  | pldmFwUpdate => exact execPldmFwUpdate_leads
  | activateFirmware => exact execActivateFirmware_keeps.leads
  | fwCommit => exact execFwCommit_leads
  | challenge => exact execChallenge_keeps.leads
  | getMeasurements => exact execGetMeasurements_keeps.leads
  | respondIfReady => exact execRespondIfReady_keeps.leads
  | setCertificate => exact execSetCertificate_keeps.leads
  | spdmSignatureDone => exact execSpdmSignatureDone_keeps.leads
  | guardSample => exact execGuardSample_keeps.leads
  | levelChangeDone => exact execLevelChangeDone_keeps.leads
  | railFault => exact execRailFault_keeps.leads
  | orderlyShutdown => exact execOrderlyShutdown_keeps.leads
  | shutdownRailsOff => exact execShutdownRailsOff_leads
  | hardwareTrip => exact execHardwareTrip_leads
  | flowLost => exact execFlowLost_keeps.leads
  | flowRestored => exact execFlowRestored_keeps.leads
  | flowLostLimit => exact execFlowLostLimit_keeps.leads
  | feedLoss => exact execFeedLoss_keeps.leads
  | powerOn => exact execPowerOn_leads
  | mrst => exact execMrst_leads
  | perstAssert => exact execPerstAssert_leads
  | perstDeassert => exact execPerstDeassert_keeps.leads
  | holdRelease => exact execHoldRelease_keeps.leads
  | dlActive => exact execDlActive_keeps.leads
  | spareQuery => exact execSpareQuery_keeps.leads
  | softRepair => exact execSoftRepair_keeps.leads
  | odeccRead => exact execOdeccRead_keeps.leads
  | bu1500Shift => exact execBu1500Shift_keeps.leads
  | idcode => exact execIdcode_keeps.leads
  | samplePreload => exact execSamplePreload_keeps.leads
  | extest => exact execExtest_keeps.leads
  | extestPulse => exact execExtestPulse_keeps.leads
  | extestTrain => exact execExtestTrain_keeps.leads
  | clamp => exact execClamp_keeps.leads
  | highz => exact execHighz_keeps.leads
  | bypass => exact execBypass_keeps.leads
  | bscanExitReset => exact execBscanExitReset_leads
  | traceMarker => exact execTraceMarker_keeps.leads
  | registerWrite => exact execRegisterWrite_leads
  | atsTranslationCompletion => exact execAtsTranslationCompletion_leads
  | functionEnable => exact execFunctionEnable_keeps.leads
  | spareLaneLosesLock => exact execSpareLaneLosesLock_keeps.leads
  | getCertificate => exact execGetCertificate_keeps.leads

/-- A step leads on from the state without the command that it takes. -/
theorem step_leads (s : State) : Answer.Leads (step s) { s with pending := s.pending.tail }.kept := by
  unfold step
  split
  next h =>
    rw [h]
    exact Answer.leads_next.mpr (Kept.leads_of_eq (State.idle_kept.trans (by rw [State.kept, h]; rfl)))
  next c rest h =>
    rw [h]
    exact exec_leads c _

theorem Bounded.of_leads {s t : State} (h : s.kept.Leads t.kept) (hs : Bounded s) : Bounded t :=
  ⟨of_decide_eq_true (h.events (decide_eq_true hs.events)), h.translations hs.translations⟩

theorem FusesAtLeast.of_leads {n : Nat → Nat} {s t : State} (h : s.kept.Leads t.kept) (hs : FusesAtLeast n s) : FusesAtLeast n t :=
  ⟨h.listed hs.listed, fun c => (hs.least c).trans (h.rises hs.listed c)⟩

/-- Settles O58: nothing is listed after reset. -/
theorem resetIsWithinItsBounds : Obligations.ResetIsWithinItsBounds :=
  ⟨⟨Nat.zero_le _, Nat.zero_le _⟩, ⟨rfl, fun _ => Nat.zero_le _⟩⟩

/-- Settles O59: the state without the command that a step takes is as bounded, and what the step leaves leads on from it. -/
theorem everyStepStaysWithinItsBounds : Obligations.EveryStepStaysWithinItsBounds := fun s _ hstep hs =>
  Bounded.of_leads (step_leads s _ hstep) ⟨hs.events, hs.translations⟩

/-- Settles O60: no command lowers a counter, and neither does the reset that some commands end in. -/
theorem antiRollbackCountersNeverFall : Obligations.AntiRollbackCountersNeverFall := fun _ s _ hstep hs =>
  FusesAtLeast.of_leads (step_leads s _ hstep) ⟨hs.listed, hs.least⟩

end Sys2Proof.Machine
end

section
/-! O56: the step function, and the idle cycle of a module in which no tile runs. -/

namespace Sys2Proof.Machine

/-- What a fold of steps that each leave a view of the state leaves. -/
theorem foldl_view {α β : Type} {f : State → α → State} (v : State → β) (hf : ∀ s a, v (f s a) = v s) (l : List α) (s : State) :
    v (l.foldl f s) = v s := by
  induction l generalizing s with
  | nil => rfl
  | cons a l ih => rw [List.foldl_cons, ih, hf]

/-- A fold over tiles of which none runs does nothing. -/
theorem foldl_advanceTile_of_not_runs (rate : Nat) (l : List Nat) (s : State) (h : ∀ n ∈ l, (s.tile n).runs = false) :
    l.foldl (fun acc n => if (acc.tile n).runs then acc.advanceTile n rate else acc) s = s := by
  induction l with
  | nil => rfl
  | cons n l ih =>
    rw [List.foldl_cons, if_neg (by simp [h n])]
    exact ih fun m hm => h m (List.mem_cons_of_mem n hm)

/-- What an idle cycle leaves where no tile runs. -/
def State.idleView (s : State) : BitVec 64 × List (Nat × Tile) × Lodge × Job := (s.time, s.tiles, s.lodge, s.job)

theorem State.idle_view_of_not_runs (s : State) (h : ∀ n, n < 96 → (s.tile n).runs = false) :
    s.idle.idleView = { s with time := s.time + 1 }.idleView := by
  have hstk : ∀ (t : State) (k : Nat) (c : Stack), (t.setStack k c).idleView = t.idleView := by simp [idleView]
  have htmb : ∀ (t : State) (d : Nat) (c : Tombola), (t.setTombola d c).idleView = t.idleView := by simp [idleView]
  unfold State.idle
  extract_lets s0 s1
  have h0 : s0.idleView = { s with time := s.time + 1 }.idleView := foldl_view idleView (fun t k => hstk t k _) _ _
  have ht : s0.tiles = s.tiles := congrArg (·.2.1) h0
  have h1 : s1 = s0 := foldl_advanceTile_of_not_runs _ _ _ fun n hn => by
    simpa only [State.tile_of_tiles ht] using h n (List.mem_range.mp hn)
  rw [foldl_view idleView (fun t k => htmb t k _), h1, h0]

/-- Settles O56: a step matches on the queue, and an idle cycle with no tile that runs touches stacks, tombolas and the time alone. -/
theorem aStepRunsTheFrontCommand : Obligations.AStepRunsTheFrontCommand := by
  refine ⟨fun c rest s => rfl, fun s hs => ⟨s.idle, ?_, ?_, fun h => ?_⟩⟩
  · simp [step, hs]
  · have h : s.idle.kept.pending = s.kept.pending := by rw [State.idle_kept]
    simp only [State.kept] at h
    rw [h, hs]
  · have hv := s.idle_view_of_not_runs h
    simp only [State.idleView, Prod.mk.injEq] at hv
    exact hv

end Sys2Proof.Machine
end

section
/-! O40: the chunks of a ring, by arithmetic modulo the number of members (R454). -/

namespace Sys2Proof.Machine

/-- The ring up: from the rank after, one offset more names the same chunk; an offset of `p` is a whole turn. -/
theorem forward_of_succ {r p j a : Nat} (hr : r < p) (hj : j ≤ p) (ha : a = j + 1 ∨ (j = p ∧ a = 1)) :
    ((r + 1) % p + 2 * p - a) % p = (r + 2 * p - j) % p := by
  have key : ∀ j ≤ p, ((r + 1) % p + 2 * p - (j + 1)) % p = (r + 2 * p - j) % p := fun j hj => by
    rcases Nat.lt_or_ge (r + 1) p with h | h
    · rw [Nat.mod_eq_of_lt h, show r + 1 + 2 * p - (j + 1) = r + 2 * p - j by omega]
    · obtain rfl : p = r + 1 := by omega
      rw [Nat.mod_self, show r + 2 * (r + 1) - j = 0 + 2 * (r + 1) - (j + 1) + (r + 1) by omega, Nat.add_mod_right]
  obtain rfl | ⟨rfl, rfl⟩ := ha
  · exact key j hj
  · rw [key 0 (by omega), show r + 2 * j - 0 = r + 2 * j - j + j by omega, Nat.add_mod_right]

/-- The ring down: from the rank before, one offset more names the same chunk; an offset of `p` is a whole turn. -/
theorem reverse_of_pred {r p j a : Nat} (hp : 0 < p) (ha : a = j + 1 ∨ (j = p ∧ a = 1)) :
    ((r + p - 1) % p + a) % p = (r + j) % p := by
  have key : ∀ j, ((r + p - 1) % p + (j + 1)) % p = (r + j) % p := fun j => by
    rw [Nat.mod_add_mod, show r + p - 1 + (j + 1) = r + j + p by omega, Nat.add_mod_right]
  obtain rfl | ⟨rfl, rfl⟩ := ha
  · exact key j
  · rw [key 0, Nat.add_zero, Nat.add_mod_right]

/-- Two offsets of one turn that name the same chunk are the same. -/
theorem offset_eq_of_forward_eq {r p a b : Nat} (ha : 1 ≤ a ∧ a ≤ p) (hb : 1 ≤ b ∧ b ≤ p)
    (h : (r + 2 * p - a) % p = (r + 2 * p - b) % p) : a = b := by
  have hx : r + 2 * p - a = r + 2 * p - b := Nat.ModEq.eq_of_abs_lt h (by rw [abs_lt]; omega)
  omega

/-- The offset that a member's rank is moved by to name the chunk of a step. -/
def Ring.offset (k : Ring) (step : Nat) : Nat :=
  if k.summing step then step + 2 else (if k.c.reduces then step - (k.p - 1) else step) + 1

theorem Ring.chunkIn_forward (k : Ring) (step : Nat) : k.chunkIn true step = (k.r + 2 * k.p - k.offset step) % k.p := rfl

theorem Ring.offset_of_reduces {k : Ring} (h : k.c.op ≤ 2) (step : Nat) :
    k.offset step = if step < k.p - 1 then step + 2 else step - (k.p - 1) + 1 := by
  simp only [offset, summing, BndCmd.reduces, h, decide_true, Bool.true_and, decide_eq_true_eq, if_true]

theorem Ring.offset_of_allgather {k : Ring} (h : k.c.op = 3) (step : Nat) : k.offset step = step + 1 := by
  simp [offset, summing, BndCmd.reduces, h]

theorem Ring.steps_of_allgather {k : Ring} (hop : k.c.op = 3) : k.steps = k.p - 1 := by simp only [steps, hop]

theorem Ring.steps_le {k : Ring} (hop : 1 ≤ k.c.op ∧ k.c.op ≤ 3) : k.steps ≤ 2 * (k.p - 1) := by
  unfold steps
  split <;> omega

theorem Ring.le_steps {k : Ring} (hop : 1 ≤ k.c.op ∧ k.c.op ≤ 3) : k.p - 1 ≤ k.steps := by
  unfold steps
  split <;> omega

theorem Ring.offset_le {k : Ring} (hp : 2 ≤ k.p) (hop : 1 ≤ k.c.op ∧ k.c.op ≤ 3) {step : Nat} (h : step < k.steps) : k.offset step ≤ k.p := by
  by_cases hr : k.c.op ≤ 2
  · have hs := Ring.steps_le hop
    rw [offset_of_reduces hr]
    split <;> omega
  · have hs := Ring.steps_of_allgather (k := k) (by omega)
    rw [offset_of_allgather (by omega)]
    omega

/-- From one step to the next the offset grows by one, and starts again at one after a whole turn. -/
theorem Ring.offset_succ {k : Ring} (hp : 2 ≤ k.p) (hop : 1 ≤ k.c.op ∧ k.c.op ≤ 3) (step : Nat) :
    k.offset (step + 1) = k.offset step + 1 ∨ (k.offset step = k.p ∧ k.offset (step + 1) = 1) := by
  by_cases hr : k.c.op ≤ 2
  · rw [offset_of_reduces hr, offset_of_reduces hr]
    split <;> split <;> omega
  · have hg : k.c.op = 3 := by omega
    exact .inl (by rw [offset_of_allgather hg, offset_of_allgather hg])

/-- In the steps of one phase no offset comes back. -/
theorem Ring.offset_inj {k : Ring} {i j : Nat} (hi : i < k.p - 1) (hj : j < k.p - 1) (hop : k.c.op ≤ 3) (h : k.offset i = k.offset j)
    (h1 : 1 ≤ k.c.op) : i = j := by
  by_cases hr : k.c.op ≤ 2
  · simpa [offset_of_reduces hr, hi, hj] using h
  · have hg : k.c.op = 3 := by omega
    simpa [offset_of_allgather hg] using h

/-- The first offset received is one more than the one that a member sends first. -/
theorem Ring.offset_zero {k : Ring} (hp : 2 ≤ k.p) (hop : k.c.op ≤ 3) (h1 : 1 ≤ k.c.op) :
    k.offset 0 = (if k.c.reduces then 1 else 0) + 1 := by
  by_cases hr : k.c.op ≤ 2
  · rw [offset_of_reduces hr, if_pos (by omega), BndCmd.reduces, decide_eq_true hr, if_pos rfl]
  · rw [offset_of_allgather (by omega), BndCmd.reduces, decide_eq_false hr, if_neg Bool.false_ne_true]

theorem Ring.offset_pos (k : Ring) (step : Nat) : 1 ≤ k.offset step := by
  unfold offset
  split <;> omega

/-- Settles O40: a step moves the rank by one and the offset by one the other way. -/
theorem ringStepsHandEveryChunkOn : Obligations.RingStepsHandEveryChunkOn := by
  intro k hp hr h1 h3 succ pred
  have hle : ∀ {step}, step < k.steps → k.offset step ≤ k.p := Ring.offset_le hp ⟨h1, h3⟩
  have hz : k.offset 0 = (if k.c.reduces then 1 else 0) + 1 := Ring.offset_zero hp h3 h1
  refine ⟨?firstForward, ?firstReverse, fun step h => ?next, fun step _ => ⟨?_, ?_⟩, fun i j hi hj h => ?once⟩
  case firstForward =>
    have hone : (if k.c.reduces then 1 else 0) ≤ 1 := by split <;> omega
    calc ((k.r + 1) % k.p + 2 * k.p - k.offset 0) % k.p
        = (k.r + 2 * k.p - (if k.c.reduces then 1 else 0)) % k.p := forward_of_succ hr (by omega) (.inl hz)
      _ = (k.r + k.p - (if k.c.reduces then 1 else 0)) % k.p := by
        rw [show k.r + 2 * k.p - (if k.c.reduces then 1 else 0) = k.r + k.p - (if k.c.reduces then 1 else 0) + k.p by omega,
          Nat.add_mod_right]
  case firstReverse => exact reverse_of_pred (by omega) (.inl hz)
  case next =>
    have hn := Ring.offset_succ hp ⟨h1, h3⟩ step
    exact ⟨forward_of_succ hr (hle (by omega)) hn, reverse_of_pred (by omega) hn⟩
  · exact Nat.mod_lt _ (by omega)
  · exact Nat.mod_lt _ (by omega)
  case once =>
    have hs : k.p - 1 ≤ k.steps := Ring.le_steps ⟨h1, h3⟩
    rw [Ring.chunkIn_forward, Ring.chunkIn_forward] at h
    exact Ring.offset_inj hi hj h3 (offset_eq_of_forward_eq ⟨k.offset_pos i, hle (by omega)⟩ ⟨k.offset_pos j, hle (by omega)⟩ h) h1

end Sys2Proof.Machine
end

section
/-! O33: what `tmbStart`, `tmbCmdComplete` and `tmbFail` do. -/

namespace Sys2Proof.Machine

/-- A guard that does not hold is passed by. -/
theorem ite_not_of_true {α : Type} {b : Bool} (h : b = true) {x y : α} : (if (!b) = true then x else y) = y := if_neg (by simp [h])

/-- A tombola that starts its next command (R377, R381): the state that a command's run is answered from. -/
theorem State.tmbStart_of_checks {s : State} {d dt : Nat} {tile : Nat} {item : BitVec 2048} {rest : List (Nat × BitVec 2048)}
    (run : State → TmbCmd → List Byte → Nat → Except Nat (State × TmbOut)) (op : Nat)
    (hq : ((s.reachTmb d dt).tombola d).q = (tile, item) :: rest) (hrun : ((s.reachTmb d dt).tombola d).running = none)
    (hup : (s.reachTmb d dt).unitUp (unitId 6 d) = true)
    (hopen : (s.reachTmb d dt).stacksOpen (granulesOf (((s.reachTmb d dt).tombola d).parAddr (tmbCmd item).seq) 256 ++
      (tmbCmd item).rows.flatMap fun n => granulesOf ((tmbCmd item).logAddr + n * (tmbCmd item).stride)
        (((s.reachTmb d dt).tombola d).vocab * (tmbCmd item).width)) = true) :
    s.tmbStart d dt op run =
      let s1 := (s.reachTmb d dt).setTombola d { (s.reachTmb d dt).tombola d with q := rest }
      let c := tmbCmd item
      let par := s1.fetchBytes (((s.reachTmb d dt).tombola d).parAddr c.seq) 256
      let nlog := byteField par.2.1 0x2A 2
      match s1.tmbError d c nlog with
      | some code => s1.tmbFail d c.tag code
      | none =>
        if c.op ≠ op then s.reachTmb d dt
        else match run par.1 c par.2.1 nlog with
          | .error code => s1.tmbFail d c.tag code
          | .ok (s2, o) =>
            let y := s2.tombola d
            (s2.setTombola d { y with running := some { tile := tile, item := item, due := y.cycle + o.cycles, writes := o.writes
                                                        block := o.block, empties := o.empties, poison := o.poison } }).cmdStart
              (unitId 6 d) c.tag.toNat := by
  unfold tmbStart
  extract_lets s0 t
  split
  next x more hx hn =>
    obtain ⟨rfl, rfl⟩ : x = (tile, item) ∧ more = rest := by simpa using hx.symm.trans hq
    exact (ite_not_of_true hup).trans (ite_not_of_true hopen)
  next hnot => exact absurd hrun (hnot _ _ hq)

theorem State.tmbFail_tombola (s : State) (d : Nat) (tag : BitVec 32) {code : Nat} (h1 : 1 ≤ code) (h6 : code ≤ 6) :
    (s.tmbFail d tag code).tombola d = { s.tombola d with err := BitVec.ofNat 8 code, errTag := tag, q := [], running := none } := by
  have herr : ({ s.tombola d with err := BitVec.ofNat 8 code, errTag := tag, q := [], running := none } : Tombola) ≠ Tombola.zero := fun h => by
    have hc : BitVec.ofNat 8 code = 0#8 := congrArg Tombola.err h
    have := congrArg BitVec.toNat hc
    simp at this
    omega
  have hreq : ∀ t : State, (t.requestTeardown 6 none).tombola d = t.tombola d := fun t => by
    unfold requestTeardown
    split <;> rfl
  exact (hreq _).trans (mget_mput_ne herr d)

/-- Settles O33: each clause is one path of `tmbStart` or of the completion. -/
theorem tombolaCommandsRunAndFail : Obligations.TombolaCommandsRunAndFail := by
  refine ⟨?start, fun s d => ⟨?complete, ?fail⟩⟩
  case start =>
    intro s d dt tile item rest
    dsimp only
    intro hq hrun hup hopen
    have hstart := fun run op => State.tmbStart_of_checks (s := s) run op hq hrun hup hopen
    refine ⟨fun hok => ⟨fun r hop hr => ?_, fun r hop hr => ?_, fun r hop hr => ?_, fun e hop hr => ?_⟩, fun e he => ?_⟩
    all_goals refine congrArg Host.Outcome.next ((hstart _ _).trans ?_)
    iterate 4 · simp only [hok, hop, hr, ne_eq, not_true_eq_false, if_false]
    · simp only [he]
  case complete =>
    intro dt r s1 t c done s2 hrun hdue hup hopen hports
    have hport : (r.writes.find? fun w => !s1.portOpen w.1) = none := List.find?_eq_none.mpr fun w hw => by simp [hports w hw]
    have hbusy : ¬ (decide (t.cycle < r.due) || !s1.unitUp (unitId 6 d.val) ||
        !s1.stacksOpen (r.writes.flatMap fun w => granulesOf w.1 w.2.length)) = true := by
      simpa [hup, hopen] using hdue
    have hdone : exec (.tmbCmdComplete d dt) s =
        .next (if c.sig then s2.sendSignal (.tombola d.val c.tag) (partyId 0 r.tile) 1 c.sem 1 0 else s2) := by
      change execTmbCmdComplete d dt s = _
      unfold execTmbCmdComplete
      extract_lets
      refine congrArg Host.Outcome.next ?_
      split
      next r' h' =>
        obtain rfl : r = r' := Option.some.inj (hrun.symm.trans h')
        refine (if_neg hbusy).trans ?_
        split
        next w hw => exact absurd (hw.symm.trans hport) (by simp)
        next => rfl
      next h' => exact absurd (hrun.symm.trans h') (by simp)
    exact ⟨fun h => by rw [hdone, h]; rfl, fun h => by rw [hdone, h]; rfl⟩
  case fail =>
    intro tag code h1 h6 t
    have ht : t.tombola d.val = _ := s.tmbFail_tombola d.val tag h1 h6
    refine ⟨by rw [ht], by rw [ht], by rw [ht], by rw [ht], fun hfirst hlow hhigh => ?_⟩
    have hlive : s.jobLive = true := by simp [State.jobLive, hlow, hhigh]
    exact (congrArg (·.job.tearing) (State.requestTeardown_of_live (s := s.setTombola d.val _) hlive hfirst 6 none)).trans rfl

end Sys2Proof.Machine
end

section
/-! O34: a job's GO, END, ABORT, RELEASE, FINISH and teardown. -/

namespace Sys2Proof.Machine

@[simp] theorem State.hostError_job (s : State) (f bit code detail : Nat) (job : Bool) : (s.hostError f bit code detail job).job = s.job := by
  unfold State.hostError
  extract_lets x was last s1
  split
  · rfl
  · exact State.msix_job s1 f _

@[simp] theorem State.readRefused_job (s : State) (f : Nat) : (s.readRefused f).job = s.job := by
  simp [State.readRefused, State.fresh]

/-- What a job that has just started says of itself (R401). -/
theorem State.startJob_job (s : State) (m : Image) :
    let j := (s.startJob m).job
    j.state = 2 ∧ j.cause = 0 ∧ j.refuse = 0 ∧ j.owner = m.owner ∧ j.ckTaken = 0 ∧ j.ckResumed = 0 ∧ j.lastCkpt = none ∧ j.tearing = none := by
  unfold State.startJob
  extract_lets model s1 s2 s3
  exact ⟨rfl, rfl, rfl, rfl, rfl, rfl, rfl, rfl⟩

/-- A pass over the first `n` tiles that gives each its own new value. -/
theorem State.foldl_setTile_tile {s : State} (h : mwf Tile.zero s.tiles = true) (f : Tile → Tile) (n : Nat) :
    let t := (List.range n).foldl (fun acc i => acc.setTile i (f (acc.tile i))) s
    mwf Tile.zero t.tiles = true ∧ ∀ i, t.tile i = if i < n then f (s.tile i) else s.tile i := by
  induction n with
  | zero => exact ⟨h, fun i => rfl⟩
  | succ n ih =>
    rw [List.range_succ, List.foldl_append]
    obtain ⟨hwf, htile⟩ := ih
    refine ⟨mput_wf hwf _ _, fun i => ?_⟩
    rw [List.foldl_cons, List.foldl_nil]
    by_cases hi : i = n
    · rw [hi, State.tile_setTile_same hwf, htile, if_neg (Nat.lt_irrefl n), if_pos n.lt_succ_self]
    · rw [State.tile_setTile_other hwf hi, htile]
      exact if_congr (by omega) rfl rfl

/-- Every tile handed over, as a RELEASE leaves them. -/
def State.handedOver (s : State) : State := (List.range 96).foldl (fun acc n => acc.setTile n (acc.tile n).handOver) s

theorem State.handedOver_view {β : Type} (v : State → β) (hv : ∀ (s : State) (n : Nat) (x : Tile), v (s.setTile n x) = v s) (s : State) :
    v s.handedOver = v s := foldl_view v (fun acc n => hv acc n _) _ s

theorem State.handedOver_tile {s : State} (h : mwf Tile.zero s.tiles = true) {n : Nat} (hn : n < 96) :
    s.handedOver.tile n = (s.tile n).handOver := ((State.foldl_setTile_tile h Tile.handOver 96).2 n).trans (if_pos hn)

theorem exec_jobRelease_of_ended {s : State} (h : s.job.state = 5) :
    exec .jobRelease s = .next { s.handedOver with job := { s.handedOver.job with state := 0, image := none } } :=
  congrArg Host.Outcome.next (if_pos h)

theorem State.jobLive_of_idle {s : State} (h : s.job.state = 0 ∨ s.job.state = 5) : s.jobLive = false := by
  obtain h | h := h <;> simp [State.jobLive, h]

theorem State.job_running_of_servingRuns {s : State} (h : s.servingRuns = true) : s.job.state = 2 := by
  simp only [State.servingRuns, Bool.and_eq_true, decide_eq_true_eq] at h
  exact h.1

section Go
variable {s : State} {image model : List Byte} {ok : Bool}

theorem exec_jobGo_of_checked (h : s.job.state = 0 ∨ s.job.state = 5) (hok : s.refuseImage image (imageOf image model) ok false = none) :
    exec (.jobGo image model ok) s = .next (s.startJob (imageOf image model)) := by
  have h13 : ¬ (s.job.state = 1 ∨ s.job.state = 3) := by omega
  have h2 : decide (s.job.state = 2) = false := decide_eq_false (by omega)
  change execJobGo image model ok s = _
  simp only [execJobGo, h2, hok]
  simp [h13]

theorem exec_jobGo_of_refused {code : Nat} (h : s.job.state = 0 ∨ s.job.state = 5)
    (hcode : s.refuseImage image (imageOf image model) ok false = some code) :
    exec (.jobGo image model ok) s = .next { (if ok then s else s.readRefused 0) with
      job := { s.job with refuse := BitVec.ofNat 8 code, state := 5, cause := 8, owner := (imageOf image model).owner } } := by
  have h13 : ¬ (s.job.state = 1 ∨ s.job.state = 3) := by omega
  have h2 : decide (s.job.state = 2) = false := decide_eq_false (by omega)
  have hjob : (if ok then s else s.readRefused 0).job = s.job := by split <;> simp
  have hlive : (if ok then s else s.readRefused 0).jobLive = false := by
    rw [State.jobLive, hjob]
    exact State.jobLive_of_idle h
  change execJobGo image model ok s = _
  simp only [execJobGo, h2, hcode]
  simp [h13, State.refuseJob, hlive, hjob]

/-- A GO while a serving job runs leaves its code in REFUSE and nothing else (R402; the job's own state stays, log entry 39). -/
theorem exec_jobGo_of_serving (h : s.servingRuns = true) :
    exec (.jobGo image model ok) s = .next { s with job := { s.job with refuse := 0x0A } } := by
  have h2 : s.job.state = 2 := State.job_running_of_servingRuns h
  have hlive : s.jobLive = true := by simp [State.jobLive, h2]
  change execJobGo image model ok s = _
  simp [execJobGo, h2, h, State.refuseJob, hlive]

theorem exec_jobGo_of_waiting (h2 : s.job.state = 2) (hs : s.servingRuns = false) (hpre : (imageOf image model).preempt = true)
    (hsus : s.job.suspended = none) (hok : s.refuseImage image (imageOf image model) ok true = none) :
    exec (.jobGo image model ok) s = .next { s with job := { s.job with waiting := some (imageOf image model) } } := by
  change execJobGo image model ok s = _
  simp only [execJobGo, h2, decide_true, hok]
  simp [hs, hpre, hsus]

end Go

/-- Settles O34: the decisions of `execJobGo`, and what each other operation leaves of the job. -/
theorem jobsStartEndAndAreReleased : Obligations.JobsStartEndAndAreReleased := by
  intro s
  refine ⟨fun image model ok => ?go, fun h => ?jobEnd, fun h1 h4 hfirst => ?abort, fun h5 hwf => ?release, fun h2 hs hfirst hfin hidle => ?finish,
    fun c hc => ?teardown⟩
  case go =>
    intro m
    refine ⟨fun h hok => ⟨s.startJob m, ?_, ?_⟩, fun code h hcode => ?_, fun h => ?_, fun h2 hs hpre hsus hok => ?_⟩
    · exact exec_jobGo_of_checked h hok
    · obtain ⟨hst, hc, hr, ho, ht, hre, hl, hte⟩ := s.startJob_job m
      exact ⟨hst, hc, hr, ho, ht, hre, hl, hte⟩
    · exact exec_jobGo_of_refused h hcode
    · exact exec_jobGo_of_serving h
    · exact exec_jobGo_of_waiting h2 hs hpre hsus hok
  case jobEnd => exact congrArg Host.Outcome.next (if_pos h)
  case abort =>
    have hlive : s.jobLive = true := by simp [State.jobLive, h1, h4]
    exact congrArg Host.Outcome.next ((if_pos hlive).trans (State.requestTeardown_of_live hlive hfirst 3 none))
  case release =>
    have hexec := exec_jobRelease_of_ended h5
    have hjob := State.handedOver_view State.job State.setTile_job s
    have htile := fun n (hn : n < 96) => State.handedOver_tile hwf hn
    have hstk := State.handedOver_view State.stk State.setTile_stk s
    have hregions := State.handedOver_view State.regions State.setTile_regions s
    have hserving := State.handedOver_view State.serving State.setTile_serving s
    generalize s.handedOver = t at hexec hjob htile hstk hregions hserving
    exact ⟨_, hexec, by rw [hjob], htile, hstk, hregions, hserving⟩
  case finish =>
    have hall : ((List.range 96).all fun n => (s.tile n).finished) = true := List.all_eq_true.mpr fun n hn => hfin n (List.mem_range.mp hn)
    refine congrArg Host.Outcome.next (if_pos ?_)
    rw [h2, hs, hfirst, hall, hidle]
    rfl
  case teardown =>
    obtain ⟨hstate, hcause⟩ := State.teardown_job hc
    refine ⟨s.teardown, rfl, rfl, hstate, hcause.trans (by simp), ?_⟩
    simp only [State.teardown, hc, State.msix_job, State.endJob_job]

end Sys2Proof.Machine
end

section
/-! O35: checkpoints, suspensions, and what waits for a quiesce point. -/

namespace Sys2Proof.Machine

/-- A job whose checkpoint goes to the half not written last (R403). -/
def Job.checkpointed (j : Job) (v : Saved) : Job :=
  let half := if j.ckTaken = 0#32 then false else !j.ckHalf
  let j1 := { j with ckTaken := satInc j.ckTaken, ckHalf := half }
  if half then { j1 with ckpt1 := some v } else { j1 with ckpt0 := some v }

theorem State.takeCheckpoint_job (s : State) (m : Image) (c : CkptCfg) :
    (s.takeCheckpoint m c).job = s.job.checkpointed (s.saveLive m c) := rfl

theorem Job.checkpointed_ckTaken (j : Job) (v : Saved) : (j.checkpointed v).ckTaken = satInc j.ckTaken := by
  unfold Job.checkpointed
  extract_lets half j1
  split <;> rfl

theorem Job.checkpointed_lastCkpt (j : Job) (v : Saved) : (j.checkpointed v).lastCkpt = some v := by
  unfold Job.checkpointed
  cases hb : (if j.ckTaken = 0#32 then false else !j.ckHalf) <;> simp [Job.lastCkpt]

/-- After the first checkpoint, the one before stays in the other half. -/
theorem Job.checkpointed_keeps_last {j : Job} (h : j.ckTaken ≠ 0) (v : Saved) :
    (if j.ckHalf then (j.checkpointed v).ckpt1 else (j.checkpointed v).ckpt0) = j.lastCkpt := by
  cases hb : j.ckHalf <;> simp_all [Job.checkpointed, Job.lastCkpt]

theorem State.state_of_atCheckpoint {s : State} {m : Image} {c : CkptCfg} (h : s.atCheckpoint = some (m, c)) : s.job.state = 2 := by
  unfold State.atCheckpoint at h
  split at h
  · split at h
    · split at h
      next hc =>
        simp only [Bool.and_eq_true, decide_eq_true_eq] at hc
        exact hc.1.1.1
      next => cases h
    · cases h
  · cases h

/-- The remap that is due in a row of the tile array, if there is one. -/
def State.remapRow (s : State) (r : Nat) : State :=
  match s.remapOf r with
  | some p => s.remapTile p.1 p.2
  | none => s

theorem State.remapAll_eq (s : State) : s.remapAll = (List.range 8).foldl State.remapRow s := rfl

theorem State.remapRow_of_none {s : State} {r : Nat} (h : s.remapOf r = none) : s.remapRow r = s := by rw [State.remapRow, h]

theorem State.remapRow_of_some {s : State} {r : Nat} {p : Nat × Nat} (h : s.remapOf r = some p) : s.remapRow r = s.remapTile p.1 p.2 := by
  rw [State.remapRow, h]

/-- No remap is due in any of the given rows, so a pass over them leaves the state. -/
theorem State.foldl_remapRow_of_none {s : State} {l : List Nat} (h : ∀ n ∈ l, s.remapOf n = none) : l.foldl State.remapRow s = s := by
  induction l with
  | nil => rfl
  | cons r l ih =>
    rw [List.foldl_cons, State.remapRow_of_none (h r (List.mem_cons_self ..))]
    exact ih fun n hn => h n (List.mem_cons_of_mem r hn)

theorem State.remapAll_of_none {s : State} (h : ∀ n, n < 8 → s.remapOf n = none) : s.remapAll = s :=
  State.foldl_remapRow_of_none fun n hn => h n (List.mem_range.mp hn)

theorem State.remapAll_of_one {s : State} {n u v : Nat} (hn : n < 8) (hbefore : ∀ k, k < n → s.remapOf k = none) (hdue : s.remapOf n = some (u, v))
    (hafter : ∀ k, n < k → k < 8 → (s.remapTile u v).remapOf k = none) : s.remapAll = s.remapTile u v := by
  have hrows : List.range 8 = List.range n ++ n :: List.range' (n + 1) (7 - n) := by
    rw [List.range_eq_range', List.range_eq_range', show 8 = n + (1 + (7 - n)) by omega, List.range'_append_1.symm, Nat.add_comm 1]
    simp [List.range'_succ]
  rw [State.remapAll_eq, hrows, List.foldl_append, State.foldl_remapRow_of_none fun k hk => hbefore k (List.mem_range.mp hk), List.foldl_cons,
    State.remapRow_of_some hdue]
  refine State.foldl_remapRow_of_none fun k hk => ?_
  rw [List.mem_range'_1] at hk
  exact hafter k (by omega) (by omega)

theorem exec_checkpointRestore_of_saved {s t : State} {m : Image} {v : Saved} (him : s.job.image = some m) (hserv : m.serving = false)
    (h2 : s.job.state = 2) (hfirst : s.job.tearing = none) (ht : s.cancelWork.remapAll = t) (hv : t.job.lastCkpt = some v) :
    exec .checkpointRestore s = .next (({ t with job := { t.job with ckResumed := satInc t.job.ckResumed } }.reloadTiles m (some v)
      fun n => v.tiles.any fun e => decide (e.1 = n)).restoreRest m v) := by
  have hgo : ¬ (s.job.state ≠ 2 ∨ m.serving = true ∨ s.job.tearing.isSome = true) := by simp [h2, hserv, hfirst]
  have hlast : { t.job with ckResumed := satInc t.job.ckResumed }.lastCkpt = some v := hv
  change Host.Outcome.next s.restoreCheckpoint = _
  simp only [State.restoreCheckpoint, him, if_neg hgo, ht, hlast]

section Quiesced
variable {s t : State} (h : s.jobLive = true → s.quiesced = true) (ht : s.remapAll = t)
include h ht

theorem exec_quiescePoint_of_curve {r : LiveRun} (hrun : t.lodge.liveRun = some r) (hop : r.op = 1) :
    exec .quiescePoint s = .next ((t.applyCurve r.payload).liveEnd 0) := by
  have hgo : ¬ (s.jobLive && !s.quiesced) = true := by
    cases hl : s.jobLive <;> simp [h, hl]
  change execQuiescePoint s = _
  simp only [execQuiescePoint, if_neg hgo, ht, hrun, if_pos hop]

theorem exec_quiescePoint_of_no_command (hrun : t.lodge.liveRun = none) : exec .quiescePoint s = .next t := by
  have hgo : ¬ (s.jobLive && !s.quiesced) = true := by
    cases hl : s.jobLive <;> simp [h, hl]
  change execQuiescePoint s = _
  simp only [execQuiescePoint, if_neg hgo, ht, hrun]

end Quiesced

theorem State.switchTime_job (s : State) (live model kind : Nat) :
    ∃ c k, (s.switchTime live model kind).job = { s.job with switchCycles := c, switchKind := k } := ⟨_, _, rfl⟩

theorem exec_jobPreempt_of_checkpoint {s : State} {w m : Image} {c : CkptCfg} (hw : s.job.waiting = some w)
    (hat : s.atCheckpoint = some (m, c)) : ∃ (s1 : State) (live model : Nat), exec .jobPreempt s = .next ((s1.startJob w).switchTime live model 2) := by
  have hstate : ¬ (s.job.state = 5 ∨ s.job.state = 0) := by rw [State.state_of_atCheckpoint hat]; decide
  change ∃ s1 live model, execJobPreempt s = _
  simp only [execJobPreempt, hw, if_neg hstate, hat]
  exact ⟨_, _, _, rfl⟩

/-- A suspended job that runs again (R408): what it leaves of the job table, on the restored state. -/
theorem exec_jobResume_of_ended {s : State} {m : Image} {v : Saved} (hsus : s.job.suspended = some (m, v))
    (hidle : s.job.state = 5 ∨ s.job.state = 0) (hw : s.job.waiting = none) :
    ∃ (t : State) (model : Nat), exec .jobResume s = .next ({ t with
      job := { t.job with state := 2, cause := 0, owner := m.owner, suspended := none, susp := false, tearing := none, haltTile := none
                          ckpt0 := some v, ckpt1 := none, ckHalf := false } }.switchTime v.size model 3) := by
  have hgo : ¬ ((s.job.state ≠ 5 ∧ s.job.state ≠ 0) ∨ s.job.waiting.isSome = true) := by
    rw [hw]
    simp only [Option.isSome_none, Bool.false_eq_true, or_false]
    omega
  change ∃ t model, execJobResume s = _
  simp only [execJobResume, hsus, if_neg hgo]
  exact ⟨_, _, rfl⟩

/-- Settles O35, a clause per command. -/
theorem checkpointsSuspensionsAndQuiescePoints : Obligations.CheckpointsSuspensionsAndQuiescePoints := by
  intro s
  refine ⟨fun m c hat hw => ?save, fun m v him hserv h2 hfirst => ?restore, fun w hw => ⟨fun hidle => ?waited, fun m c hat => ?preempted⟩,
    fun m v hsus hidle hw => ?resume, fun r hq hnone hrun hop => ?curve, fun n u v hq hn hbefore hdue hafter hrun => ?remap⟩
  case save =>
    rw [State.takeCheckpoint_job]
    refine ⟨?_, s.job.checkpointed_ckTaken _, s.job.checkpointed_lastCkpt _, fun h0 v hv => (Job.checkpointed_keeps_last h0 _).trans hv⟩
    change execCheckpointSave s = _
    simp [execCheckpointSave, hat, hw]
  case restore =>
    extract_lets s1 s2
    have hs1 : s.cancelWork.remapAll = s1 := Eq.refl s1
    clear_value s1
    intro hv
    exact exec_checkpointRestore_of_saved him hserv h2 hfirst hs1 hv
  case waited =>
    change execJobPreempt s = _
    simp only [execJobPreempt, hw, if_pos hidle]
  case preempted =>
    obtain ⟨s1, live, model, hexec⟩ := exec_jobPreempt_of_checkpoint hw hat
    obtain ⟨cycles, kind, hjob⟩ := (s1.startJob w).switchTime_job live model 2
    obtain ⟨hstate, hcause, -, howner, -⟩ := s1.startJob_job w
    exact ⟨_, hexec, by rw [hjob]; exact hstate, by rw [hjob]; exact howner, by rw [hjob]; exact hcause⟩
  case resume =>
    obtain ⟨t, model, hexec⟩ := exec_jobResume_of_ended hsus hidle hw
    exact ⟨_, hexec, rfl, rfl, rfl, rfl, rfl⟩
  case curve => exact exec_quiescePoint_of_curve hq (State.remapAll_of_none hnone) hrun hop
  case remap => exact exec_quiescePoint_of_no_command hq (State.remapAll_of_one hn hbefore hdue hafter) hrun

end Sys2Proof.Machine
end

section
/-! O36: how a link trains, and how it swaps a lane for its spare. -/

namespace Sys2Proof.Machine

/-! ### The lanes that are good -/

theorem length_flatMap_le {α β : Type} {f : α → List β} (h : ∀ a, (f a).length ≤ 1) (l : List α) : (l.flatMap f).length ≤ l.length := by
  rw [List.length_flatMap]
  calc (l.map fun a => (f a).length).sum ≤ (l.map fun a => (f a).length).length • 1 := List.sum_le_card_nsmul _ _ (by simpa using fun a _ => h a)
    _ = l.length := by simp

theorem goodLanes_length_le (seen : BitVec 5) (lanes : List LaneObs) : (goodLanes seen lanes).length ≤ 5 := by
  refine length_flatMap_le (fun id => ?_) (List.range 5)
  split
  · split <;> simp
  · simp

/-- The map of a link whose lock has been searched for, by the number of its good lanes (R426). -/
theorem Link.map_of_four_good {x : Link} (h2 : x.state = 2) {lanes : List LaneObs} (now : Nat) (h : 4 ≤ (goodLanes x.signalSeen lanes).length) :
    (x.map lanes now).state = 4 ∧ (x.map lanes now).phase = 4 ∧ (x.map lanes now).width = 2 := by
  have hle := goodLanes_length_le x.signalSeen lanes
  have hgo : (x.goPhase 4).state = 4 := if_neg (by omega)
  obtain hg | hg : (goodLanes x.signalSeen lanes).length = 4 ∨ (goodLanes x.signalSeen lanes).length = 5 := by omega
  all_goals
    simp only [Link.map, hg]
    exact ⟨hgo, rfl, trivial⟩

theorem Link.map_of_two_good {x : Link} (h2 : x.state = 2) {lanes : List LaneObs} (now : Nat) (h : 2 ≤ (goodLanes x.signalSeen lanes).length)
    (h4 : (goodLanes x.signalSeen lanes).length < 4) :
    (x.map lanes now).state = 4 ∧ (x.map lanes now).phase = 4 ∧ (x.map lanes now).width = 1 ∧ (x.map lanes now).spare = 7 := by
  have hgo : (x.goPhase 4).state = 4 := if_neg (by omega)
  obtain hg | hg : (goodLanes x.signalSeen lanes).length = 2 ∨ (goodLanes x.signalSeen lanes).length = 3 := by omega
  all_goals
    simp only [Link.map, hg]
    exact ⟨hgo, rfl, trivial, trivial⟩

theorem Link.map_of_few_good (x : Link) {lanes : List LaneObs} (now : Nat) (h : (goodLanes x.signalSeen lanes).length < 2) :
    (x.map lanes now).state = 7 ∧ (x.map lanes now).fail = 1 ∧ (x.map lanes now).width = 0 := by
  obtain hg | hg : (goodLanes x.signalSeen lanes).length = 0 ∨ (goodLanes x.signalSeen lanes).length = 1 := by omega
  all_goals
    simp only [Link.map, hg]
    exact ⟨rfl, rfl, rfl⟩

/-! ### One link written twice -/

theorem Link.ne_zero_of_en {x : Link} (h : x.en = true) : x ≠ Link.zero := fun hz => by simp [hz, Link.zero] at h
theorem Link.ne_zero_of_state {x : Link} (h : x.state ≠ 0) : x ≠ Link.zero := fun hz => h (by rw [hz]; rfl)
theorem Link.ne_zero_of_negSeen {x : Link} (h : x.negSeen = true) : x ≠ Link.zero := fun hz => by simp [hz, Link.zero] at h

theorem State.link_setLink {s : State} {n : Nat} {x : Link} (hx : x ≠ Link.zero) : (s.setLink n x).link n = x := mget_mput_ne hx n

theorem State.setLink_setLink {s : State} {n : Nat} {x : Link} (hx : x ≠ Link.zero) (y : Link) : (s.setLink n x).setLink n y = s.setLink n y := by
  simp only [State.setLink, mput_mput_ne hx]

/-- A good negotiation flit has been taken up: what ends the negotiation (R429). -/
theorem State.endNegotiate_of_peer {s : State} {n : Nat} {g : NegFlit} (h : (s.link n).peerNeg = some g) :
    s.endNegotiate n =
      if g.seen = false ∨ (s.link n).negSent < 8 then s
      else if g.supp.getLsbD 1 = false then s.setLink n { (s.link n).down 7 0 2 s.time.toNat with peer := g.node.toNat }
      else if g.node = s.lnk.node then s.setLink n { (s.link n).down 7 0 3 s.time.toNat with peer := g.node.toNat }
      else s.linkActive n g := by
  simp only [State.endNegotiate, h, bestVersion_eq]
  cases g.seen <;> cases g.supp.getLsbD 1 <;> simp

/-- A lane that an ACTIVE link gives up for its spare (R441). -/
theorem State.retireLane_of_spare {s : State} {n lane : Nat} (h5 : (s.link n).state = 5) (hlane : lane < 5)
    (hused : (s.link n).lanes.getLsbD lane = true) (hspare : (s.link n).spare < 5) :
    s.retireLane n lane = (s.setLink n { s.link n with
      lanes := setBit (setBit (s.link n).lanes lane false) (s.link n).spare true, spare := 7, swaps := satInc (s.link n).swaps }).sendFlits n
        [((s.link n).txSeq, Flit.encode { Flit.plain (s.link n).txSeq ((s.link n).rxSeq - 1) with
          null := true, swLane := BitVec.ofNat 3 lane, swap := true })] := by
  have hgo : ¬ ((s.link n).state ≠ 5 ∨ 5 ≤ lane ∨ (s.link n).lanes.getLsbD lane = false) := by
    rw [h5, hused]
    simp only [ne_eq, not_true_eq_false, Bool.true_eq_false, or_false, false_or]
    omega
  simp only [State.retireLane, if_neg hgo, if_pos hspare]

theorem State.retireLane_of_no_spare {s : State} {n lane : Nat} (h5 : (s.link n).state = 5) (hlane : lane < 5)
    (hused : (s.link n).lanes.getLsbD lane = true) (hspare : 5 ≤ (s.link n).spare) : s.retireLane n lane = s.toRetrain n := by
  have hgo : ¬ ((s.link n).state ≠ 5 ∨ 5 ≤ lane ∨ (s.link n).lanes.getLsbD lane = false) := by
    rw [h5, hused]
    simp only [ne_eq, not_true_eq_false, Bool.true_eq_false, or_false, false_or]
    omega
  simp only [State.retireLane, if_neg hgo, if_neg (Nat.not_lt.mpr hspare)]

/-- A link that starts its training (R424). -/
theorem State.enableLink_of_disabled {s : State} {n : Nat} (h0 : (s.link n).state = 0) (hup : s.linkUp n = true) :
    s.enableLink n =
      s.setLink n { ({ s.link n with en := true } : Link).down 1 1 0 s.time.toNat with ssc := s.power.lnkSsc } := by
  have hx : ({ s.link n with en := true } : Link) ≠ Link.zero := Link.ne_zero_of_en rfl
  have hgo : ((s.link n).state = 0 && s.linkUp n) = true := by rw [h0, hup]; rfl
  refine (if_pos hgo).trans ?_
  rw [State.trainLink, State.link_setLink hx, State.setLink_setLink hx]
  rfl

theorem exec_negFlitRx_of_negotiating {s : State} {n : Fin 24} (bits : BitVec 2048) (fec : Nat) (h4 : (s.link n.val).state = 4)
    (hp : (s.link n.val).phase = 4) :
    let c : Link := { s.link n.val with fecCorr := satAdd (s.link n.val).fecCorr fec }
    let f := parseFlit bits
    exec (.negFlitRx n bits fec) s = .next (if f.crcOk = false then s.setLink n.val { c with crcErr := satInc c.crcErr }
      else if f.null = true ∧ f.neg = true then (s.setLink n.val { c with negSeen := true, peerNeg := some (parseNeg f) }).endNegotiate n.val
      else s.setLink n.val c) := by
  change execNegFlitRx n bits fec s = _
  simp [execNegFlitRx, Link.inPhase, h4, hp]

/-- Settles O36. -/
theorem linksTrainAndSpareLanes : Obligations.LinksTrainAndSpareLanes := by
  intro s n x now training
  refine ⟨fun h0 hup => congrArg Host.Outcome.next (State.enableLink_of_disabled h0 hup), fun signal h1 hp ht => ?detect,
    fun lanes h2 hp => ⟨?lock, x.map_of_four_good h2 now, x.map_of_two_good h2 now, x.map_of_few_good now⟩, fun bits fec h4 hp => ?negotiate,
    fun hp h5 ht => ?timeout, fun hup hen => ⟨fun h5 => ?_, fun h7 => ?_⟩,
    fun lane h5 hused => ⟨fun hspare => ⟨?retire, ?spareNow⟩, fun hspare => ?_⟩, fun h5 => ?_⟩
  case detect =>
    have hgo : (x.inPhase 1 && decide (x.trainFrom + 100000 ≤ now)) = true := by simp [Link.inPhase, h1, hp, ht]
    have hphase : x.goPhase 2 = { x with state := 2, phase := 2 } := by simp [Link.goPhase, h1]
    refine congrArg Host.Outcome.next ((if_pos hgo).trans ?_)
    rw [show s.link n.val = x from rfl, hphase]
  case lock =>
    have hgo : x.inPhase 2 = true := by simp [Link.inPhase, h2, hp]
    exact congrArg Host.Outcome.next (if_pos hgo)
  case negotiate =>
    intro f g c y s1
    have hexec := exec_negFlitRx_of_negotiating bits fec h4 hp
    have hy : s1.link n.val = y := State.link_setLink (Link.ne_zero_of_negSeen rfl)
    have hend := State.endNegotiate_of_peer (s := s1) (n := n.val) (g := g) (by rw [hy])
    rw [hy] at hend
    refine ⟨fun hcrc => hexec.trans (congrArg Host.Outcome.next (if_pos hcrc)), fun hcrc hnull hneg => ?_⟩
    have hgood : exec (.negFlitRx n bits fec) s = .next (s1.endNegotiate n.val) :=
      hexec.trans (congrArg Host.Outcome.next ((if_neg (by simp [f, hcrc])).trans (if_pos ⟨hnull, hneg⟩)))
    rw [hgood, hend]
    refine ⟨fun hearly => by rw [if_pos hearly], fun hseen hsent => ?_⟩
    have hlate : ¬ (g.seen = false ∨ y.negSent < 8) := not_or.mpr ⟨by simp [hseen], Nat.not_lt.mpr hsent⟩
    rw [if_neg hlate]
    have hsome : g.supp.getLsbD 1 = true → ¬ g.supp.getLsbD 1 = false := fun h => by rw [h]; decide
    exact ⟨fun hsupp => congrArg Host.Outcome.next (if_pos hsupp),
      fun hsupp hnode => congrArg Host.Outcome.next ((if_neg (hsome hsupp)).trans (if_pos hnode)),
      fun hsupp hnode => congrArg Host.Outcome.next ((if_neg (hsome hsupp)).trans (if_neg hnode))⟩
  case timeout =>
    have hgo : (decide (1 ≤ x.phase) && decide (x.state ≠ 5) && decide (x.trainFrom + 2000000 ≤ now)) = true := by simp [hp, h5, ht]
    exact congrArg Host.Outcome.next (if_pos hgo)
  case retire => exact congrArg Host.Outcome.next (State.retireLane_of_spare h5 lane.isLt hused hspare)
  case spareNow =>
    have hx : ({ x with lane := BitVec.ofNat 3 lane.val } : Link) ≠ Link.zero := Link.ne_zero_of_state (by simp [h5])
    have hlane : (BitVec.ofNat 3 lane.val).toNat = lane.val := Nat.mod_eq_of_lt (by omega)
    have hread := State.link_setLink (s := s) (n := n.val) hx
    change Host.Outcome.next ((s.setLink n.val _).retireLane n.val (BitVec.ofNat 3 lane.val).toNat) = _
    rw [hlane, State.retireLane_of_spare (by rw [hread]; exact h5) lane.isLt (by rw [hread]; exact hused) (by rw [hread]; exact hspare), hread,
      State.setLink_setLink hx]
  · have hgo : ¬ (!s.linkUp n.val || !x.en) = true := by simp [hup, hen]
    exact congrArg Host.Outcome.next ((if_neg hgo).trans (if_pos h5))
  · have hgo : ¬ (!s.linkUp n.val || !x.en) = true := by simp [hup, hen]
    exact congrArg Host.Outcome.next ((if_neg hgo).trans ((if_neg (show ¬ x.state = 5 by omega)).trans (if_pos h7)))
  · exact congrArg Host.Outcome.next (State.retireLane_of_no_spare h5 lane.isLt hused hspare)
  · exact congrArg Host.Outcome.next (if_pos h5)

end Sys2Proof.Machine
end

section
/-! O37: flits that are accepted or asked for again, and a link that leaves ACTIVE. -/

namespace Sys2Proof.Machine

/-- A value that is not the default, written back where it stands, leaves the map. -/
theorem mput_mget_self {α : Type} [DecidableEq α] {d : α} {m : SMap α} {i : Nat} (h : mget d m i ≠ d) : mput d m i (mget d m i) = m := by
  induction m with
  | nil => exact absurd rfl h
  | cons p m ih =>
    obtain ⟨k, w⟩ := p
    rcases Nat.lt_trichotomy i k with hlt | rfl | hgt
    · exact absurd (by simp [mget, hlt, Nat.ne_of_lt hlt]) h
    · have hw : w ≠ d := by simpa [mget] using h
      simp [mput, mget, hw]
    · have hlt : ¬ i < k := by omega
      have hget : mget d ((k, w) :: m) i = mget d m i := by simp [mget, hlt, Nat.ne_of_gt hgt]
      rw [hget] at h ⊢
      simp [mput, hlt, Nat.ne_of_gt hgt, ih h]

theorem State.setLink_link_self {s : State} {n : Nat} (h : s.link n ≠ Link.zero) : s.setLink n (s.link n) = s := by
  simp only [State.setLink, State.link] at h ⊢
  rw [mput_mget_self h]

@[simp] theorem State.sendFlits_link (s : State) (n m : Nat) (l : List (BitVec 12 × BitVec 2048)) : (s.sendFlits n l).link m = s.link m :=
  foldl_view (f := fun (acc : State) (f : BitVec 12 × BitVec 2048) => acc.send (.flit n f.2)) (State.link · m)
    (fun acc f => State.send_link_keeps acc (.flit n f.2) m) l s

@[simp] theorem State.sendFlits_lnk (s : State) (n : Nat) (l : List (BitVec 12 × BitVec 2048)) : (s.sendFlits n l).lnk = s.lnk :=
  foldl_view (f := fun (acc : State) (f : BitVec 12 × BitVec 2048) => acc.send (.flit n f.2)) State.lnk (fun acc f => State.send_lnk acc (.flit n f.2)) l s

/-- With nothing in its queue a link sends nothing. -/
theorem State.drainLink_of_empty {s : State} {n : Nat} (hq : (s.link n).txq = []) (hne : s.link n ≠ Link.zero) : s.drainLink n = s := by
  have heta : { s.link n with txq := [] } = s.link n := by rw [← hq]
  simp only [State.drainLink, hq, List.foldl_nil, heta]
  exact State.setLink_link_self hne

/-- With no packet that waits, none goes out. -/
theorem State.drainWait_of_empty {s : State} (h : s.lnk.wait = []) : s.drainWait = s := by
  have hpass : s.passWait = s := by
    unfold State.passWait
    rw [h, List.foldl_nil, ← h]
  rw [State.drainWait, hpass, hpass]

/-- What a good header leaves of a link with nothing to send (R436, R439). -/
theorem State.takeHeader_of_quiet {s : State} {n : Nat} {f : Flit} (hlink : (s.link n).state = 5) (hnak : f.nak = false) (hswap : f.swap = false)
    (hq : (s.link n).txq = []) (hw : s.lnk.wait = []) :
    s.takeHeader n f = s.setLink n (((s.link n).acked f.ack).credit f.cvc f.cred.toNat) := by
  have hne : ((s.link n).acked f.ack).credit f.cvc f.cred.toNat ≠ Link.zero := Link.ne_zero_of_state (by simp [Link.credit, Link.acked, hlink])
  have hread := State.link_setLink (s := s) (n := n) hne
  simp only [State.takeHeader, hnak, hswap, Bool.or_self, Bool.false_eq_true, if_false]
  rw [State.drainLink_of_empty (by rw [hread]; exact hq) (by rwa [hread]), State.drainWait_of_empty (by exact hw)]

/-- The link as a flit's arrival counts it. -/
def Link.counted (x : Link) (f : Flit) (fec : Nat) : Link :=
  { x with pertCount := if f.null then x.pertCount else x.pertCount + 1, fecCorr := satAdd x.fecCorr fec }

/-- What a good flit's place in the sequence does, once its header has been taken (R437, R438). -/
def State.takeData (s : State) (n : Nat) (f : Flit) : State :=
  if f.null || decide ((s.link n).state ≠ 5) then s
  else if f.seq = (s.link n).rxSeq then s.setLink n { s.link n with rxSeq := (s.link n).rxSeq + 1, nakSent := false }
  else s.nakOnce n true

section Receive
variable {s : State} {n : Fin 24} (bits : BitVec 2048) (fec : Nat) (h5 : (s.link n.val).state = 5) (hpert : (s.link n.val).pert = 0)
include h5 hpert

theorem exec_flitRx_of_bad (hcrc : (parseFlit bits).crcOk = false) :
    let y := (s.link n.val).counted (parseFlit bits) fec
    exec (.flitRx n ⟨bits, fec⟩) s = .next ((s.setLink n.val { y with crcErr := satInc y.crcErr }).nakOnce n.val true) := by
  change execFlitRx n ⟨bits, fec⟩ s = _
  simp [execFlitRx, h5, hpert, hcrc, Link.counted]

theorem exec_flitRx_of_good (hcrc : (parseFlit bits).crcOk = true) (hnull : (parseFlit bits).null = false) (hnak : (parseFlit bits).nak = false)
    (hswap : (parseFlit bits).swap = false) (hq : (s.link n.val).txq = []) (hw : s.lnk.wait = []) :
    let f := parseFlit bits
    let z := (((s.link n.val).counted f fec).acked f.ack).credit f.cvc f.cred.toNat
    exec (.flitRx n ⟨bits, fec⟩) s =
      .next (if f.seq = (s.link n.val).rxSeq then s.setLink n.val { z with rxSeq := (s.link n.val).rxSeq + 1, nakSent := false }
        else (s.setLink n.val z).nakOnce n.val true) := by
  intro f z
  have hy : (s.link n.val).counted f fec ≠ Link.zero := Link.ne_zero_of_state (by simp [Link.counted, h5])
  have hz : z ≠ Link.zero := Link.ne_zero_of_state (by simp [z, Link.credit, Link.acked, Link.counted, h5])
  have hread := State.link_setLink (s := s) (n := n.val) hy
  have hhead : (s.setLink n.val ((s.link n.val).counted f fec)).takeHeader n.val f = s.setLink n.val z := by
    rw [State.takeHeader_of_quiet (by rw [hread]; exact h5) (by exact hnak) (by exact hswap) (by rw [hread]; exact hq) (by exact hw), hread,
      State.setLink_setLink hy]
  have hbad (count : Nat) : ¬ (!f.crcOk || (!f.null && decide (fld (s.link n.val).pert.toNat 0 16 ≠ 0) &&
      decide (count % fld (s.link n.val).pert.toNat 0 16 = 0))) = true := by simp [f, hcrc, hpert, fld]
  have hdata : ¬ (f.null || decide (((s.setLink n.val z).link n.val).state ≠ 5)) = true := by
    rw [State.link_setLink hz]
    have hstate : z.state = 5 := h5
    simp [f, hnull, hstate]
  have hexec : exec (.flitRx n ⟨bits, fec⟩) s =
      .next (((s.setLink n.val ((s.link n.val).counted f fec)).takeHeader n.val f).takeData n.val f) :=
    congrArg Host.Outcome.next ((if_neg (not_not_intro h5)).trans (if_neg (hbad _)))
  rw [hexec, hhead, State.takeData, if_neg hdata, State.link_setLink hz, State.setLink_setLink hz]
  rfl

end Receive

/-- A null flit of an ACTIVE link returns the slots freed on the first virtual channel that has any (R436, R439). -/
theorem exec_nullFlitTx_of_freed {s : State} {n : Fin 24} {a b c : Nat} (h5 : (s.link n.val).state = 5)
    (hfreed : (s.link n.val).freed = [a, b, c]) (ha : 0 < a) (hmax : a ≤ 4095) (hq : (s.link n.val).txq = []) (hw : s.lnk.wait = []) :
    exec (.nullFlitTx n) s = .next ((s.setLink n.val { s.link n.val with nullGap := 0, freed := [0, b, c] }).sendFlits n.val
      [((s.link n.val).txSeq, Flit.encode { Flit.plain (s.link n.val).txSeq ((s.link n.val).rxSeq - 1) with
        null := true, cred := BitVec.ofNat 12 a })]) := by
  have hvc : ((List.range 3).find? fun v => decide (0 < (s.link n.val).freed.getD v 0)).getD 0 = 0 := by
    simp [hfreed, List.range_succ, ha]
  have hk : min 4095 ((s.link n.val).freed.getD 0 0) = a := by simpa [hfreed] using hmax
  have hrest : listSet (s.link n.val).freed 0 ((s.link n.val).freed.getD 0 0 - a) = [0, b, c] := by simp [hfreed, listSet]
  have hy : ({ s.link n.val with nullGap := 0, freed := [0, b, c] } : Link) ≠ Link.zero := Link.ne_zero_of_state (by simp [h5])
  change execNullFlitTx n s = _
  simp only [execNullFlitTx, if_pos h5, hvc, hk, hrest]
  rw [State.drainLink_of_empty, State.drainWait_of_empty]
  · rfl
  · rw [State.sendFlits_lnk]; exact hw
  · rw [State.sendFlits_link, State.link_setLink hy]; exact hq
  · rwa [State.sendFlits_link, State.link_setLink hy]

theorem State.endNegotiate_of_early {s : State} {n : Nat}
    (h : ∀ g, (s.link n).peerNeg = some g → g.seen = false ∨ (s.link n).negSent < 8) : s.endNegotiate n = s := by
  cases hg : (s.link n).peerNeg with
  | none => simp only [State.endNegotiate, hg]
  | some g => rw [State.endNegotiate_of_peer hg, if_pos (h g hg)]

/-- While it negotiates, a link offers what it has (R429). -/
theorem exec_nullFlitTx_of_negotiating {s : State} {n : Fin 24} (h4 : (s.link n.val).state = 4) (hp : (s.link n.val).phase = 4)
    (hearly : ∀ g, (s.link n.val).peerNeg = some g →
      g.seen = false ∨ (if (s.link n.val).negSeen then (s.link n.val).negSent + 1 else (s.link n.val).negSent) < 8) :
    exec (.nullFlitTx n) s = .next ((s.setLink n.val { s.link n.val with
      negSent := if (s.link n.val).negSeen then (s.link n.val).negSent + 1 else (s.link n.val).negSent }).sendFlits n.val
        [(0, Flit.encode { Flit.plain 0 0xFFF with null := true, neg := true, slots := negBytes (s.ownNeg n.val) })]) := by
  have hphase : (s.link n.val).inPhase 4 = true := by simp [Link.inPhase, h4, hp]
  have hy : ({ s.link n.val with
      negSent := if (s.link n.val).negSeen then (s.link n.val).negSent + 1 else (s.link n.val).negSent } : Link) ≠ Link.zero :=
    Link.ne_zero_of_state (by simp [h4])
  have hlate : ¬ (s.link n.val).state = 5 := by omega
  refine congrArg Host.Outcome.next ((if_neg hlate).trans ((if_pos hphase).trans ?_))
  refine State.endNegotiate_of_early fun g hg => ?_
  rw [State.sendFlits_link, State.link_setLink hy] at hg ⊢
  exact hearly g hg

/-- A link that leaves ACTIVE with nothing in its queue and no other link to its neighbour keeps what was not acknowledged (R442). -/
theorem State.linkDown_of_quiet {s : State} {n st phase fail : Nat} (h5 : (s.link n).state = 5) (hother : s.otherLink n (s.link n).peer = none)
    (hq : (s.link n).txq = []) (hw : s.lnk.wait = []) :
    s.linkDown n st phase fail = s.setLink n { (s.link n).down st phase fail s.time.toNat with
      leftSeq := some ((s.link n).rxSeq - 1), leftAt := s.time.toNat
      held := (s.link n).buffer.map fun e => Packet.again e.2.1 n e.1, heldAt := s.time.toNat } := by
  have hsame : { s with lnk := { s.lnk with wait := (s.link n).txq ++ s.lnk.wait } } = s := by rw [hq, List.nil_append]
  simp only [State.linkDown, h5, ne_eq, not_true_eq_false, if_false, hsame, hother]
  rw [State.drainWait_of_empty (by exact hw)]

/-- Settles O37. -/
theorem linksCarryFlitsAndLeaveActive : Obligations.LinksCarryFlitsAndLeaveActive := by
  intro s n x now
  refine ⟨fun bits fec h5 hpert => ⟨exec_flitRx_of_bad bits fec h5 hpert, fun hcrc hnull hnak hswap hq hw => ?receive⟩,
    fun a b c h5 hfreed ha hmax hq hw => ?credits, ?negotiate,
    fun h5 => ⟨?_, ?_, ?_, fun hother hq hw => ?failed⟩, fun hheld ht => ?lost, fun k hk ht => ?expired⟩
  case receive =>
    have hexec := exec_flitRx_of_good bits fec h5 hpert hcrc hnull hnak hswap hq hw
    exact ⟨fun h => hexec.trans (congrArg Host.Outcome.next (if_pos h)), fun h => hexec.trans (congrArg Host.Outcome.next (if_neg h))⟩
  case credits => exact exec_nullFlitTx_of_freed h5 hfreed ha hmax hq hw
  case negotiate => exact fun h4 hp hearly => exec_nullFlitTx_of_negotiating h4 hp hearly
  case failed => exact congrArg Host.Outcome.next ((if_neg (not_not_intro h5)).trans (State.linkDown_of_quiet h5 hother hq hw))
  case lost =>
    have hgo : ¬ (x.held.isEmpty || decide (now < x.heldAt + 10000000)) = true := by simp [hheld, ht]
    exact congrArg Host.Outcome.next (if_neg hgo)
  case expired =>
    have hgo : (x.leftSeq.isSome && decide (x.leftAt + 100000 ≤ now)) = true := by simp [hk, ht]
    exact congrArg Host.Outcome.next (if_pos hgo)
  all_goals exact congrArg Host.Outcome.next (if_neg (not_not_intro h5))

end Sys2Proof.Machine
end

section
/-! O38: packets that arrive on an ACTIVE link. -/

namespace Sys2Proof.Machine

section Arrive
variable {s : State} {n ty : Nat} {p : Packet} (own : State → State) (h5 : (s.link n).state = 5) (hty : p.type.toNat = ty)
include h5 hty

theorem State.rxPacket_of_accepted (hagain : (s.freeSlots n (Packet.vc p) (Packet.slots p)).accepted p = true) :
    s.rxPacket n ty p own = s.freeSlots n (Packet.vc p) (Packet.slots p) := by
  simp [State.rxPacket, h5, hty, hagain]

theorem State.rxPacket_of_foreign (hnew : (s.freeSlots n (Packet.vc p) (Packet.slots p)).accepted p = false) (hdst : p.dst ≠ s.lnk.node)
    (hhops : p.hops.toNat + 1 ≠ 7) : s.rxPacket n ty p own =
      (s.freeSlots n (Packet.vc p) (Packet.slots p)).sendPacket { p with hops := p.hops + 1, resent := false } := by
  have hnode : p.dst ≠ (s.freeSlots n (Packet.vc p) (Packet.slots p)).lnk.node := hdst
  simp only [State.rxPacket, h5, hty, hnew, hnode, ne_eq, not_true_eq_false, or_self, if_false, Bool.false_eq_true, State.forward, if_neg hhops]

theorem State.rxPacket_of_own (hnew : (s.freeSlots n (Packet.vc p) (Packet.slots p)).accepted p = false) (hdst : p.dst = s.lnk.node) :
    s.rxPacket n ty p own = own (s.freeSlots n (Packet.vc p) (Packet.slots p)) := by
  have hnode : p.dst = (s.freeSlots n (Packet.vc p) (Packet.slots p)).lnk.node := hdst
  simp only [State.rxPacket, h5, hty, hnew, ne_eq, not_true_eq_false, or_self, if_false, Bool.false_eq_true, if_pos hnode]

end Arrive

theorem type_toNat {p : Packet} {ty : Nat} (h : p.type = BitVec.ofNat 4 ty) (hty : ty < 16 := by decide) : p.type.toNat = ty := by
  rw [h, BitVec.toNat_ofNat]
  exact Nat.mod_eq_of_lt hty

/-- Settles O38: first what every packet goes through, then what each type does. -/
theorem packetsThatArriveArePerformed : Obligations.PacketsThatArriveArePerformed := by
  intro s n p s1 h5
  refine ⟨fun hagain => ?again, fun hnew hdst hhops => ?foreign, fun hnew hdst => ⟨fun h => ?write, fun h hallow hac => ?signal, fun h hallow => ?barred,
    fun h => ?ack, fun r h hlow hhigh hr => ?refuse⟩, fun h hnew hdst => ?coll⟩
  case again =>
    refine ⟨fun h => ?_, fun h => ?_, fun h => ?_, fun h => ?_⟩
    all_goals exact congrArg Host.Outcome.next (State.rxPacket_of_accepted _ h5 (type_toNat h) hagain)
  case foreign =>
    refine ⟨fun h => ?_, fun h => ?_, fun h => ?_, fun h => ?_⟩
    all_goals exact congrArg Host.Outcome.next (State.rxPacket_of_foreign _ h5 (type_toNat h) hnew hdst hhops)
  case write =>
    have hexec : exec (.writePktRx n p) s = .next (s1.takeWrite p) :=
      congrArg Host.Outcome.next (State.rxPacket_of_own _ h5 (type_toNat h) hnew hdst)
    refine ⟨fun r o hw hp => ?_, fun t o hw hp => ?_, fun a hw hp => ?_, fun hw => ?_⟩
    · rw [hexec, State.takeWrite, if_pos hw, show decodeAddr p.addr.toNat = _ from hp]
      rfl
    · rw [hexec, State.takeWrite, if_pos hw, show decodeAddr p.addr.toNat = _ from hp]
      rfl
    · rw [hexec, State.takeWrite, if_pos hw, show decodeAddr p.addr.toNat = _ from hp]
      rfl
    · rw [hexec, State.takeWrite, hw, if_neg Bool.false_ne_true]
  case signal =>
    refine congrArg Host.Outcome.next ((State.rxPacket_of_own _ h5 (type_toNat h) hnew hdst).trans ?_)
    simp only [State.takeSignal, s1] at hallow ⊢
    simp [hallow, hac]
  case barred =>
    refine congrArg Host.Outcome.next ((State.rxPacket_of_own _ h5 (type_toNat h) hnew hdst).trans (if_pos ?_))
    rw [show State.allowed _ _ = false from hallow]
    rfl
  case ack => exact congrArg Host.Outcome.next (State.rxPacket_of_own _ h5 (type_toNat h) hnew hdst)
  case refuse =>
    refine congrArg Host.Outcome.next ((State.rxPacket_of_own _ h5 (type_toNat h) hnew hdst).trans ?_)
    have hremote : oget s1.lnk.remote p.tag.toNat = some r := hr
    simp only [State.takeRefuse, s1] at hremote ⊢
    rw [hremote]
    simp only [hlow, hhigh, and_self, if_true]
  case coll =>
    have hgo : ¬ ((s.link n.val).state ≠ 5 ∨ p.type ≠ 5#4) := by simp [h5, h]
    refine congrArg Host.Outcome.next ((if_neg hgo).trans ((if_neg ?_).trans (if_pos hdst)))
    rw [hnew]
    exact Bool.false_ne_true

end Sys2Proof.Machine
end

section
/-! O39 fails: the obligation leaves out that a start waits for the controllers of its operands. -/

namespace Sys2Proof.Machine

/-- A command without an operation, whose SRC is the word at address 0. -/
def idleOpItem : BitVec 2048 := BitVec.ofNat 2048 (256 + 2 ^ 32)

/-- An idle bandstand with that command at the head of its queue; address 0 is in a window on stack 0, whose controller is FENCED. -/
def fencedStackState : State :=
  let w : WinRec := { valid := true, kind := 0, rmostly := false, base := 0, pbase := 0, npage := 1, stack := 0, scount := 1, isModel := false
                      keep := false, save := false }
  let s : State := { State.reset with job := { Job.zero with windows := [w] } }
  (s.setUnit (unitId 4 0) { s.unit (unitId 4 0) with allowed := 4 }).setBand 0 { Bandstand.zero with q := [(3, idleOpItem)] }

theorem fencedStackState_fails_check : fencedStackState.bndError 0 (bndCmd idleOpItem) = some 1 := by decide +kernel

theorem State.bndStart_of_closed {s : State} {d : Nat} {x : Nat × BitVec 2048} {rest : List (Nat × BitVec 2048)} (op : Nat)
    (hq : (s.band d).q = x :: rest)
    (hclosed : s.stacksOpen (granulesOf (bndCmd x.2).src (bndCmd x.2).srcBytes) = false) : s.bndStart d op = s := by
  unfold State.bndStart
  extract_lets b
  split
  next y more hy hn =>
    obtain ⟨rfl, rfl⟩ : y = x ∧ more = rest := by simpa using hy.symm.trans hq
    exact if_pos (by rw [hclosed]; simp)
  next => rfl

theorem fencedStackState_waits : exec (.allreduce 0) fencedStackState = .next fencedStackState :=
  congrArg Host.Outcome.next (State.bndStart_of_closed (x := (3, idleOpItem)) (rest := []) 1 (by decide +kernel) (by decide +kernel))

/-- Refutes O39: a command in error whose SRC is in a stack with a FENCED controller is not refused yet, it waits. -/
theorem not_collectivesStartAndComplete : ¬ Obligations.CollectivesStartAndComplete := by
  intro h
  obtain ⟨hfail, -⟩ := h fencedStackState 0 3 idleOpItem [] (by decide +kernel) (by decide +kernel) (by decide +kernel)
  have hsame := fencedStackState_waits.symm.trans (hfail 1 1 (by decide) (by decide) fencedStackState_fails_check)
  have herr : (fencedStackState.band 0).err = ((fencedStackState.bndFail 0 (bndCmd idleOpItem).tag 1).band 0).err :=
    congrArg (fun t => (t.band 0).err) (Host.Outcome.next.inj hsame)
  exact absurd herr (by decide +kernel)

end Sys2Proof.Machine
end

section
/-! O41: the aperture, translations, and host reads. -/

namespace Sys2Proof.Machine

/-! ### Accesses within one granule -/

theorem granulesOf_of_within {a n : Nat} (h1 : 1 ≤ n) (h : a % 64 + n ≤ 64) : granulesOf a n = [a / 64] := by
  have hone : (a + n - 1) / 64 - a / 64 + 1 = 1 := by omega
  rw [granulesOf, if_neg (by omega), hone, List.range_one, List.map_singleton, Nat.zero_add]

/-- An access that stays within one granule is one piece. -/
theorem granulePieces_of_within {a : Nat} {bs : List Byte} (h1 : 1 ≤ bs.length) (h : a % 64 + bs.length ≤ 64) : granulePieces a bs = [(a, bs)] := by
  have hlo : max a (a / 64 * 64) = a := by omega
  rw [granulePieces, granulesOf_of_within h1 h, List.map_singleton]
  simp only [hlo, Nat.sub_self, List.drop_zero]
  rw [List.take_of_length_le (by omega)]

section Aperture
variable {s : State} {f off : Nat} {bs : List Byte} (hfn : (s.fn f).enabled = true) (h1 : 1 ≤ bs.length) (h : off % 64 + bs.length ≤ 64)
include hfn h1 h

theorem exec_apertureWrite_of_readonly (hro : (s.fn f).sapRonly = true) :
    exec (.apertureWrite f off bs false) s = .next (s.hostError f 1 0 (detailAddr off) false) := by
  change execApertureWrite f off bs false s = _
  simp [execApertureWrite, State.sapPieces, granulePieces_of_within h1 h, hfn, hro]

theorem exec_apertureWrite_of_populated (hro : (s.fn f).sapRonly = false) {a : Phys} (ha : s.sapByte f off = some a) :
    exec (.apertureWrite f off bs false) s = .next (s.sendAccess a (.write bs 0xFF false) (.host f)) := by
  change execApertureWrite f off bs false s = _
  simp [execApertureWrite, State.sapPieces, granulePieces_of_within h1 h, hfn, hro, ha]

theorem exec_apertureWrite_of_unpopulated (hro : (s.fn f).sapRonly = false) (ha : s.sapByte f off = none) :
    exec (.apertureWrite f off bs false) s = .next (s.hostError f 1 0 (detailAddr off) false) := by
  change execApertureWrite f off bs false s = _
  simp [execApertureWrite, State.sapPieces, granulePieces_of_within h1 h, hfn, hro, ha]

end Aperture

theorem exec_apertureRead_of_populated {s : State} {f off n : Nat} (hfn : (s.fn f).enabled = true) (h1 : 1 ≤ n) (h : off % 64 + n ≤ 64) {a : Phys}
    (ha : s.sapByte f off = some a) : exec (.apertureRead f off n) s = .next (s.sendAccess a (.read n) (.host f)) := by
  have hpiece := granulePieces_of_within (a := off) (bs := List.replicate n 0#8) (by simpa using h1) (by simpa using h)
  change execApertureRead f off n s = _
  simp [execApertureRead, State.sapPieces, hpiece, hfn, ha]

theorem exec_apertureRead_of_unpopulated {s : State} {f off n : Nat} (hfn : (s.fn f).enabled = true) (h1 : 1 ≤ n) (h : off % 64 + n ≤ 64)
    (ha : s.sapByte f off = none) :
    exec (.apertureRead f off n) s = .next ((s.send (.aperture f (List.replicate n 0) [])).hostError f 1 0 (detailAddr off) false) := by
  have hpiece := granulePieces_of_within (a := off) (bs := List.replicate n 0#8) (by simpa using h1) (by simpa using h)
  change execApertureRead f off n s = _
  simp [execApertureRead, State.sapPieces, hpiece, hfn, ha]

/-! ### Translations -/

/-- An invalidation that no request waits for is answered at once (R474). -/
theorem exec_atsInvalidate_of_idle {s : State} (f : Nat) (addr : BitVec 64) (size : Nat) (hreqs : s.hostReqs = []) (hinv : s.atsInval = []) :
    exec (.atsInvalidate f addr size) s = .next (({ s with atsCache := s.atsCache.filter fun e =>
      !(decide (e.1 = f) && decide (e.2.1 < addr.toNat + size) && decide (addr.toNat < e.2.1 + e.2.2.1)) }).send (.atsDone f addr)) := by
  change execAtsInvalidate f addr size s = _
  simp [execAtsInvalidate, State.answerInval, hreqs, hinv]

theorem State.drainAts_of_empty {s : State} (h : s.atsWaits = []) : s.drainAts = s := by
  rw [State.drainAts, h, List.foldl_nil, ← h]

/-- A load that is refused its host read is told so and nothing else changes, the waiting accesses among the rest. -/
theorem State.refuseRead_load_atsWaits (s : State) (f a code tl id i p : Nat) :
    (s.refuseRead f a code (.load tl id i p)).atsWaits = s.atsWaits := by
  unfold State.refuseRead
  split <;> rfl

section Translation
variable {s : State} {f : Nat} {addr : BitVec 64} {w : AtsWait} {r : HostReq} {tl id a b : Nat} (hwaits : s.atsWaits = [w]) (hf : w.fn = f)
  (hpage : w.addr / 4096 = addr.toNat / 4096) (hwr : w.write = false) (hreq : w.req = some r) (hsrc : r.src = .load tl id a b)
  (hcache : s.atsCache = [])
include hwaits hf hpage hwr hreq hsrc hcache

/-- A grant for the page that a load waits for sends its read on (R474). -/
theorem exec_atsTranslationCompletion_of_granted (g : BitVec 64) :
    exec (.atsTranslationCompletion f addr (some g) false) s = .next { s with
      atsCache := [(f, addr.toNat / 4096 * 4096, 4096, false)], atsWaits := [], hostReqs := s.hostReqs ++ [r] } := by
  obtain ⟨rid, rfn, raddr, rlen, rsrc, rtr⟩ := r
  obtain rfl : rsrc = .load tl id a b := hsrc
  have hin : addr.toNat / 4096 * 4096 ≤ w.addr ∧ w.addr < addr.toNat / 4096 * 4096 + 4096 := by omega
  change execAtsTranslationCompletion f addr (some g) false s = _
  simp [execAtsTranslationCompletion, hwaits, hf, hpage, hwr, hreq, hcache, State.drainAts, State.translated, hin]

/-- A refusal for it reaches the load, unless the load is gone (R475). -/
theorem exec_atsTranslationCompletion_of_denied :
    exec (.atsTranslationCompletion f addr none false) s =
      .next (({ s with atsWaits := [] } : State).refuseRead f w.addr 4 r.src) := by
  have hu : ({ s with atsCache := [], atsWaits := [] } : State) = { s with atsWaits := [] } := by rw [← hcache]
  have hwait (t : State) : t.refuseWait w = t.refuseRead f w.addr 4 r.src := by simp only [State.refuseWait, hreq, hsrc, hf]
  have hdrain := State.drainAts_of_empty (s := ({ s with atsWaits := [] } : State).refuseRead f w.addr 4 r.src)
    (by rw [hsrc, State.refuseRead_load_atsWaits])
  refine Eq.trans ?_ (congrArg Host.Outcome.next ((congrArg (fun u => (u.refuseRead f w.addr 4 r.src).drainAts) hu).trans hdrain))
  change execAtsTranslationCompletion f addr none false s = _
  simp [execAtsTranslationCompletion, hwaits, hf, hpage, hwr, hcache, hwait]

end Translation

/-! ### Completions -/

section Completion
variable {s : State} {r : HostReq} (hreqs : s.hostReqs = [r])
include hreqs

theorem State.takeReq_of_only : s.takeReq r.id = some (r, { s with hostReqs := [] }) := by
  simp [State.takeReq, hreqs]

theorem exec_hostReadTimeout_of_only :
    exec (.hostReadTimeout r.id) s = .next (({ s with hostReqs := [] } : State).refuseRead r.fn r.addr 3 r.src).answerInval := by
  change execHostReadTimeout r.id s = _
  simp only [execHostReadTimeout, State.takeReq_of_only hreqs]

theorem exec_hostReadCompletion_of_only {bs : List Byte} (hlen : bs.length = r.len) :
    exec (.hostReadCompletion r.id .success bs false) s = .next (({ s with hostReqs := [] } : State).deliverHost r bs false).answerInval := by
  change execHostReadCompletion r.id .success bs false s = _
  simp [execHostReadCompletion, State.takeReq_of_only hreqs, hlen]

theorem exec_hostReadCompletion_of_unsupported : exec (.hostReadCompletion r.id .unsupported [] false) s =
    .next (({ s with hostReqs := [] } : State).refuseRead r.fn r.addr 1 r.src).answerInval := by
  change execHostReadCompletion r.id .unsupported [] false s = _
  simp only [execHostReadCompletion, State.takeReq_of_only hreqs]

theorem exec_hostReadCompletion_of_abort : exec (.hostReadCompletion r.id .abort [] false) s =
    .next (({ s with hostReqs := [] } : State).refuseRead r.fn r.addr 2 r.src).answerInval := by
  change execHostReadCompletion r.id .abort [] false s = _
  simp only [execHostReadCompletion, State.takeReq_of_only hreqs]

end Completion

/-- Settles O41. -/
theorem apertureTranslationsAndHostReads : Obligations.ApertureTranslationsAndHostReads := by
  intro s f
  refine ⟨fun off n a hfn h1 hin => ⟨exec_apertureRead_of_populated hfn h1 hin, exec_apertureRead_of_unpopulated hfn h1 hin, ?write⟩,
    exec_atsInvalidate_of_idle f,
    fun addr g w r tl id a b hwaits hf hpage hwr hreq hsrc hcache =>
      ⟨exec_atsTranslationCompletion_of_granted hwaits hf hpage hwr hreq hsrc hcache g,
        exec_atsTranslationCompletion_of_denied hwaits hf hpage hwr hreq hsrc hcache⟩,
    fun r bs hreqs hinv hlen => ⟨exec_hostReadCompletion_of_only hreqs hlen, exec_hostReadCompletion_of_unsupported hreqs,
      exec_hostReadCompletion_of_abort hreqs, exec_hostReadTimeout_of_only hreqs⟩⟩
  case write =>
    rintro bs rfl
    exact ⟨fun hro ha => exec_apertureWrite_of_populated hfn h1 hin hro ha, exec_apertureWrite_of_readonly hfn h1 hin,
      exec_apertureWrite_of_unpopulated hfn h1 hin⟩

end Sys2Proof.Machine
end

section
/-! What telling the host leaves: vectors, error registers, host writes, and the records of the trace buffer. -/

namespace Sys2Proof.Machine

/-- The state without what the host is told through: its functions, the accesses that wait for a translation, the outputs, the event word and the
place in the trace buffer. -/
def State.inner (s : State) : State :=
  { s with frees := 0, fns := [], atsWaits := [], out := [], lodge := { s.lodge with hostevt := 0, traceW := 0, traceLost := 0 } }

section Inner
variable (s : State)

@[simp] theorem State.setFn_inner (f : Nat) (x : Fn) : (s.setFn f x).inner = s.inner := rfl

@[simp] theorem State.send_inner (o : Output) : (s.send o).inner = s.inner := rfl

@[simp] theorem State.msix_inner (f v : Nat) : (s.msix f v).inner = s.inner := by
  unfold State.msix
  split_ifs <;> rfl

@[simp] theorem State.hostEvent_inner (bit : Nat) : (s.hostEvent bit).inner = s.inner := by
  unfold State.hostEvent
  split
  · rfl
  · rw [State.msix_inner]
    rfl

@[simp] theorem State.hostError_inner (f bit code detail : Nat) (job : Bool) : (s.hostError f bit code detail job).inner = s.inner := by
  unfold State.hostError
  extract_lets x was last s1
  split
  · rfl
  · exact State.msix_inner s1 f _

@[simp] theorem State.hostWrite_inner (f a : Nat) (bs : List Byte) (ep : Bool) : (s.hostWrite f a bs ep none).inner = s.inner := by
  unfold State.hostWrite
  extract_lets tile done held pcs req
  split
  · exact State.hostError_inner s f 3 5 (detailAddr a) false
  · split <;> rfl

@[simp] theorem State.unitCycle_inner (u : Nat) : (s.unitCycle u).2.inner = s.inner := by
  unfold State.unitCycle
  split <;> rfl

@[simp] theorem State.trace_inner (u kind data : Nat) : (s.trace u kind data).inner = s.inner := by
  unfold State.trace
  extract_lets
  split
  · rfl
  · split
    · rfl
    · exact (State.hostWrite_inner _ 0 _ _ false).trans (State.unitCycle_inner s u)

/-- A unit's entry as a change of its allowed state leaves it. -/
def UstEntry.allow (x : UstEntry) (st now : Nat) : UstEntry := { x with allowed := st, oldAllowed := x.allowed, changedAt := now }

/-- A change of the allowed state, apart from what the host is told (R24); RETIRED is also noted in the store that a reset leaves. -/
theorem State.allow_inner (u st : Nat) : (s.allow u st).inner =
    (if st = 5 then { s.setUnit u ((s.unit u).allow st s.time.toNat) with lodge := { s.lodge with nvRetired := setIns u s.lodge.nvRetired } }
      else s.setUnit u ((s.unit u).allow st s.time.toNat)).inner := State.hostEvent_inner _ 0

theorem State.allow_inner_of_ne {st : Nat} (h : st ≠ 5) (u : Nat) : (s.allow u st).inner = (s.setUnit u ((s.unit u).allow st s.time.toNat)).inner := by
  rw [State.allow_inner, if_neg h]

theorem State.allow_unit {u : Nat} (st : Nat) (h : (s.unit u).allowed ≠ 0) : ((s.allow u st).unit u) = (s.unit u).allow st s.time.toNat := by
  have hne : (s.unit u).allow st s.time.toNat ≠ ustDefault u := fun hz => h (congrArg UstEntry.oldAllowed hz)
  refine (congrArg (State.unit · u) (State.allow_inner s u st)).trans (Eq.trans ?_ (State.unit_setUnit_of_ne (s := s) hne))
  split <;> rfl

end Inner

end Sys2Proof.Machine
end

section
/-! O43: heartbeats, claims, and the return of a steward. -/

namespace Sys2Proof.Machine

@[simp] theorem State.setIntSrc_stwEn (s : State) (n : Nat) (x : IntSrc) : (s.setIntSrc n x).lodge.stwEn = s.lodge.stwEn := rfl

/-- A steward that is fenced is enabled no more (R498). -/
theorem State.holdSteward_stwEn (s : State) (k : Nat) : (s.holdSteward k).lodge.stwEn = setBit s.lodge.stwEn k false := by
  unfold State.holdSteward
  extract_lets
  refine (foldl_view (·.lodge.stwEn) (fun acc e => ?_) _ _).trans (congrArg (setBit · k false) ?_)
  · split
    · rfl
    · split <;> rfl
  · exact congrArg (·.lodge.stwEn) (State.hostEvent_inner _ 1)

theorem State.fenceInside_steward (s : State) {v : Nat} (hv : v < 4) : s.fenceInside (unitId 8 v) = s.holdSteward v := by
  have hclass : unitId 8 v / 4096 = 8 := by unfold unitId; omega
  have hidx : unitId 8 v % 4096 = v := by unfold unitId; omega
  simp only [State.fenceInside, hclass, hidx]

theorem State.fence_steward_stwEn (s : State) {v : Nat} (hv : v < 4) (mismatch : Bool) :
    (s.fence (unitId 8 v) mismatch).lodge.stwEn = setBit s.lodge.stwEn v false := by
  have hallow : (s.allow (unitId 8 v) 4).lodge.stwEn = s.lodge.stwEn := congrArg (·.lodge.stwEn) (s.allow_inner_of_ne (by decide) _)
  have hin := fun t : State => t.fenceInside_steward hv
  unfold State.fence
  extract_lets s1 x
  refine (congrArg (·.lodge.stwEn) (State.trace_inner _ _ 6 0)).trans ?_
  rw [hin]
  exact (State.holdSteward_stwEn _ v).trans (congrArg (setBit · v false) hallow)

/-- What a claim that is granted leaves (R498). -/
theorem State.grantClaim_of_enabled {s : State} {k v : Fin 4} (hk : s.stwOn k.val = true) (hv : s.stwOn v.val = true) :
    let t := s.grantClaim k.val v.val
    t.lodge.rr = true ∧ t.lodge.claimVictim.toNat = v.val ∧ t.lodge.claimant.toNat = k.val ∧ t.lodge.activatedAt = none ∧
      t.lodge.stwEn.getLsbD v.val = false := by
  have hgo : ¬ (!s.stwOn k.val || !s.stwOn v.val) = true := by simp [hk, hv]
  have hfence := s.fence_steward_stwEn v.isLt false
  have hsmall (i : Fin 4) : (BitVec.ofNat 2 i.val).toNat = i.val := Nat.mod_eq_of_lt i.isLt
  have ht : ∃ s1 : State, s1.lodge.stwEn = setBit s.lodge.stwEn v.val false ∧ (s.grantClaim k.val v.val).inner =
      { s1 with lodge := { s1.lodge with rr := true, claimVictim := BitVec.ofNat 2 v.val, claimant := BitVec.ofNat 2 k.val, activatedAt := none } }.inner :=
    ⟨s.fence (unitId 8 v.val) false, hfence, by rw [State.grantClaim, if_neg hgo, State.hostEvent_inner]⟩
  obtain ⟨s1, hen, hinner⟩ := ht
  refine ⟨congrArg (·.lodge.rr) hinner, (congrArg (·.lodge.claimVictim.toNat) hinner).trans (hsmall v),
    (congrArg (·.lodge.claimant.toNat) hinner).trans (hsmall k), congrArg (·.lodge.activatedAt) hinner, ?_⟩
  refine (congrArg (·.lodge.stwEn.getLsbD v.val) hinner).trans ?_
  exact (congrArg (·.getLsbD v.val) hen).trans (getLsbD_setBit_self _ v.isLt false)

theorem State.takeOver_of_normal {s : State} (h : s.lodge.rr = false) (k : Nat) (lost : BitVec 16) : s.takeOver k lost = s :=
  if_neg (by simp [h])

theorem State.takeOver_of_claim {s : State} {k : Nat} (hrr : s.lodge.rr = true) (hclaim : s.lodge.claimant.toNat = k)
    (hoff : s.stwOn s.lodge.claimVictim.toNat = false) (lost : BitVec 16) : (s.takeOver k lost).lodge.rr = false := by
  have hgo : (s.lodge.rr && decide (s.lodge.claimant.toNat = k) && !s.stwOn s.lodge.claimVictim.toNat) = true := by simp [hrr, hclaim, hoff]
  unfold State.takeOver
  rw [if_pos hgo]

/-- The duties are given out and nothing but their owners changes. -/
theorem State.giveDuties_view {β : Type} (v : State → β) (hv : ∀ (s : State) (w : BitVec 16), v { s with lodge := { s.lodge with duty := w } } = v s)
    (s : State) : v s.giveDuties = v s := by
  refine foldl_view v (fun acc k => ?_) _ _
  split
  · rfl
  · exact foldl_view v (fun a d => hv a _) _ _

/-- A steward whose self-test passed, ONLINE and enabled, before it is given its duties (R500). -/
def State.stewardBack (s : State) (k : Nat) : State :=
  let s1 := (s.setSteward k { s.steward k with inReset := false, running := 16, lastTime := s.time.truncate 32 }).allow (unitId 8 k) 2
  { s1 with lodge := { s1.lodge with stwEn := setBit s1.lodge.stwEn k true } }

section Tested
variable {s : State} {k : Fin 4} (hreset : (s.steward k.val).inReset = true) (hfenced : (s.unit (unitId 8 k.val)).allowed = 4)
include hreset hfenced

theorem State.stewardTested_goes_on : ¬ (!(s.steward k.val).inReset || decide ((s.unit (unitId 8 k.val)).allowed ≠ 4)) = true := by
  simp [hreset, hfenced]

theorem State.stewardTested_of_passed (hfirst : (s.steward k.val).twice = false) :
    (s.stewardTested k.val true).lodge.stwEn.getLsbD k.val = true ∧ ((s.stewardTested k.val true).unit (unitId 8 k.val)).allowed = 2 := by
  have hpass : (true && !(s.steward k.val).twice) = true := by rw [hfirst]; rfl
  have hback : s.stewardTested k.val true =
      if (s.stewardBack k.val).servingRuns then s.stewardBack k.val else (s.stewardBack k.val).giveDuties :=
    (if_neg (State.stewardTested_goes_on hreset hfenced)).trans (if_pos hpass)
  have hen : (s.stewardBack k.val).lodge.stwEn.getLsbD k.val = true := getLsbD_setBit_self _ k.isLt true
  have hunit : ((s.stewardBack k.val).unit (unitId 8 k.val)).allowed = 2 :=
    congrArg UstEntry.allowed (State.allow_unit (s.setSteward k.val _) 2 (by rw [State.setSteward_unit_keeps, hfenced]; decide))
  rw [hback]
  split
  · exact ⟨hen, hunit⟩
  · exact ⟨(State.giveDuties_view (·.lodge.stwEn.getLsbD k.val) (fun _ _ => rfl) _).trans hen,
      (State.giveDuties_view (fun t => (t.unit (unitId 8 k.val)).allowed) (fun _ _ => rfl) _).trans hunit⟩

theorem State.stewardTested_of_failed :
    ((s.stewardTested k.val false).unit (unitId 8 k.val)).allowed = 5 ∧ (s.stewardTested k.val false).lodge.activatedAt = none := by
  have hunit : (s.allow (unitId 8 k.val) 5).unit (unitId 8 k.val) = _ := State.allow_unit s 5 (by omega)
  have hout : s.stewardTested k.val false =
      { s.allow (unitId 8 k.val) 5 with lodge := { (s.allow (unitId 8 k.val) 5).lodge with activatedAt := none } } :=
    (if_neg (State.stewardTested_goes_on hreset hfenced)).trans (if_neg Bool.false_ne_true)
  rw [hout]
  exact ⟨congrArg UstEntry.allowed hunit, rfl⟩

end Tested

/-- Settles O43. -/
theorem stewardsBeatFailOverAndReturn : Obligations.StewardsBeatFailOverAndReturn := by
  intro s k v x granted
  refine ⟨fun count lost hk hrr => ?beat, fun count lost hk hrr hclaim hoff => ⟨_, congrArg Host.Outcome.next (ite_not_of_true hk), ?takeover⟩,
    fun hk hv => ⟨⟨_, rfl, State.grantClaim_of_enabled hk hv⟩,
      fun ht => ⟨_, congrArg Host.Outcome.next (if_pos ht), State.grantClaim_of_enabled hk hv⟩⟩,
    fun hreset hfenced => ⟨fun hfirst => ⟨_, rfl, State.stewardTested_of_passed hreset hfenced hfirst⟩,
      ⟨_, rfl, State.stewardTested_of_failed hreset hfenced⟩⟩⟩
  case beat => exact congrArg Host.Outcome.next ((ite_not_of_true hk).trans (State.takeOver_of_normal (s := s.setSteward k.val _) hrr k.val lost))
  case takeover => exact State.takeOver_of_claim (s := s.setSteward k.val _) hrr hclaim hoff lost

end Sys2Proof.Machine
end

section
/-! O45: the management endpoints. -/

namespace Sys2Proof.Machine

/-! ### A message that is heard -/

@[simp] theorem State.heard_lodge_live (s : State) (t : Transport) :
    (s.heard t).lodge.liveResult = s.lodge.liveResult ∧ (s.heard t).lodge.liveRun = s.lodge.liveRun := by
  simp only [State.heard, State.dutyBoundary, State.fireInt, State.setIntSrc, State.noteStep_lodge, and_self]

section Answers
variable {s : State} (hans : s.answers = true)
include hans

theorem exec_profileOffer_of_answers (m : Nat) (inst : Byte) (offer : BitVec 16) :
    let s1 := (s.heard (managerPath m)).setManager m { s.manager m with version := bestVersion offer }
    exec (.profileOffer m inst offer) s = .next (State.send
      (if bestVersion offer = 0 then s1 else { s1 with lodge := { s1.lodge with ifActive2 := bestVersion offer } })
      (.mgmt m [0x81, inst, 0, bestVersion offer])) :=
  congrArg Host.Outcome.next (ite_not_of_true hans)

theorem State.profile_of_no_version {m : Nat} (h : (s.manager m).version = 0) (cmd : Nat) (inst : Byte) (f : State → State) :
    s.profile m cmd inst f = (s.heard (managerPath m)).respond m cmd inst 3 [] := (ite_not_of_true hans).trans (if_pos h)

theorem State.profile_of_version {m : Nat} (h : (s.manager m).version ≠ 0) (cmd : Nat) (inst : Byte) (f : State → State) :
    s.profile m cmd inst f = f (s.heard (managerPath m)) := (ite_not_of_true hans).trans (if_neg h)

theorem exec_liveStatus_of_version {m : Nat} (h : (s.manager m).version ≠ 0) (inst : Byte) :
    exec (.liveStatus m inst) s = .next ((s.heard (managerPath m)).send
      (.mgmt m [0x84, inst, 0, s.lodge.liveResult, if s.lodge.liveRun.isSome then 1 else 0])) := by
  obtain ⟨hresult, hrun⟩ := s.heard_lodge_live (managerPath m)
  refine congrArg Host.Outcome.next ((State.profile_of_version hans h 4 inst _).trans ?_)
  rw [hresult, hrun]
  rfl

theorem exec_getSensorReading_of_known {b : Transport} (hb : b ≠ .doe) {id : BitVec 16} (h : 1 ≤ id.toNat ∧ id.toNat ≤ 15) :
    exec (.getSensorReading b id) s =
      .next ((s.heard b).send (.pldm b ([2, 0x11, 0] ++ toBytes 4 (ucode 32 (mget 0 s.lodge.sensors id.toNat))))) :=
  congrArg Host.Outcome.next ((ite_not_of_true hans).trans ((if_pos h).trans (if_neg hb)))

theorem exec_getSensorReading_of_unknown {b : Transport} (hb : b ≠ .doe) {id : BitVec 16} (h : ¬ (1 ≤ id.toNat ∧ id.toNat ≤ 15)) :
    exec (.getSensorReading b id) s = .next ((s.heard b).send (.pldm b [2, 0x11, 0x80])) :=
  congrArg Host.Outcome.next ((ite_not_of_true hans).trans ((if_neg h).trans (if_neg hb)))

theorem exec_pldmUnsupportedCmd_of_answers {b : Transport} (hb : b ≠ .doe) (type cmd : Byte) :
    exec (.pldmUnsupportedCmd b type cmd) s = .next ((s.heard b).send (.pldm b [type, cmd, 5])) := by
  have hgo : (s.answers || s.recovers b) = true := by rw [hans, Bool.true_or]
  exact congrArg Host.Outcome.next ((if_pos hgo).trans (if_neg hb))

end Answers

/-- Settles O45. -/
theorem managementEndpointsAnswer : Obligations.ManagementEndpointsAnswer := by
  intro s hans
  have hnone {t : Transport} : ¬ (!s.answers && !s.recovers t) = true := by simp [hans]
  refine ⟨fun eid => ⟨?_, ?_⟩, fun m inst => ⟨fun offer ho => ?offered, fun offer ho => ?declined, fun h0 => ⟨fun off data => ?_, ?_⟩,
    fun h1 => ⟨fun off data hlo hhi hend => ?written, fun off data hend => ?beyond, exec_liveStatus_of_version hans h1 inst⟩⟩,
    fun b hb => ⟨exec_pldmUnsupportedCmd_of_answers hans hb, fun id h1 h15 => exec_getSensorReading_of_known hans hb ⟨h1, h15⟩,
      fun id hid => exec_getSensorReading_of_unknown hans hb (by omega)⟩, fun value => congrArg Host.Outcome.next (if_pos hans)⟩
  case offered =>
    have hv : bestVersion offer = 1 := by rw [bestVersion_eq, ho, if_pos rfl]
    rw [exec_profileOffer_of_answers hans, hv]
    rfl
  case declined =>
    have hv : bestVersion offer = 0 := by rw [bestVersion_eq, ho, if_neg Bool.false_ne_true]
    rw [exec_profileOffer_of_answers hans, hv]
    rfl
  case written =>
    have hfits : ¬ (data.length = 0 ∨ 1024 < data.length ∨ 65536 < off.toNat + data.length) := by omega
    exact congrArg Host.Outcome.next ((State.profile_of_version hans h1 2 inst _).trans (if_neg hfits))
  case beyond =>
    exact congrArg Host.Outcome.next ((State.profile_of_version hans h1 2 inst _).trans (if_pos (.inr (.inr hend))))
  · exact congrArg Host.Outcome.next (if_neg hnone)
  · exact congrArg Host.Outcome.next (if_neg hnone)
  · exact congrArg Host.Outcome.next (State.profile_of_no_version hans h0 2 inst _)
  · exact congrArg Host.Outcome.next (State.profile_of_no_version hans h0 4 inst _)

end Sys2Proof.Machine
end

section
/-! O46: live-service commands of the host. -/

namespace Sys2Proof.Machine

/-- A source that fires changes its own entry and what serving notes of its step (R502). -/
theorem State.fireInt_view {β : Type} (v : State → β) (hs : ∀ (s : State) (x : Serving), v { s with serving := x } = v s)
    (hi : ∀ (s : State) (n : Nat) (x : IntSrc), v (s.setIntSrc n x) = v s) (s : State) (n : Nat) : v (s.fireInt n) = v s := by
  refine (hi _ _ _).trans ?_
  unfold State.noteStep
  split
  · exact hs s _
  · rfl

@[simp] theorem State.fireInt_job (s : State) (n : Nat) : (s.fireInt n).job = s.job := State.fireInt_view State.job (fun _ _ => rfl) (fun _ _ _ => rfl) s n
@[simp] theorem State.fireInt_power (s : State) (n : Nat) : (s.fireInt n).power = s.power :=
  State.fireInt_view State.power (fun _ _ => rfl) (fun _ _ _ => rfl) s n
@[simp] theorem State.fireInt_stk (s : State) (n : Nat) : (s.fireInt n).stk = s.stk := State.fireInt_view State.stk (fun _ _ => rfl) (fun _ _ _ => rfl) s n
@[simp] theorem State.fireInt_testEn (s : State) (n : Nat) : (s.fireInt n).lodge.testEn = s.lodge.testEn :=
  State.fireInt_view (·.lodge.testEn) (fun _ _ => rfl) (fun _ _ _ => rfl) s n

/-- The module once the host's command has begun (R512). -/
def State.liveBegun (s : State) (op : Nat) (u : BitVec 16) (payload : List Byte) : State := (s.fireInt 0x33).liveBegin op u payload

@[simp] theorem State.liveBegun_power (s : State) (op : Nat) (u : BitVec 16) (p : List Byte) : (s.liveBegun op u p).power = s.power :=
  s.fireInt_power 0x33
@[simp] theorem State.liveBegun_job (s : State) (op : Nat) (u : BitVec 16) (p : List Byte) : (s.liveBegun op u p).job = s.job := s.fireInt_job 0x33
@[simp] theorem State.liveBegun_stk (s : State) (op : Nat) (u : BitVec 16) (p : List Byte) : (s.liveBegun op u p).stk = s.stk := s.fireInt_stk 0x33
@[simp] theorem State.liveBegun_ust (s : State) (op : Nat) (u : BitVec 16) (p : List Byte) : (s.liveBegun op u p).ust = s.ust := s.fireInt_ust 0x33
@[simp] theorem State.liveBegun_testEn (s : State) (op : Nat) (u : BitVec 16) (p : List Byte) :
    (s.liveBegun op u p).lodge.testEn = s.lodge.testEn := s.fireInt_testEn 0x33
theorem State.liveBegun_unit (s : State) (op : Nat) (u : BitVec 16) (p : List Byte) (i : Nat) : (s.liveBegun op u p).unit i = s.unit i :=
  congrArg (fun m => mget (ustDefault i) m i) (s.liveBegun_ust op u p)
theorem State.liveBegun_jobLive (s : State) (op : Nat) (u : BitVec 16) (p : List Byte) : (s.liveBegun op u p).jobLive = s.jobLive := by
  rw [State.jobLive, State.liveBegun_job]; rfl
theorem State.servingRuns_of_job {s t : State} (h : t.job = s.job) : t.servingRuns = s.servingRuns := by
  rw [State.servingRuns, h]; rfl

section Live
variable {s : State} {op : Nat} {u : BitVec 16} {payload : List Byte} (go : State → List Byte → State)

theorem State.live_host_of_busy (h : s.lodge.liveRun.isSome = true) (ok : Bool) :
    s.live .host op u payload ok go = { s with lodge := { s.lodge with liveResult := 1 } } := if_pos h

theorem State.live_host_of_free (h : s.lodge.liveRun = none) : s.live .host op u payload true go = go (s.liveBegun op u payload) payload :=
  if_neg (by simp [h])

theorem State.live_host_of_unread (h : s.lodge.liveRun = none) :
    s.live .host op u payload false go = ((s.liveBegun op u payload).readRefused 0).liveEnd 3 := if_neg (by simp [h])

end Live

/-- The shadow of a band that a TIMING payload leaves in a controller, with its swap due (R226, R512). -/
def Stack.timed (c : Stack) (payload : List Byte) : Stack :=
  let b := byteField payload 0 1
  { c with
    shadows := (List.range 64).foldl (fun m e => if tableReserved e then m else mput (tableReset b e) m (b * 64 + e) (timingEntry payload e % 2 ^ 16)) c.shadows
    swap := setBit c.swap b true }

/-- A pass over the first `n` stacks that gives each its own new value. -/
theorem State.foldl_setStack_stack {s : State} (h : mwf Stack.zero s.stk = true) (f : Stack → Stack) (n : Nat) :
    let t := (List.range n).foldl (fun acc i => acc.setStack i (f (acc.stack i))) s
    mwf Stack.zero t.stk = true ∧ ∀ i, t.stack i = if i < n then f (s.stack i) else s.stack i := by
  induction n with
  | zero => exact ⟨h, fun i => rfl⟩
  | succ n ih =>
    rw [List.range_succ, List.foldl_append]
    obtain ⟨hwf, hstack⟩ := ih
    refine ⟨mput_wf hwf _ _, fun i => ?_⟩
    rw [List.foldl_cons, List.foldl_nil]
    by_cases hi : i = n
    · rw [hi, State.stack_setStack_same hwf, hstack, if_neg (Nat.lt_irrefl n), if_pos n.lt_succ_self]
    · rw [State.stack_setStack_other hwf hi, hstack]
      exact if_congr (by omega) rfl rfl

section Commands
variable {s : State} (hfree : s.lodge.liveRun = none) (payload : List Byte)
include hfree

theorem exec_liveTiming_of_ok (hok : timingOk payload = true) : exec (.liveTiming .host payload true) s =
    .next ((List.range 8).foldl (fun acc n => acc.setStack n ((acc.stack n).timed payload)) (s.liveBegun 2 0 payload)) :=
  congrArg Host.Outcome.next ((State.live_host_of_free _ hfree).trans (ite_not_of_true hok))

theorem exec_livePerturb_of_ok {t : State} (hen : s.lodge.testEn = true) (h16 : payload.length % 16 = 0) (hlo : 16 ≤ payload.length)
    (hhi : payload.length ≤ 4096) (hall : (pertRecords payload).foldl (fun (acc : Option State) r => acc.bind fun t => t.pertWrite r.1 r.2)
      (some (s.liveBegun 5 0 payload)) = some t) : exec (.livePerturb .host payload true) s = .next (t.liveEnd 0) := by
  refine congrArg Host.Outcome.next ((State.live_host_of_free _ hfree).trans ?_)
  simp only [hall, State.liveBegun_testEn, hen, h16, hlo, hhi, decide_true, Bool.and_self]

theorem exec_livePerturb_of_disabled (hen : s.lodge.testEn = false) :
    exec (.livePerturb .host payload true) s = .next ((s.liveBegun 5 0 payload).liveEnd 2) := by
  refine congrArg Host.Outcome.next ((State.live_host_of_free _ hfree).trans ?_)
  simp only [State.liveBegun_testEn, hen, Bool.false_and]

end Commands

section Retire
variable {s : State} (hfree : s.lodge.liveRun = none) (u : BitVec 16)
include hfree

theorem exec_liveRetire_of_no_unit (hu : isUnit u.toNat = false) : exec (.liveRetire .host u) s = .next ((s.liveBegun 4 u []).liveEnd 6) :=
  congrArg Host.Outcome.next ((State.live_host_of_free _ hfree).trans (if_pos (by simp [hu])))

theorem exec_liveRetire_of_retired (hu : isUnit u.toNat = true) (h5 : (s.unit u.toNat).allowed = 5) (hclass : u.toNat / 4096 = 0 ∨ u.toNat / 4096 = 1) :
    exec (.liveRetire .host u) s = .next ((s.liveBegun 4 u []).liveEnd 0) := by
  refine congrArg Host.Outcome.next ((State.live_host_of_free _ hfree).trans ((if_neg ?_).trans (if_pos ?_)))
  · obtain h | h := hclass <;> simp [hu, h]
  · rw [State.liveBegun_unit, h5]

theorem exec_liveRetire_of_link (hu : isUnit u.toNat = true) (h5 : (s.unit u.toNat).allowed ≠ 5) (hclass : u.toNat / 4096 = 5) :
    exec (.liveRetire .host u) s = .next ((((s.liveBegun 4 u []).disableLink (u.toNat % 4096)).allow u.toNat 5).liveEnd 0) := by
  refine congrArg Host.Outcome.next ((State.live_host_of_free _ hfree).trans ((if_neg ?_).trans ((if_neg ?_).trans ?_)))
  · simp [hu, hclass]
  · rwa [State.liveBegun_unit]
  · simp only [hclass]

theorem exec_liveRetire_of_engine (hu : isUnit u.toNat = true) (h5 : (s.unit u.toNat).allowed ≠ 5) (hclass : u.toNat / 4096 = 1)
    (hserv : s.servingRuns = false) :
    exec (.liveRetire .host u) s = .next (((s.liveBegun 4 u []).allow u.toNat 3).retireEngine u.toNat) := by
  have hjob : ((s.liveBegun 4 u []).allow u.toNat 3).job = s.job := by rw [State.allow_job, State.liveBegun_job]
  have hgo : ((s.liveBegun 4 u []).allow u.toNat 3).servingRuns = false := (State.servingRuns_of_job hjob).trans hserv
  refine congrArg Host.Outcome.next ((State.live_host_of_free _ hfree).trans ((if_neg ?_).trans ((if_neg ?_).trans ?_)))
  · simp [hu, hclass]
  · rwa [State.liveBegun_unit]
  · simp only [hclass, hgo, Bool.false_eq_true, if_false]

end Retire

/-- Settles O46. -/
theorem liveServiceCommandsRun : Obligations.LiveServiceCommandsRun := by
  intro s payload
  refine ⟨fun hbusy => ?busy, fun hfree => ?free⟩
  case busy =>
    have hkept {op u p ok go} := congrArg (Host.Outcome.next (φ := Fault) (ρ := Refusal))
      (State.live_host_of_busy (s := s) (op := op) (u := u) (payload := p) go hbusy ok)
    exact ⟨hkept, hkept, hkept, hkept, fun u => hkept⟩
  case free =>
    intro begun
    refine ⟨congrArg Host.Outcome.next (State.live_host_of_unread _ hfree), fun hok hlive => ?_, fun hok hlive => ?_, fun hbad => ?_, fun hbad => ?_,
      fun hok => ?timing, fun hok => ?_, fun hbad => ?_, exec_livePerturb_of_disabled hfree payload,
      fun t hen h16 hlo hhi hall => exec_livePerturb_of_ok hfree payload hen h16 hlo hhi hall,
      fun u => ⟨exec_liveRetire_of_no_unit hfree u, exec_liveRetire_of_link hfree u, exec_liveRetire_of_engine hfree u,
        exec_liveRetire_of_retired hfree u⟩⟩
    case timing =>
      refine ⟨_, exec_liveTiming_of_ok hfree payload hok, ?_, fun hwf n hn => ?_⟩
      · rw [foldl_view (·.lodge.liveRun.isSome) (fun acc n => congrArg (·.liveRun.isSome) (State.setStack_lodge acc n _))]
        rfl
      · have hstk : mwf Stack.zero (s.liveBegun 2 0 payload).stk = true := by rwa [State.liveBegun_stk]
        have hstack : (s.liveBegun 2 0 payload).stack n = s.stack n := congrArg (fun m => mget Stack.zero m n) (s.liveBegun_stk 2 0 payload)
        rw [(State.foldl_setStack_stack hstk (·.timed payload) 8).2 n, if_pos hn, hstack]
        rfl
    all_goals refine congrArg Host.Outcome.next ((State.live_host_of_free _ hfree).trans ?_)
    · rw [if_neg (by simp [hok]), State.liveBegun_jobLive, if_pos hlive]
      rfl
    · rw [if_neg (by simp [hok]), State.liveBegun_jobLive, hlive, if_neg Bool.false_ne_true]
      rfl
    · exact if_pos (by simp [hbad])
    · exact if_pos (by simp [hbad])
    · refine (ite_not_of_true hok).trans ?_
      rw [State.liveBegun_power]
      rfl
    · exact if_pos (by simp [hbad])

end Sys2Proof.Machine
end

section
/-! O47: firmware updates and attestation. -/

namespace Sys2Proof.Machine

theorem State.heard_view {β : Type} (v : State → β) (hs : ∀ (s : State) (x : Serving), v { s with serving := x } = v s)
    (hi : ∀ (s : State) (n : Nat) (x : IntSrc), v (s.setIntSrc n x) = v s)
    (hd : ∀ (s : State) (m : SMap (Nat × Nat)), v { s with lodge := { s.lodge with dutyMem := m } } = v s) (s : State) (t : Transport) :
    v (s.heard t) = v s := (hd _ _).trans (State.fireInt_view v hs hi s _)

@[simp] theorem State.heard_signing (s : State) (t : Transport) : (s.heard t).lodge.signing = s.lodge.signing :=
  State.heard_view (·.lodge.signing) (fun _ _ => rfl) (fun _ _ _ => rfl) (fun _ _ => rfl) s t
@[simp] theorem State.heard_signed (s : State) (t : Transport) : (s.heard t).lodge.signed = s.lodge.signed :=
  State.heard_view (·.lodge.signed) (fun _ _ => rfl) (fun _ _ _ => rfl) (fun _ _ => rfl) s t

/-! ### Updates -/

section Update
variable {s : State} {m : Nat} {i : FwImage} (hans : s.answers = true) (h8 : s.lodge.phase ≠ 8)
include hans h8

theorem exec_pldmFwUpdate_of_no_version (h0 : (s.manager m).version = 0) :
    exec (.pldmFwUpdate ⟨m, i⟩ true) s = .next ((s.heard (managerPath m)).pldmAnswer (managerPath m) 5 0x10 1 []) :=
  congrArg Host.Outcome.next ((if_neg h8).trans ((ite_not_of_true hans).trans (if_pos h0)))

theorem exec_pldmFwUpdate_of_refused (h1 : (s.manager m).version ≠ 0) (hbad : s.fwOk i.component.toNat i = false) :
    exec (.pldmFwUpdate ⟨m, i⟩ true) s = .next (((s.heard (managerPath m)).verifyComplete (managerPath m) 1).hostEvent 5) :=
  congrArg Host.Outcome.next ((if_neg h8).trans ((ite_not_of_true hans).trans ((if_neg h1).trans (if_pos (by simp [hbad])))))

theorem exec_pldmFwUpdate_of_verified (h1 : (s.manager m).version ≠ 0) (hlo : 1 ≤ i.component.toNat) (hhi : i.component.toNat ≤ 3)
    (hok : s.fwOk i.component.toNat i = true) :
    let slot := 1 - s.slotInUse i.component.toNat
    let stored := ((s.heard (managerPath m)).storeImage i.component.toNat slot i).verifyComplete (managerPath m) 0
    exec (.pldmFwUpdate ⟨m, i⟩ true) s =
      .next (if i.component.toNat = 1 then stored else (stored.preferSlot i.component.toNat slot).hostEvent 5) := by
  have hgood : ¬ (i.component.toNat < 1 ∨ 3 < i.component.toNat ∨ (!s.fwOk i.component.toNat i) = true ∨ (!true) = true) := by
    simp only [hok, Bool.not_true, Bool.false_eq_true, or_false]
    omega
  exact congrArg Host.Outcome.next ((if_neg h8).trans ((ite_not_of_true hans).trans ((if_neg h1).trans (if_neg hgood))))

end Update

/-! ### Activation -/

/-- The enabled stewards, in the order in which they are taken (R515). -/
def State.enabledStewards (s : State) : List Nat := [3, 2, 1, 0].filter fun k => s.stwOn k

theorem State.enabledStewards_ne_nil {s : State} (h : s.lodge.stwEn ≠ 0) : s.enabledStewards ≠ [] := by
  intro hnil
  have hoff : ∀ k ∈ [3, 2, 1, 0], s.stwOn k = false := fun k hk => by simpa using List.filter_eq_nil_iff.mp hnil k hk
  refine h (BitVec.eq_of_getLsbD_eq fun i hi => ?_)
  refine (hoff i ?_).trans BitVec.getLsbD_zero.symm
  simp only [List.mem_cons, List.not_mem_nil, or_false]
  omega

theorem State.rebootSteward_view {β : Type} (v : State → β) (hi : ∀ (s : State) (n : Nat) (x : IntSrc), v (s.setIntSrc n x) = v s)
    (hk : ∀ (s : State) (n : Nat) (x : Steward), v (s.setSteward n x) = v s) (s : State) (k : Nat) : v (s.rebootSteward k) = v s := by
  refine (hk _ _ _).trans (foldl_view v (fun acc e => ?_) _ _)
  split
  · exact hi _ _ _
  · split
    · exact hi _ _ _
    · rfl

section Activate
variable {s : State} {m : Nat} {i : FwImage} (hans : s.answers = true) (h1 : (s.manager m).version ≠ 0)
  (hnew : s.fwImage 1 (1 - s.slotInUse 1) = some i) (hon : s.lodge.stwEn ≠ 0)
include hans h1 hnew hon

omit hon in
theorem activateFirmware_goes_on : ¬ ((!s.answers) = true ∨ (s.manager m).version = 0 ∨ (s.fwImage 1 (1 - s.slotInUse 1)).isNone = true) := by
  rintro (h | h | h)
  · simp [hans] at h
  · exact h1 h
  · simp [hnew] at h

theorem exec_activateFirmware_of_joined (hver : s.dutyVerOf (1 - s.slotInUse 1) = s.dutyVerOf (s.slotInUse 1)) :
    ∃ t, exec (.activateFirmware ⟨m, [true, true, true, true]⟩) s = .next t ∧ t.lodge.slotFw = (1 - s.slotInUse 1 == 1) ∧
        t.lodge.activatedAt = some s.time.toNat := by
  have hjoins : s.enabledStewards.takeWhile (fun k => [true, true, true, true].getD k false &&
      decide (s.dutyVerOf (1 - s.slotInUse 1) = s.dutyVerOf (s.slotInUse 1))) = s.enabledStewards := by
    refine List.takeWhile_eq_self_iff.mpr fun k hk => ?_
    have hk4 : k ∈ [3, 2, 1, 0] := (List.mem_filter.mp hk).1
    simp only [hver, decide_true, Bool.and_true]
    fin_cases hk4 <;> rfl
  have hall : (s.enabledStewards.takeWhile (fun k => [true, true, true, true].getD k false &&
      decide (s.dutyVerOf (1 - s.slotInUse 1) = s.dutyVerOf (s.slotInUse 1)))).length = s.enabledStewards.length ∧
      ¬ s.enabledStewards.isEmpty = true := by
    rw [hjoins]
    exact ⟨rfl, by simpa using State.enabledStewards_ne_nil hon⟩
  refine ⟨_, congrArg Host.Outcome.next ((if_neg (activateFirmware_goes_on hans h1 hnew)).trans (if_pos hall)), ?_, ?_⟩
  · exact congrArg (·.lodge.slotFw) (State.hostEvent_inner _ 5)
  · exact congrArg (·.lodge.activatedAt) (State.hostEvent_inner _ 5)

theorem exec_activateFirmware_of_failed :
    ∃ t, exec (.activateFirmware ⟨m, []⟩) s = .next t ∧ t.lodge.slotFw = s.lodge.slotFw := by
  have hnone : s.enabledStewards.takeWhile (fun k => ([] : List Bool).getD k false &&
      decide (s.dutyVerOf (1 - s.slotInUse 1) = s.dutyVerOf (s.slotInUse 1))) = [] := by
    cases s.enabledStewards <;> simp
  have hfail : ¬ ((s.enabledStewards.takeWhile (fun k => ([] : List Bool).getD k false &&
      decide (s.dutyVerOf (1 - s.slotInUse 1) = s.dutyVerOf (s.slotInUse 1)))).length = s.enabledStewards.length ∧
      ¬ s.enabledStewards.isEmpty = true) := by
    rw [hnone]
    exact fun h => State.enabledStewards_ne_nil hon (List.length_eq_zero_iff.mp h.1.symm)
  refine ⟨_, congrArg Host.Outcome.next ((if_neg (activateFirmware_goes_on hans h1 hnew)).trans (if_neg hfail)), ?_⟩
  refine (congrArg (·.lodge.slotFw) (State.hostEvent_inner _ 5)).trans ?_
  exact foldl_view (·.lodge.slotFw) (fun acc k => State.rebootSteward_view (·.lodge.slotFw) (fun _ _ _ => rfl) (fun _ _ _ => rfl) acc k) _ _

end Activate

/-! ### Attestation -/

theorem State.beginSignature_of_busy {s : State} (h : s.lodge.signing.isSome = true) (tr : Transport) (request : Byte) (bs : List Byte) :
    s.beginSignature tr request bs = s.send (.spdm tr [0x14, 0x7F, 3, 0]) := if_pos h

theorem State.beginSignature_of_free {s : State} (h : s.lodge.signing = none) (tr : Transport) (request : Byte) (bs : List Byte) :
    (s.beginSignature tr request bs).lodge.signing = some (tr, bs) ∧
    (s.beginSignature tr request bs).out = .spdm tr [0x14, 0x7F, 0x42, 0, 22, request, 0, 1] :: s.out := by
  have hfree : ¬ s.lodge.signing.isSome = true := by simp [h]
  rw [State.beginSignature, if_neg hfree]
  exact ⟨rfl, rfl⟩

theorem exec_getMeasurements_of_block {s : State} {tr : Transport} (hon : s.spdmOn tr = true) {i : Byte} (h1 : 1 ≤ i.toNat) (h7 : i.toNat ≤ 7) :
    exec (.getMeasurements tr i false) s = .next ((s.heard tr).send (.spdm tr
        ([0x14, 0x60, i] ++ BitVec.ofNat 8 i.toNat :: (toBytes 2 (s.measurement i.toNat).length ++ s.measurement i.toNat)))) := by
  have h0 : ¬ i.toNat = 0 := by omega
  have h255 : ¬ i.toNat = 255 := by omega
  have hin : ¬ (7 < i.toNat ∧ i.toNat ≠ 255) := by omega
  change execGetMeasurements tr i false s = _
  simp only [execGetMeasurements, hon, h0, h255, hin, Bool.not_true, Bool.false_eq_true, if_false]
  rfl

theorem exec_respondIfReady_of_signed {s : State} {tr : Transport} (hon : s.spdmOn tr = true) {bs : List Byte} (hsigned : s.lodge.signed = [(tr, bs)]) :
    exec (.respondIfReady tr) s =
      .next (({ s.heard tr with lodge := { (s.heard tr).lodge with signed := [] } }).send (.spdm tr bs)) := by
  change execRespondIfReady tr s = _
  simp [execRespondIfReady, hon, hsigned]

/-- Settles O47. -/
theorem firmwareIsUpdatedAndAttested : Obligations.FirmwareIsUpdatedAndAttested := by
  intro s
  refine ⟨?update,
    fun m i hans h1 hnew hon hver => ⟨exec_activateFirmware_of_joined hans h1 hnew hon hver, exec_activateFirmware_of_failed hans h1 hnew hon⟩,
    fun c i hi => ⟨fun hwf hlo hhi hcommit hproved => ?commit, fun hnot => ?kept⟩, fun tr hon => ?spdm, fun tr bs dt hsigning hdt => ?done⟩
  case update =>
    intro m i path h comp stored hans h8
    refine ⟨exec_pldmFwUpdate_of_no_version hans h8, fun h1 => ⟨fun hlo hhi hbad => exec_pldmFwUpdate_of_refused hans h8 h1 hbad,
      fun hc hok => ?_, fun hc hok => ?_⟩⟩
    · exact (exec_pldmFwUpdate_of_verified hans h8 h1 (by omega) (by omega) (by rw [show i.component.toNat = 1 from hc]; exact hok)).trans
        (congrArg Host.Outcome.next (if_pos hc))
    · exact (exec_pldmFwUpdate_of_verified hans h8 h1 (by omega) (by omega) hok).trans (congrArg Host.Outcome.next (if_neg (by omega)))
  case commit =>
    have hyes : 1 ≤ c.toNat ∧ c.toNat ≤ 3 ∧ i.commit = true ∧ s.proved c.toNat = true := ⟨hlo, hhi, hcommit, hproved⟩
    have hexec : exec (.fwCommit c) s = .next { s with lodge := { s.lodge with
        fuses := mput 0 s.lodge.fuses c.toNat (max (s.fuse c.toNat) i.svn.toNat), revoked := s.lodge.revoked ||| i.revoke } } := by
      change execFwCommit c s = _
      simp only [execFwCommit, hi, if_pos hyes]
    exact ⟨_, hexec, mget_mput_self hwf c.toNat _, rfl⟩
  case kept =>
    have hno : ¬ (1 ≤ c.toNat ∧ c.toNat ≤ 3 ∧ i.commit = true ∧ s.proved c.toNat = true) := by
      rintro ⟨-, -, hcommit, hproved⟩
      simp [hcommit, hproved] at hnot
    change execFwCommit c s = _
    simp only [execFwCommit, hi, if_neg hno]
  case spdm =>
    intro h
    refine ⟨fun hfree => ?_, fun hbusy => ?_, ?_, fun i h1 h7 => exec_getMeasurements_of_block hon h1 h7,
      fun bs hsigned => exec_respondIfReady_of_signed hon hsigned, congrArg Host.Outcome.next (if_pos hon), fun off len => ?_⟩
    · obtain ⟨hsigning, hout⟩ := State.beginSignature_of_free (s := h) (by rw [State.heard_signing, hfree]) tr 0x83
        ([0x14, 0x03, 0, 1] ++ Config.sha3 Config.certChain)
      exact ⟨_, congrArg Host.Outcome.next (ite_not_of_true hon), hsigning, hout⟩
    · refine congrArg Host.Outcome.next ((ite_not_of_true hon).trans (State.beginSignature_of_busy ?_ tr 0x83 _))
      rwa [State.heard_signing]
    · exact congrArg Host.Outcome.next (ite_not_of_true hon)
    · exact congrArg Host.Outcome.next (ite_not_of_true hon)
  case done =>
    change execSpdmSignatureDone dt s = _
    simp only [execSpdmSignatureDone, hsigning, if_neg (Nat.not_lt.mpr hdt)]

end Sys2Proof.Machine
end

section
/-! O48: the power guard, the flow of the coolant, and the shutdowns. -/

namespace Sys2Proof.Machine

/-- A map that is filled in for the first `n` keys. -/
theorem mget_foldl_mput {α : Type} [DecidableEq α] (d : α) (f : Nat → α) (n : Nat) :
    let m := (List.range n).foldl (fun m k => mput d m k (f k)) []
    mwf d m = true ∧ ∀ i, i < n → mget d m i = f i := by
  induction n with
  | zero => exact ⟨rfl, fun i hi => absurd hi (Nat.not_lt_zero i)⟩
  | succ n ih =>
    obtain ⟨hwf, hget⟩ := ih
    rw [List.range_succ, List.foldl_append]
    refine ⟨mput_wf hwf _ _, fun i hi => ?_⟩
    by_cases hin : i = n
    · rw [hin]
      exact mget_mput_self hwf n _
    · exact (mget_mput_other hwf hin _).trans (hget i (by omega))

/-! ### The throttle command -/

/-- A throttle command writes the demands, the levels and the target, and the requests of the stacks (R542). -/
theorem State.throttle_view {β : Type} (v : State → β) (hp : ∀ (s : State) (p : Power), v { s with power := p } = v s)
    (hk : ∀ (s : State) (n : Nat) (x : Stack), v (s.setStack n x) = v s) (s : State) : v s.throttle = v s := by
  refine (hp _ _).trans ((foldl_view v (fun acc k => ?_) _ _).trans (hp _ _))
  exact hk _ _ _

/-- The power state of a throttle command (R535, R542). -/
theorem State.throttle_power (s : State) : s.throttle.power =
    { s.power with
      ctherm := s.power.thermal3
      slevel := (List.range 8).foldl (fun m k => mput 0 m k (s.power.stackLevel k)) []
      target := max s.power.thermal3 (max s.power.ccap s.power.cguard) } := by
  unfold State.throttle
  extract_lets p s1 s2
  have h2 : s2.power = s1.power := foldl_view State.power (fun acc k => State.setStack_power acc k _) _ _
  have ht : s2.retarget.power = { s2.power with target := max s2.power.ctherm (max s2.power.ccap s2.power.cguard) } := rfl
  rw [ht, h2]

theorem State.throttle_slevel (s : State) {k : Nat} (hk : k < 8) : mget 0 s.throttle.power.slevel k = s.power.stackLevel k := by
  rw [State.throttle_power]
  exact (mget_foldl_mput 0 s.power.stackLevel 8).2 k hk

theorem Power.one_le_thermal3 {p : Power} (h : p.flowLost = true) : 1 ≤ p.thermal3 := by
  unfold Power.thermal3
  split
  · omega
  · rw [h, Bool.true_or, if_pos rfl]
    exact Nat.le_max_right _ _

theorem Power.one_le_stackLevel {p : Power} (h : p.flowLost = true) (k : Nat) : 1 ≤ p.stackLevel k := by
  unfold Power.stackLevel
  split
  · omega
  · exact Nat.le_max_right _ _

/-! ### Shutdowns -/

/-- What a shutdown that begins leaves (R544, R559). -/
def State.Begun (s t : State) (c : ShutdownCause) : Prop :=
  t.power.shutdown = true ∧ t.power.thermTrip = true ∧ t.power.sdCause = BitVec.ofNat 8 (causeCode c) ∧
    t.lodge.nvSdCause = BitVec.ofNat 8 (causeCode c) ∧ t.power.ctherm = 3 ∧
    (1 ≤ s.job.state → s.job.state ≤ 4 → s.job.tearing = none → t.job.tearing = some 7)

theorem State.beginShutdown_begun {s : State} (hon : s.power.railsOn = true) (hrun : s.power.shutdown = false) (c : ShutdownCause) :
    s.Begun (s.beginShutdown c) c := by
  have hgo : ¬ (s.power.shutdown || !s.power.railsOn) = true := by simp [hon, hrun]
  unfold State.beginShutdown
  rw [if_neg hgo]
  extract_lets code src p
  have hcalm : ∀ t : State, (t.requestTeardown 7 none).power = t.power ∧ (t.requestTeardown 7 none).lodge = t.lodge := fun t => by
    unfold State.requestTeardown
    split <;> exact ⟨rfl, rfl⟩
  have hpower := State.throttle_power { s with power := p, lodge := { s.lodge with nvSdCause := code } }
  have hlodge := State.throttle_view State.lodge (fun _ _ => rfl) (fun _ _ _ => rfl) { s with power := p, lodge := { s.lodge with nvSdCause := code } }
  have hjob := State.throttle_view State.job (fun _ _ => rfl) (fun _ _ _ => rfl) { s with power := p, lodge := { s.lodge with nvSdCause := code } }
  have hthermal : p.thermal3 = 3 := if_pos rfl
  generalize ({ s with power := p, lodge := { s.lodge with nvSdCause := code } } : State).throttle = t at hpower hlodge hjob
  obtain ⟨htp, htl⟩ := hcalm t
  refine ⟨?_, ?_, ?_, ?_, ?_, fun hlo hhi hfirst => ?_⟩
  · rw [htp, hpower]
  · rw [htp, hpower]
  · rw [htp, hpower]
  · rw [htl, hlodge]
  · rw [htp, hpower]
    exact hthermal
  · have hlive : t.jobLive = true := by rw [State.jobLive, hjob]; simp [hlo, hhi]
    rw [State.requestTeardown_of_live hlive (by rw [hjob]; exact hfirst)]
    rfl

theorem State.Begun.of_job {s s' t : State} {c : ShutdownCause} (h : s.Begun t c) (hjob : s.job = s'.job) : s'.Begun t c := by
  unfold State.Begun at h ⊢
  rwa [hjob] at h

/-- The cause that a rail fault is recorded as (R526, R532). -/
def railCause : RailFaultKind → ShutdownCause
  | .inputLow | .inputHigh => .inputVoltage
  | .guardExhausted => .guardExhausted
  | .regulator _ | .channel _ => .railFault

theorem State.faultRail_eq (s : State) (kind : RailFaultKind) : s.faultRail kind = (s.fireInt 0x13).beginShutdown (railCause kind) := by
  cases kind <;> rfl

theorem State.faultRail_begun {s : State} (hon : s.power.railsOn = true) (hrun : s.power.shutdown = false) (kind : RailFaultKind) :
    s.Begun (s.faultRail kind) (railCause kind) := by
  rw [State.faultRail_eq]
  exact (State.beginShutdown_begun (by rwa [State.fireInt_power]) (by rwa [State.fireInt_power]) (railCause kind)).of_job (s.fireInt_job 0x13)

/-! ### The rails go off -/

/-- What the rails leave when they go off (R544, R545). -/
def State.Off (t : State) : Prop :=
  t.power.railsOn = false ∧ t.power.pwrgd = false ∧ t.tiles = [] ∧ t.regions = [] ∧ t.stk = [] ∧ t.links = [] ∧ t.fns = []

theorem State.railsOff_off (s : State) : s.railsOff.Off := ⟨rfl, rfl, rfl, rfl, rfl, rfl, rfl⟩

theorem State.railsOff_job {s : State} (hlive : s.jobLive = true) : s.railsOff.job.state = 5 ∧ s.railsOff.job.cause = 7 := by
  have hjob : s.railsOff.job = ({ s with job := { s.job with tearing := none } }.endJob 7).job := by
    unfold State.railsOff
    rw [if_pos hlive]
  rw [hjob, State.endJob_job]
  exact ⟨rfl, rfl⟩

/-! ### The guard -/

section Guard
variable {s : State} {mw : Nat} (hon : s.power.railsOn = true)
  (hsound : s.power.chFail.contains 0 = false ∧ s.power.chFail.contains 1 = false)
include hon hsound

/-- A sample above the guard's limit raises its demand (R532). -/
theorem exec_guardSample_of_peak (hmw : 2300000 < mw) (h3 : s.power.cguard < 3) : ∃ t, exec (.guardSample mw) s = .next t ∧
    t.power.cguard = s.power.cguard + 1 ∧ t.power.guardHold = 1000 ∧ t.power.guardCnt = satInc s.power.guardCnt ∧
    t.power.target = max s.power.ctherm (max s.power.ccap (s.power.cguard + 1)) := by
  obtain ⟨h0, h1⟩ := hsound
  change ∃ t, execGuardSample mw s = .next t ∧ _
  simp only [execGuardSample, h0, h1, hon, hmw, h3, Bool.or_self, Bool.false_eq_true, if_false, Bool.not_true, decide_true, Bool.or_true,
    Bool.and_self, if_true]
  exact ⟨_, rfl, rfl, rfl, rfl, rfl⟩

theorem exec_guardSample_of_calm (hmw : mw ≤ 2300000) (hnone : s.power.cguard = 0)
    (havg : ((mw :: s.power.guardSamples).take 1000).foldl (· + ·) 0 / ((mw :: s.power.guardSamples).take 1000).length ≤ 2000000) :
    exec (.guardSample mw) s = .next { s with power := { s.power with
      guardSamples := (mw :: s.power.guardSamples).take 1000, guardOver := 0
      guardLow := if ((mw :: s.power.guardSamples).take 1000).foldl (· + ·) 0 / ((mw :: s.power.guardSamples).take 1000).length < 1900000
        then s.power.guardLow + 1 else 0
      guardHold := s.power.guardHold - 1 } } := by
  obtain ⟨h0, h1⟩ := hsound
  change execGuardSample mw s = _
  simp only [execGuardSample, h0, h1, hon, hnone, Nat.not_lt.mpr hmw, Nat.not_lt.mpr havg, Bool.or_self, Bool.false_eq_true, if_false, Bool.not_true,
    decide_false, Bool.false_and, and_false, Nat.lt_irrefl, Bool.and_false]
  rfl

end Guard

/-- Settles O48. -/
theorem powerGuardFlowAndShutdowns : Obligations.PowerGuardFlowAndShutdowns := by
  intro s p sound begun off
  refine ⟨fun mw hon hsound hmw h3 => exec_guardSample_of_peak hon hsound hmw h3,
    fun mw hon hsound hmw h0 => exec_guardSample_of_calm hon hsound hmw h0, rfl, fun hon hrun => ?faults, fun feedB hother => ?feed,
    fun hsd hon hready => ⟨s.railsOff, ?rails, s.railsOff_off, State.railsOff_job⟩, fun hon => ⟨_, congrArg Host.Outcome.next (if_pos hon), ?trip⟩,
    fun hflow => ⟨_, congrArg Host.Outcome.next (if_neg (by simp [show s.power.flowLost = false from hflow])), ?flow⟩,
    fun hflow => congrArg Host.Outcome.next (if_pos hflow)⟩
  case faults =>
    have hfault (kind : RailFaultKind) : ∃ t, exec (.railFault kind) s = .next t ∧ begun t (railCause kind) :=
      ⟨_, congrArg Host.Outcome.next (if_pos hon), State.faultRail_begun hon hrun kind⟩
    refine ⟨fun c => ⟨_, rfl, State.beginShutdown_begun hon hrun c⟩, hfault .inputLow, hfault .inputHigh, hfault .guardExhausted,
      fun n => hfault (.regulator n), fun hflow => ⟨_, congrArg Host.Outcome.next (if_pos hflow), State.beginShutdown_begun hon hrun .coolantFlow⟩,
      fun feedB good hlost => ?_⟩
    have hnot : (good && !p.feedLost.getLsbD (if feedB then 0 else 1)) = false := by
      obtain h | h := hlost <;> simp [h]
    have hgo : (p.railsOn && !(good && !p.feedLost.getLsbD (if feedB then 0 else 1))) = true := by rw [hnot, hon]; rfl
    exact ⟨_, congrArg Host.Outcome.next (if_pos hgo), (State.faultRail_begun (s := { s with power := { p with
      feedLost := setBit p.feedLost (if feedB then 1 else 0) true } }) hon hrun .inputLow).of_job rfl⟩
  case feed =>
    have hgo : ¬ (p.railsOn && !(true && !p.feedLost.getLsbD (if feedB then 0 else 1))) = true := by rw [hother]; simp
    exact congrArg Host.Outcome.next (if_neg hgo)
  case rails =>
    have hgo : (s.power.shutdown && s.power.railsOn && (!s.jobLive || decide (s.power.shutAt + 500000 ≤ s.time.toNat))) = true := by
      rw [show s.power.shutdown = true from hsd, show s.power.railsOn = true from hon]
      obtain h | h := hready
      · simp [h]
      · simp [show s.power.shutAt + 500000 ≤ s.time.toNat from h]
    exact congrArg Host.Outcome.next (if_pos hgo)
  case trip => exact ⟨s.railsOff_off, rfl, rfl, rfl⟩
  case flow =>
    refine ⟨?_, ?_, fun k hk => ?_⟩
    · rw [State.throttle_power]
    · rw [State.throttle_power]
      exact Power.one_le_thermal3 rfl
    · rw [State.throttle_slevel _ hk]
      exact Power.one_le_stackLevel rfl k

end Sys2Proof.Machine
end

section
/-! O49: housekeeping rounds and thermal calibration. -/

namespace Sys2Proof.Machine

/-! ### Rounds -/

theorem State.foldl_checkUnit_of_match {s : State} {l : List Nat} (h : ∀ u ∈ l, s.isMismatch u = false) :
    l.foldl (fun acc u => acc.checkUnit u) s = s := by
  induction l with
  | nil => rfl
  | cons u l ih =>
    have hu : s.checkUnit u = s := if_neg (by simp [h u])
    rw [List.foldl_cons, hu]
    exact ih fun v hv => h v (List.mem_cons_of_mem u hv)

/-- The power state once a round has taken its samples (R535). -/
def State.sampled (s : State) (samples : List Lane) : Power :=
  (List.range 96).foldl (fun acc c => acc.sample (decide (s.lodge.rounds = 0)) (s.lodge.rounds + 1) c (samples.getD c 0))
    { s.power with thermal := s.power.thermal.enforce }

/-- The module in a round that has taken its samples. -/
def State.inRound (s : State) (samples : List Lane) : State :=
  { s with power := s.sampled samples, lodge := { s.lodge with rounds := s.lodge.rounds + 1 } }

/-- The module after a round's thermal control, which runs while the rails are on (R534). -/
def State.controlled (s : State) (samples : List Lane) : State :=
  if (s.sampled samples).railsOn then (s.inRound samples).thermalRound else s.inRound samples

/-- A round's heartbeat, its sensors and the boundaries of its duties, from the state that its checks leave (R496, R511). -/
def State.endRound (s : State) (k : Nat) : State :=
  (s.setSteward k { s.steward k with hb := (s.steward k).hb + 1, lastTime := s.time.truncate 32 }).updateBoard.updateSensors.dutyBoundary 1
    |>.dutyBoundary 2 |>.dutyBoundary 7

/-- The rest of a round, once a waiting coefficient set has ended its command. -/
def State.roundFrom (s : State) (k : Nat) : State :=
  (allUnits.foldl (fun acc u => acc.checkUnit u) (if s.stwOn (s.dutyOwner 2) && s.power.railsOn then s.thermalRound else s)).endRound k

/-- The module in a round, with the command that a coefficient set in waiting ends (R512). -/
def State.roundStart (s : State) (samples : List Lane) : State :=
  match s.lodge.liveRun with
  | some r => if r.op = 3 then (s.inRound samples).liveEnd 0 else s.inRound samples
  | none => s.inRound samples

theorem State.roundFrom_of_match {s : State} {samples : List Lane} (h2 : s.stwOn (s.dutyOwner 2) = true)
    (hmatch : ∀ u ∈ allUnits, (s.controlled samples).isMismatch u = false) (k : Nat) :
    (s.inRound samples).roundFrom k = (s.controlled samples).endRound k := by
  have hon : (s.inRound samples).stwOn ((s.inRound samples).dutyOwner 2) = true := h2
  have hpower : (s.inRound samples).power = s.sampled samples := rfl
  rw [State.roundFrom, hon, Bool.true_and, hpower]
  exact congrArg (State.endRound · k) (State.foldl_checkUnit_of_match hmatch)

theorem exec_housekeepingRound_of_owned {s0 s : State} (hs : s0.fireInt 0 = s) (samples : List Lane) (dt : Nat)
    (h1 : s.stwOn (s.dutyOwner 1) = true) (h2 : s.stwOn (s.dutyOwner 2) = true) (hfree : s.lodge.liveRun = none)
    (hmatch : ∀ u ∈ allUnits, (s.controlled samples).isMismatch u = false) :
    exec (.housekeepingRound samples dt) s0 = .next ((s.controlled samples).endRound (s.dutyOwner 1)) := by
  subst hs
  have hexec : exec (.housekeepingRound samples dt) s0 =
      .next (((s0.fireInt 0).roundStart samples).roundFrom ((s0.fireInt 0).dutyOwner 1)) :=
    congrArg Host.Outcome.next (ite_not_of_true h1)
  have hstart : (s0.fireInt 0).roundStart samples = (s0.fireInt 0).inRound samples := by
    rw [State.roundStart, hfree]
  rw [hexec, hstart, State.roundFrom_of_match h2 hmatch]

/-! ### Calibration -/

/-- The correction that a calibration leaves at a hot spot (R516). -/
def Power.calibrated (p : Power) (i : Nat) : BitVec 16 :=
  match p.meanError (spotDie i) with
  | none => p.thermal.off.getD i 0
  | some e =>
    if 2 * e.natAbs ≤ 2 ^ 30 then p.thermal.off.getD i 0
    else BitVec.ofNat 16 (encodeFloat fmtF16 0 (clampF 20 (numAdd (decodeFloat fmtF16 (p.thermal.off.getD i 0).toNat)
      (clampF 2 (numMul (numOfInt e) (.fin false 1 (-30)))))))

theorem exec_thermalCalibrate_of_due {s : State} {j : Fin 4} (h0 : s.lodge.rounds ≠ 0) (hdue : s.lodge.rounds % 10000 = 0)
    (hown : s.dutyOwner 2 = j.val) (hon : s.stwOn j.val = true) :
    exec (.thermalCalibrate j) s = .next { s with power := { s.power with
      thermal := { s.power.thermal with pendOff := some ((List.range 136).map s.power.calibrated) }, errSum := [], errCount := [] } } := by
  have hgo : ¬ (s.lodge.rounds % 10000 ≠ 0 ∨ s.lodge.rounds = 0 ∨ s.dutyOwner 2 ≠ j.val ∨ s.stwOn j.val = false) := by
    simp [h0, hdue, hown, hon]
  exact congrArg Host.Outcome.next (if_neg hgo)

theorem Power.calibrated_getElem? (p : Power) {i : Nat} (hi : i < 136) : ((List.range 136).map p.calibrated)[i]? = some (p.calibrated i) := by
  simp [hi]

theorem Power.calibrated_of_unsampled {p : Power} {i : Nat} (h : p.meanError (spotDie i) = none) : p.calibrated i = p.thermal.off.getD i 0 := by
  rw [Power.calibrated, h]

theorem Power.calibrated_of_small {p : Power} {i : Nat} {e : Int} (h : p.meanError (spotDie i) = some e) (he : 2 * e.natAbs ≤ 2 ^ 30) :
    p.calibrated i = p.thermal.off.getD i 0 := by
  simp only [Power.calibrated, h, if_pos he]

/-- Settles O49. -/
theorem housekeepingRoundsAndCalibration : Obligations.HousekeepingRoundsAndCalibration := by
  intro s0 dt samples s k
  refine ⟨fun hoff => ?missed, fun h1 h2 hfree => exec_housekeepingRound_of_owned rfl samples dt h1 h2 hfree, fun j hno => ?early,
    fun j h0 hdue hown hon => ⟨_, exec_thermalCalibrate_of_due h0 hdue hown hon, by rw [List.length_map, List.length_range], fun i hi hnone => ?_,
      fun i e hi he hsmall => ?_⟩⟩
  case missed => exact congrArg Host.Outcome.next (if_pos (by rw [hoff]; rfl))
  case early =>
    refine congrArg Host.Outcome.next (if_pos ?_)
    tauto
  · rw [Power.calibrated_getElem? _ hi, Power.calibrated_of_unsampled hnone]
  · rw [Power.calibrated_getElem? _ hi, Power.calibrated_of_small he hsmall]

end Sys2Proof.Machine
end

section
/-! O50: module resets and the start-up. -/

namespace Sys2Proof.Machine

/-! ### The start-up -/

/-- The state once the boot ROM has taken a first-stage loader (R563). -/
def State.loaded (s : State) (a : Nat × Bool) : State := { s with lodge := { s.lodge with slotFsl := decide (a.1 = 1), fallback := a.2 } }

/-- What the loader finds does not depend on the slot that it was itself taken from. -/
theorem State.loaded_pickSlot (s : State) (a : Nat × Bool) (comp : Nat) (seen : Bool × Bool) :
    (s.loaded a).pickSlot comp seen = s.pickSlot comp seen := rfl

/-- The state once the loader has taken the steward firmware and the configuration data (R563; log entry 53). -/
def State.readyToRise (s : State) (a b c : Nat × Bool) : State :=
  State.firmwareSetup { s.loaded a with lodge := { (s.loaded a).lodge with
    slotFw := decide (b.1 = 1), slotCfg := decide (c.1 = 1), fallback := (s.loaded a).lodge.fallback || b.2 || c.2 } }

theorem State.readyToRise_railsOn (s : State) (a b c : Nat × Bool) : (s.readyToRise a b c).power.railsOn = s.power.railsOn := rfl

section Boot
variable {s : State} {o : StartupObs}

theorem State.bootUp_of_no_loader (h : s.pickSlot 2 o.fslGood = none) : s.bootUp o = s.enterRecovery true := by
  rw [State.bootUp, h]

theorem State.bootUp_of_no_firmware {a : Nat × Bool} (ha : s.pickSlot 2 o.fslGood = some a) (hb : s.pickSlot 1 o.fwGood = none) :
    s.bootUp o = (s.loaded a).enterRecovery false := by
  have hb' : (s.loaded a).pickSlot 1 o.fwGood = none := hb
  unfold State.loaded at hb'
  simp only [State.bootUp, ha, hb']
  rfl

theorem State.bootUp_of_images {a b c : Nat × Bool} (ha : s.pickSlot 2 o.fslGood = some a) (hb : s.pickSlot 1 o.fwGood = some b)
    (hc : s.pickSlot 3 o.cfgGood = some c) :
    s.bootUp o = if mayStart o then (s.readyToRise a b c).raiseRails o
      else { s.readyToRise a b c with lodge := { (s.readyToRise a b c).lodge with phase := 9 } } := by
  have hb' : (s.loaded a).pickSlot 1 o.fwGood = some b := hb
  have hc' : (s.loaded a).pickSlot 3 o.cfgGood = some c := hc
  unfold State.loaded at hb' hc'
  simp only [State.bootUp, ha, hb', hc']
  rfl

end Boot

theorem State.raiseRails_phase (s : State) (o : StartupObs) : (s.raiseRails o).lodge.phase = 6 ∧ (s.raiseRails o).power.pwrgd = true := by
  unfold State.raiseRails
  extract_lets
  exact ⟨rfl, rfl⟩

theorem State.afterReset_railsOn (s : State) (cause : Nat) (o : StartupObs) : (s.afterReset cause o).power.railsOn = false := rfl

/-- Settles O50. -/
theorem moduleResetsAndStartUp : Obligations.ModuleResetsAndStartUp := by
  intro s o
  refine ⟨rfl, fun ns h => congrArg Host.Outcome.next (if_pos h), fun ns h => congrArg Host.Outcome.next (if_neg (Nat.not_le.mpr h)),
    ⟨fun h => congrArg Host.Outcome.next (if_pos h), fun h => congrArg Host.Outcome.next (if_neg (by simp [h]))⟩, fun hoff => ?allOff,
    fun k hon halive => ?alive, fun h => congrArg Host.Outcome.next (if_pos h), fun h => congrArg Host.Outcome.next (if_neg (by simp [h])), rfl,
    ?reset, fun h9 hmay => ⟨_, congrArg Host.Outcome.next (if_pos ⟨h9, hmay⟩), State.raiseRails_phase _ o⟩, ?ready⟩
  case allOff =>
    have hdead : ∀ k, s.stwOn k = false := fun k => (congrArg (·.getLsbD k) hoff).trans BitVec.getLsbD_zero
    exact congrArg Host.Outcome.next (if_pos (List.all_eq_true.mpr fun k _ => by rw [hdead]; rfl))
  case alive =>
    refine congrArg Host.Outcome.next (if_neg fun hall => ?_)
    have hk := List.all_eq_true.mp hall k.val (List.mem_range.mpr k.isLt)
    rw [hon] at hk
    simp only [Bool.not_true, Bool.false_or, decide_eq_true_eq] at hk
    exact absurd hk (Nat.not_le.mpr halive)
  case reset =>
    intro cause r t
    have hoff : r.power.railsOn = false := s.afterReset_railsOn cause o
    refine ⟨rfl, rfl, rfl, rfl, rfl, rfl, rfl, fun h => ?_, fun a ha hb => ?_, fun a b c ha hb hc => ⟨fun hmay => ?_, fun hmay => ?_⟩⟩
    · have ht : t = r.enterRecovery true := State.bootUp_of_no_loader h
      rw [ht]
      exact ⟨rfl, rfl, hoff⟩
    · have ht : t = (r.loaded a).enterRecovery false := State.bootUp_of_no_firmware ha hb
      rw [ht]
      exact ⟨rfl, rfl, hoff⟩
    · have ht : t = (r.readyToRise a b c).raiseRails o := (State.bootUp_of_images ha hb hc).trans (if_pos hmay)
      rw [ht]
      exact State.raiseRails_phase _ o
    · have ht : t = { r.readyToRise a b c with lodge := { (r.readyToRise a b c).lodge with phase := 9 } } :=
        (State.bootUp_of_images ha hb hc).trans (if_neg (by simp [hmay]))
      rw [ht]
      exact ⟨rfl, (r.readyToRise_railsOn a b c).trans hoff⟩
  case ready =>
    intro speed width flit ms h6 hperst hlost
    have hgo : ¬ (s.lodge.phase ≠ 6 ∨ s.lodge.perst = true) := by simp [h6, hperst]
    have hquiet (t : State) (h : t.lostUnits = []) : t.lostUnits.foldl (fun acc u => acc.send (.aer (BitVec.ofNat 16 u))) t = t := by
      rw [h, List.foldl_nil]
    exact congrArg Host.Outcome.next ((if_neg hgo).trans (hquiet _ hlost))

end Sys2Proof.Machine
end

section
/-! O51: bring-up access, boundary scan, and trace markers. -/

namespace Sys2Proof.Machine

/-! ### The wrappers -/

/-- The registers of bring-up access as a command leaves them (R604). -/
def State.buNote (s : State) (word : Nat) (err : Bool) (data : Reg64) : State :=
  { s with lodge := { s.lodge with buCmd := BitVec.ofNat 64 (buFields word + bitAt err 62), buData := data } }

theorem State.buGo_of_refused {s : State} (h : s.buRefused = true) (word : Nat) (dataIn : Reg64) (run : State → State × Reg64) :
    s.buGo word dataIn run = s.buNote word true dataIn := if_pos h

theorem State.buGo_of_accepted {s : State} (h : s.buRefused = false) (word : Nat) (dataIn : Reg64) (run : State → State × Reg64) :
    s.buGo word dataIn run = ((run s).1.buNote word false (run s).2).send (.wrapper (run s).2) := if_neg (by simp [h])

/-- What a repair that finds a spare row records (R257, R605). -/
theorem exec_softRepair_of_spare {s : State} (h : s.buRefused = false) (n : Fin 8) (die : BitVec 5) (arg : BitVec 64)
    (hspare : mget 0 (s.stack n.val).spareUsed (fld arg.toNat 0 6 * 32 + fld arg.toNat 6 5) < 4) :
    let page := fld arg.toNat 0 6 * 524288 + (fld arg.toNat 11 14 * 32 + fld arg.toNat 6 5)
    ∃ t, exec (.softRepair n die arg) s = .next t ∧
      t.lodge.nvRepairs = (s.migratePage n.val page).lodge.nvRepairs ++ [(n.val * 2, page)] ∧ t.lodge.buData = arg := by
  intro page
  change ∃ t, execSoftRepair n die arg s = .next t ∧ _
  rw [execSoftRepair, State.buGo_of_accepted h]
  simp only [if_neg (Nat.not_le.mpr hspare)]
  exact ⟨_, rfl, rfl, rfl⟩

theorem exec_softRepair_of_full {s : State} (h : s.buRefused = false) (n : Fin 8) (die : BitVec 5) (arg : BitVec 64)
    (hfull : 4 ≤ mget 0 (s.stack n.val).spareUsed (fld arg.toNat 0 6 * 32 + fld arg.toNat 6 5)) :
    exec (.softRepair n die arg) s = .next ((s.buNote (buWord n.val die.toNat 0xC1 63 true) false arg).send (.wrapper arg)) := by
  refine congrArg Host.Outcome.next ((State.buGo_of_accepted h _ arg _).trans ?_)
  simp only [if_pos hfull]

/-! ### Boundary scan -/

theorem State.testInstruction_of_stopped {s : State} (h : s.lodge.phase = 8 ∨ s.lodge.phase = 9) (code : Byte) :
    s.testInstruction code = { s with lodge := { s.lodge with tap := code, testInForce := true } } := if_pos h

theorem State.testInstruction_of_running {s : State} (h8 : s.lodge.phase ≠ 8) (h9 : s.lodge.phase ≠ 9) (code : Byte) :
    s.testInstruction code = { s with lodge := { s.lodge with tap := 0xFF, jtagRef := true } } := if_neg (not_or.mpr ⟨h8, h9⟩)

/-- The instructions with the codes 3 to 7 (R606). -/
theorem exec_of_test_code (s : State) {c : Nat} (h3 : 3 ≤ c) (h7 : c ≤ 7) :
    exec (if c = 3 then .extest else if c = 4 then .extestPulse else if c = 5 then .extestTrain else if c = 6 then .clamp else .highz) s =
      .next (s.testInstruction (BitVec.ofNat 8 c)) := by
  interval_cases c <;> rfl

/-! ### Trace markers -/

theorem class_lt_of_mem_allUnits {u : Nat} (h : u ∈ allUnits) : u / 4096 < 9 := by
  simp only [allUnits, List.mem_flatMap, List.mem_map, List.mem_range] at h
  obtain ⟨c, hc, i, hi, rfl⟩ := h
  have hcount : unitCount c ≤ 512 := by
    unfold unitCount
    split <;> omega
  unfold unitId
  omega

/-- No unit of a disabled class leaves a record (R609). -/
theorem State.trace_of_class_off {s : State} {u : Nat} (h : s.lodge.traceCtl.getLsbD (u / 4096) = false) (kind data : Nat) :
    s.trace u kind data = s := if_pos (by simp [h])

theorem State.foldl_trace_of_class_off {s : State} {l : List Nat} (h : ∀ u ∈ l, s.lodge.traceCtl.getLsbD (u / 4096) = false) (data : Nat) :
    l.foldl (fun acc u => acc.trace u 1 data) s = s := by
  induction l with
  | nil => rfl
  | cons u l ih =>
    rw [List.foldl_cons, State.trace_of_class_off (h u (List.mem_cons_self ..))]
    exact ih fun v hv => h v (List.mem_cons_of_mem u hv)

/-- Settles O51. -/
theorem bringUpBoundaryScanAndMarkers : Obligations.BringUpBoundaryScanAndMarkers := by
  intro s note
  refine ⟨?wrappers, ⟨rfl, rfl, fun c hc => congrArg Host.Outcome.next (if_pos hc)⟩, ?scan, fun hoff => ?unmarked, fun hon hclasses => ?marked⟩
  case wrappers =>
    intro n die arg count cmd cap bank k
    refine ⟨fun hno => ?refused, fun hgo => ⟨?query, exec_softRepair_of_full hgo n die arg, exec_softRepair_of_spare hgo n die arg, ?odecc,
      fun hw => ?written,
      fun hr => ?read⟩⟩
    case refused =>
      have hexec (word : Nat) (data : Reg64) (run : State → State × Reg64) :=
        congrArg (Host.Outcome.next (φ := Fault) (ρ := Refusal)) (State.buGo_of_refused hno word data run)
      exact ⟨hexec _ _ _, hexec _ _ _, hexec _ _ _, hexec _ _ _⟩
    case query => exact congrArg Host.Outcome.next (State.buGo_of_accepted hgo _ arg _)
    case odecc => exact congrArg Host.Outcome.next (State.buGo_of_accepted hgo _ s.lodge.buData _)
    case written =>
      refine congrArg Host.Outcome.next ((State.buGo_of_accepted hgo _ s.lodge.buData _).trans ?_)
      simp only [if_pos hw]
      rfl
    case read =>
      refine congrArg Host.Outcome.next ((State.buGo_of_accepted hgo _ s.lodge.buData _).trans ?_)
      simp only [hr, Bool.false_eq_true, if_false]
      rfl
  case scan =>
    intro c h3 h7 row
    have hexec : exec row s = .next (s.testInstruction (BitVec.ofNat 8 c)) := exec_of_test_code s h3 h7
    exact ⟨fun h => hexec.trans (congrArg Host.Outcome.next (State.testInstruction_of_stopped h _)),
      fun h8 h9 => hexec.trans (congrArg Host.Outcome.next (State.testInstruction_of_running h8 h9 _))⟩
  case unmarked => exact congrArg Host.Outcome.next (if_pos (by rw [hoff]; rfl))
  case marked =>
    have hgo : ¬ (!s.lodge.traceCtl.getLsbD 9) = true := by simp [hon]
    refine congrArg Host.Outcome.next ((if_neg hgo).trans (State.foldl_trace_of_class_off (fun u hu => ?_) _))
    exact hclasses _ (class_lt_of_mem_allUnits (List.mem_filter.mp hu).1)

end Sys2Proof.Machine
end
